-- ==== Sys2Proof/Word.lean ====
section
/-! DEFINITION. The word types of the EK-S24 and their plainest arithmetic (R9, R10, R57). -/

namespace Sys2Proof

/-- One byte of memory or of a row (R9). -/
abbrev Byte := BitVec 8

/-- A scalar register, a system register, a program counter (R98, R101). -/
abbrev Word := BitVec 64

/-- The 256 bytes of a vector row, byte 0 in the low bits (R9). -/
abbrev RowBits := BitVec 2048

/-- A handle (R255). -/
abbrev HBits := BitVec 256

/-- Bits [lo + n - 1 : lo] of a number (R9). -/
def bits (w lo n : Nat) : Nat := w / 2 ^ lo % 2 ^ n

/-- Bit `n` of a number. -/
def bit (w n : Nat) : Bool := w / 2 ^ n % 2 == 1

/-- A Bool as the bit it stands for. -/
def b2n (b : Bool) : Nat := if b then 1 else 0

end Sys2Proof
end

