-- ==== Sys2Proof/Syntax.lean ====
section
/-! DEFINITION. The instructions, operands and events of the EK-S24: one constructor of `Instr` for each row of
spec/opcode_table.json. Fields are the operand fields of R59-R65 and R84-R95; reserved codes have no value here. -/

namespace Sys2Proof

/-- Rounding modes (R25), the MODE values of R68. -/
inductive RMode where
  | rne | rtz | rdn | rup | rna | rsr
  deriving DecidableEq, Repr, Inhabited

/-- A prefix parcel (R68). -/
inductive Pfx where
  | round (m : RMode) (key : BitVec 4)
  | arith (sat ftz q : Bool)
  | imm (x : BitVec 25)
  deriving DecidableEq, Repr

/-- The guard fields GA, GB, GC and TT (R60, R66). -/
structure Guard where
  a : BitVec 3
  b : BitVec 3
  c : BitVec 3
  tt : BitVec 8
  deriving DecidableEq, Repr, Inhabited

/-- The unguarded encoding (R66). -/
def Guard.none : Guard := ⟨0, 0, 0, 0xFF⟩

/-- What precedes the operands of a unit: its prefixes in address order, the landing bit and the guard (R58, R70). -/
structure Hdr where
  pfx : List Pfx
  t : Bool
  g : Guard
  deriving DecidableEq, Repr, Inhabited

/-- No prefix, T = 0, unguarded. -/
def Hdr.plain : Hdr := ⟨[], false, .none⟩

/-- A row operand v, b or o (R62). -/
inductive Row where
  | v (n : BitVec 8)
  | b (n : BitVec 9)
  | o (n : BitVec 3)
  deriving DecidableEq, Repr, Inhabited

/-- A source row: a row or the latch lx (R62). -/
inductive RowSrc where
  | row (r : Row)
  | lx
  deriving DecidableEq, Repr, Inhabited

/-- A vector source operand (R62). -/
inductive VSrc where
  | row (r : Row)
  | lx
  | scal (s : BitVec 5)
  | imm (n : BitVec 9)
  deriving DecidableEq, Repr, Inhabited

/-- A scalar or immediate operand code (R138, R161). -/
inductive SImm where
  | scal (s : BitVec 5)
  | imm (n : BitVec 9)
  deriving DecidableEq, Repr, Inhabited

/-- The vector element types, by type index (R86). -/
inductive VTy where
  | i32 | u32 | i8 | f32 | f16 | bf16
  deriving DecidableEq, Repr, Inhabited

/-- The formats of R19. -/
inductive Fmt where
  | int4 | int8 | int32 | int64 | u32 | fp32 | fp16 | bf16 | e4m3 | e5m2 | e3m2 | e2m3 | e2m1 | e8m0 | af128
  deriving DecidableEq, Repr, Inhabited

/-- Element formats of `vquant` and `vdequant`, by OPC offset (R89). -/
inductive MxFmt where
  | e4m3 | e5m2 | e3m2 | e2m3 | e2m1
  deriving DecidableEq, Repr, Inhabited

/-- Element formats of `vdot4`, by OPC offset (R88). -/
inductive DotFmt where
  | i8 | e4m3 | e5m2 | e2m1
  deriving DecidableEq, Repr, Inhabited

/-- Matrix element types, by code (R93). -/
inductive MTy where
  | bf16 | f16 | e4m3 | e5m2 | e3m2 | e2m3 | e2m1 | i8 | i4
  deriving DecidableEq, Repr, Inhabited

/-- Scale mode of `mma` (R93). -/
inductive MScale where
  | none | mx | s128
  deriving DecidableEq, Repr, Inhabited

/-- A source of `mma`: first band row or lx (R93). -/
inductive ASrc where
  | band (b : BitVec 9)
  | lx
  deriving DecidableEq, Repr, Inhabited

/-- Output format field of `mdrain`; 0x0 and 0x8 both name FP32 (R236). -/
inductive OutFmt where
  | dflt | int8 | int32 | fp32 | fp16 | bf16 | e4m3 | e5m2
  deriving DecidableEq, Repr, Inhabited

/-- Compare conditions (R63). -/
inductive Cond where
  | eq | ne | lt | le | gt | ge | un | or
  deriving DecidableEq, Repr, Inhabited

/-- Compare forms, the X2 values of R63. -/
inductive CForm where
  | plain | unc | and | or
  deriving DecidableEq, Repr, Inhabited

/-- Element width of a memory instruction (R86). -/
inductive EW where
  | w4 | w8 | w16 | w32
  deriving DecidableEq, Repr, Inhabited

/-- The four address spaces, by SPACE code (R244). -/
inductive Space where
  | fixed | stream | accrue | loose
  deriving DecidableEq, Repr, Inhabited

/-- Scopes (R4, R90). -/
inductive Scope where
  | strand | core | cluster | die | package | fabric | system
  deriving DecidableEq, Repr, Inhabited

/-- Source format of `acc.add.af`, by X2 (R90). -/
inductive AfSrc where
  | f32 | f16 | bf16 | i32
  deriving DecidableEq, Repr, Inhabited

/-- Type of a `sacc` command, by X2 (R93). -/
inductive SaccTy where
  | i32 | i64 | af
  deriving DecidableEq, Repr, Inhabited

/-- Ordering of an atomic (R91). -/
inductive Ord4 where
  | relaxed | acq | rel | ar
  deriving DecidableEq, Repr, Inhabited

/-- The fields of a Loose atomic (R91). -/
structure AmoF where
  ord : Ord4
  scope : Scope
  w64 : Bool
  uns : Bool
  deriving DecidableEq, Repr, Inhabited

/-- A source operand of a pair word's vector half (R65). -/
inductive PSrc where
  | v (n : BitVec 5)
  | o (n : BitVec 3)
  | lx
  | scal (s : BitVec 4)
  deriving DecidableEq, Repr, Inhabited

/-- Scalar half of a pair word (R95). -/
inductive PairS where
  | nop
  | add (d a b : BitVec 5)
  | sub (d a b : BitVec 5)
  | and (d a b : BitVec 5)
  | or (d a b : BitVec 5)
  | xor (d a b : BitVec 5)
  | min (d a b : BitVec 5)
  | max (d a b : BitVec 5)
  | addi (d a imm : BitVec 5)
  | shl (d a n : BitVec 5)
  | shr (d a n : BitVec 5)
  | sar (d a n : BitVec 5)
  | mov (d a : BitVec 5)
  | movi (d imm : BitVec 5)
  deriving DecidableEq, Repr, Inhabited

/-- Vector half of a pair word (R95). -/
inductive PairV where
  | nop
  | vaddI32 (d : BitVec 5) (a b : PSrc)
  | vsubI32 (d : BitVec 5) (a b : PSrc)
  | vmulI32 (d : BitVec 5) (a b : PSrc)
  | vminI32 (d : BitVec 5) (a b : PSrc)
  | vmaxI32 (d : BitVec 5) (a b : PSrc)
  | vand (d : BitVec 5) (a b : PSrc)
  | vor (d : BitVec 5) (a b : PSrc)
  | vxor (d : BitVec 5) (a b : PSrc)
  | vmov (d : BitVec 5) (a : PSrc)
  | vaddF32 (d : BitVec 5) (a b : PSrc)
  | vsubF32 (d : BitVec 5) (a b : PSrc)
  | vmulF32 (d : BitVec 5) (a b : PSrc)
  | vfmaF32 (d : BitVec 5) (a b : PSrc)
  | vminF32 (d : BitVec 5) (a b : PSrc)
  | vmaxF32 (d : BitVec 5) (a b : PSrc)
  deriving DecidableEq, Repr, Inhabited

/-- System and core registers (R100, R177). -/
inductive SysReg where
  | status | plive | vwb | swb | part | portmap | wlim | spillh | wstat | thnd | tcause | tpc | tval | tlanes | srkey
  | flnv | fldz | flof | fluf | flnx | cycle | stcyc
  | wptr (n : BitVec 2) | tokq | cqocc | cmdocc | corenum | bankloss (n : BitVec 4) | bfull (n : BitVec 3)
  | bpsn (n : BitVec 3)
  deriving DecidableEq, Repr, Inhabited

/-- Why a unit is rejected before it executes (R70, R73). `off` counts parcels from the unit's first parcel to TPC. -/
inductive Reject where
  | ill (tval : BitVec 64)
  | orphan (off : Nat) (tval : BitVec 64)
  | pfxkind (tval : BitVec 64)
  deriving DecidableEq, Repr, Inhabited

/-- A collective message (R349, R357): destination module and die, TAG, check word, the sending die, its member number
and collective number, the source format, the destination elements with their source codes, poison. -/
structure Message where
  module_ : Nat := 0
  die : Nat := 0
  tag : BitVec 32 := 0
  check : BitVec 32 := 0
  sender : Nat := 0
  member : Nat := 0
  num : BitVec 16 := 0
  fmt : Fmt := .fp32
  cells : List (Nat × Nat) := []
  poison : Bool := false
  deriving DecidableEq, Repr, Inhabited

/-- One constructor for each row of the opcode table: encoded instructions first, then the events of the agents. -/
inductive Instr where
  /-- `nop` (R133). -/
  | nop (u : Hdr)
  /-- `add` short register form (R129, R130). -/
  | addSr (u : Hdr) (d a b : BitVec 5)
  /-- `sub` short register form (R129, R130). -/
  | subSr (u : Hdr) (d a b : BitVec 5)
  /-- `mul` short register form (R129, R130). -/
  | mulSr (u : Hdr) (d a b : BitVec 5)
  /-- `mulh` short register form (R129, R130). -/
  | mulhSr (u : Hdr) (d a b : BitVec 5)
  /-- `mulhu` short register form (R129, R130). -/
  | mulhuSr (u : Hdr) (d a b : BitVec 5)
  /-- `div` short register form (R129, R130). -/
  | divSr (u : Hdr) (d a b : BitVec 5)
  /-- `divu` short register form (R129, R130). -/
  | divuSr (u : Hdr) (d a b : BitVec 5)
  /-- `rem` short register form (R129, R130). -/
  | remSr (u : Hdr) (d a b : BitVec 5)
  /-- `remu` short register form (R129, R130). -/
  | remuSr (u : Hdr) (d a b : BitVec 5)
  /-- `and` short register form (R129, R130). -/
  | andSr (u : Hdr) (d a b : BitVec 5)
  /-- `or` short register form (R129, R130). -/
  | orSr (u : Hdr) (d a b : BitVec 5)
  /-- `xor` short register form (R129, R130). -/
  | xorSr (u : Hdr) (d a b : BitVec 5)
  /-- `shl` short register form (R129, R130). -/
  | shlSr (u : Hdr) (d a b : BitVec 5)
  /-- `shr` short register form (R129, R130). -/
  | shrSr (u : Hdr) (d a b : BitVec 5)
  /-- `sar` short register form (R129, R130). -/
  | sarSr (u : Hdr) (d a b : BitVec 5)
  /-- `min` short register form (R129, R130). -/
  | minSr (u : Hdr) (d a b : BitVec 5)
  /-- `max` short register form (R129, R130). -/
  | maxSr (u : Hdr) (d a b : BitVec 5)
  /-- `minu` short register form (R129, R130). -/
  | minuSr (u : Hdr) (d a b : BitVec 5)
  /-- `maxu` short register form (R129, R130). -/
  | maxuSr (u : Hdr) (d a b : BitVec 5)
  /-- `add` short immediate form (R131). -/
  | addSi (u : Hdr) (d a : BitVec 5) (imm : BitVec 14)
  /-- `sub` short immediate form (R131). -/
  | subSi (u : Hdr) (d a : BitVec 5) (imm : BitVec 14)
  /-- `and` short immediate form (R131). -/
  | andSi (u : Hdr) (d a : BitVec 5) (imm : BitVec 14)
  /-- `or` short immediate form (R131). -/
  | orSi (u : Hdr) (d a : BitVec 5) (imm : BitVec 14)
  /-- `xor` short immediate form (R131). -/
  | xorSi (u : Hdr) (d a : BitVec 5) (imm : BitVec 14)
  /-- `shl` short immediate form (R131). -/
  | shlSi (u : Hdr) (d a : BitVec 5) (n : BitVec 6)
  /-- `shr` short immediate form (R131). -/
  | shrSi (u : Hdr) (d a : BitVec 5) (n : BitVec 6)
  /-- `sar` short immediate form (R131). -/
  | sarSi (u : Hdr) (d a : BitVec 5) (n : BitVec 6)
  /-- `movi` short form (R133). -/
  | moviSi (u : Hdr) (d : BitVec 5) (imm : BitVec 14)
  /-- `br` short form (R122). -/
  | brSj (u : Hdr) (disp : BitVec 24)
  /-- `br` long form (R122). -/
  | brLb (u : Hdr) (disp : BitVec 32)
  /-- `loop` (R123). -/
  | loop (u : Hdr) (a : BitVec 5) (disp : BitVec 22)
  /-- `call` (R124, R108). -/
  | call (u : Hdr) (disp : BitVec 22) (frm : BitVec 6)
  /-- `callr` (R124, R108). -/
  | callr (u : Hdr) (a : BitVec 5) (frm : BitVec 6)
  /-- `jr` (R125). -/
  | jr (u : Hdr) (a : BitVec 5)
  /-- `ret` (R109, R126). -/
  | ret (u : Hdr)
  /-- `trap` (R127). -/
  | trap (u : Hdr) (code : BitVec 12)
  /-- `eret` (R115, R128). -/
  | eret (u : Hdr)
  /-- `add` long register form (R129, R130, R132). -/
  | addLs (u : Hdr) (d a b : BitVec 5)
  /-- `sub` long register form (R129, R130, R132). -/
  | subLs (u : Hdr) (d a b : BitVec 5)
  /-- `mul` long register form (R129, R130, R132). -/
  | mulLs (u : Hdr) (d a b : BitVec 5)
  /-- `mulh` long register form (R129, R130, R132). -/
  | mulhLs (u : Hdr) (d a b : BitVec 5)
  /-- `mulhu` long register form (R129, R130, R132). -/
  | mulhuLs (u : Hdr) (d a b : BitVec 5)
  /-- `div` long register form (R129, R130, R132). -/
  | divLs (u : Hdr) (d a b : BitVec 5)
  /-- `divu` long register form (R129, R130, R132). -/
  | divuLs (u : Hdr) (d a b : BitVec 5)
  /-- `rem` long register form (R129, R130, R132). -/
  | remLs (u : Hdr) (d a b : BitVec 5)
  /-- `remu` long register form (R129, R130, R132). -/
  | remuLs (u : Hdr) (d a b : BitVec 5)
  /-- `and` long register form (R129, R130, R132). -/
  | andLs (u : Hdr) (d a b : BitVec 5)
  /-- `or` long register form (R129, R130, R132). -/
  | orLs (u : Hdr) (d a b : BitVec 5)
  /-- `xor` long register form (R129, R130, R132). -/
  | xorLs (u : Hdr) (d a b : BitVec 5)
  /-- `shl` long register form (R129, R130, R132). -/
  | shlLs (u : Hdr) (d a b : BitVec 5)
  /-- `shr` long register form (R129, R130, R132). -/
  | shrLs (u : Hdr) (d a b : BitVec 5)
  /-- `sar` long register form (R129, R130, R132). -/
  | sarLs (u : Hdr) (d a b : BitVec 5)
  /-- `min` long register form (R129, R130, R132). -/
  | minLs (u : Hdr) (d a b : BitVec 5)
  /-- `max` long register form (R129, R130, R132). -/
  | maxLs (u : Hdr) (d a b : BitVec 5)
  /-- `minu` long register form (R129, R130, R132). -/
  | minuLs (u : Hdr) (d a b : BitVec 5)
  /-- `maxu` long register form (R129, R130, R132). -/
  | maxuLs (u : Hdr) (d a b : BitVec 5)
  /-- `add` long immediate form (R131, R132). -/
  | addLi (u : Hdr) (d a : BitVec 5) (imm : BitVec 22)
  /-- `sub` long immediate form (R131, R132). -/
  | subLi (u : Hdr) (d a : BitVec 5) (imm : BitVec 22)
  /-- `mul` long immediate form (R131, R132). -/
  | mulLi (u : Hdr) (d a : BitVec 5) (imm : BitVec 22)
  /-- `and` long immediate form (R131, R132). -/
  | andLi (u : Hdr) (d a : BitVec 5) (imm : BitVec 22)
  /-- `or` long immediate form (R131, R132). -/
  | orLi (u : Hdr) (d a : BitVec 5) (imm : BitVec 22)
  /-- `xor` long immediate form (R131, R132). -/
  | xorLi (u : Hdr) (d a : BitVec 5) (imm : BitVec 22)
  /-- `shl` long immediate form (R131, R132). -/
  | shlLi (u : Hdr) (d a : BitVec 5) (n : BitVec 6)
  /-- `shr` long immediate form (R131, R132). -/
  | shrLi (u : Hdr) (d a : BitVec 5) (n : BitVec 6)
  /-- `sar` long immediate form (R131, R132). -/
  | sarLi (u : Hdr) (d a : BitVec 5) (n : BitVec 6)
  /-- `min` long immediate form (R131, R132). -/
  | minLi (u : Hdr) (d a : BitVec 5) (imm : BitVec 22)
  /-- `max` long immediate form (R131, R132). -/
  | maxLi (u : Hdr) (d a : BitVec 5) (imm : BitVec 22)
  /-- `minu` long immediate form (R131, R132). -/
  | minuLi (u : Hdr) (d a : BitVec 5) (imm : BitVec 22)
  /-- `maxu` long immediate form (R131, R132). -/
  | maxuLi (u : Hdr) (d a : BitVec 5) (imm : BitVec 22)
  /-- `movi` long form (R133). -/
  | moviLi (u : Hdr) (d : BitVec 5) (imm : BitVec 22)
  /-- `cmp` (R138). -/
  | cmp (u : Hdr) (form : CForm) (cond : Cond) (pe pd : BitVec 3) (a b : BitVec 5)
  /-- `cmpu` (R138). -/
  | cmpu (u : Hdr) (form : CForm) (cond : Cond) (pe pd : BitVec 3) (a b : BitVec 5)
  /-- `cmpi` (R138). -/
  | cmpi (u : Hdr) (form : CForm) (cond : Cond) (pe pd : BitVec 3) (a : BitVec 5) (imm : BitVec 9)
  /-- `cmpui` (R138). -/
  | cmpui (u : Hdr) (form : CForm) (cond : Cond) (pe pd : BitVec 3) (a : BitVec 5) (imm : BitVec 9)
  /-- `fcmp` (R138). -/
  | fcmp (u : Hdr) (form : CForm) (cond : Cond) (pe pd : BitVec 3) (a : BitVec 5) (b : SImm)
  /-- `fadd` (R135). -/
  | fadd (u : Hdr) (d a b : BitVec 5)
  /-- `fsub` (R135). -/
  | fsub (u : Hdr) (d a b : BitVec 5)
  /-- `fmul` (R135). -/
  | fmul (u : Hdr) (d a b : BitVec 5)
  /-- `fdiv` (R135). -/
  | fdiv (u : Hdr) (d a b : BitVec 5)
  /-- `fsqrt` (R135). -/
  | fsqrt (u : Hdr) (d a : BitVec 5)
  /-- `ffma` (R135). -/
  | ffma (u : Hdr) (d a b c : BitVec 5)
  /-- `fmin` (R136). -/
  | fmin (u : Hdr) (d a b : BitVec 5)
  /-- `fmax` (R136). -/
  | fmax (u : Hdr) (d a b : BitVec 5)
  /-- `fabs` (R136). -/
  | fabs (u : Hdr) (d a : BitVec 5)
  /-- `fneg` (R136). -/
  | fneg (u : Hdr) (d a : BitVec 5)
  /-- `fcvti` (R137). -/
  | fcvti (u : Hdr) (d a : BitVec 5)
  /-- `fcvtf` (R137). -/
  | fcvtf (u : Hdr) (d a : BitVec 5)
  /-- `pcomb` (R139). -/
  | pcomb (u : Hdr) (d a b c : BitVec 3) (tt : BitVec 8)
  /-- `pcount` (R140). -/
  | pcount (u : Hdr) (d : BitVec 5) (a : BitVec 3)
  /-- `pfirst` (R140). -/
  | pfirst (u : Hdr) (d : BitVec 5) (a : BitVec 3)
  /-- `pget` (R140). -/
  | pget (u : Hdr) (d : BitVec 5) (a : BitVec 3)
  /-- `pset` (R140). -/
  | pset (u : Hdr) (d : BitVec 3) (a : BitVec 5)
  /-- `plive` (R141). -/
  | plive (u : Hdr) (mask : BitVec 8)
  /-- `feat` (R142). -/
  | feat (u : Hdr) (d : BitVec 5) (imm : BitVec 22)
  /-- `sysr` (R143). -/
  | sysr (u : Hdr) (d : BitVec 5) (r : SysReg)
  /-- `sysw` (R143). -/
  | sysw (u : Hdr) (r : SysReg) (a : BitVec 5)
  /-- `ctxsave` (R145). -/
  | ctxsave (u : Hdr) (a : BitVec 5)
  /-- `ctxrestore` (R146). -/
  | ctxrestore (u : Hdr) (a : BitVec 5)
  /-- `vadd` (R152, R153). -/
  | vadd (u : Hdr) (ty : VTy) (g : BitVec 2) (d : Row) (a b : VSrc)
  /-- `vsub` (R152, R153). -/
  | vsub (u : Hdr) (ty : VTy) (g : BitVec 2) (d : Row) (a b : VSrc)
  /-- `vmul` (R152, R153). -/
  | vmul (u : Hdr) (ty : VTy) (g : BitVec 2) (d : Row) (a b : VSrc)
  /-- `vmulh` (R152, R153). -/
  | vmulh (u : Hdr) (ty : VTy) (g : BitVec 2) (d : Row) (a b : VSrc)
  /-- `vmin` (R152, R153). -/
  | vmin (u : Hdr) (ty : VTy) (g : BitVec 2) (d : Row) (a b : VSrc)
  /-- `vmax` (R152, R153). -/
  | vmax (u : Hdr) (ty : VTy) (g : BitVec 2) (d : Row) (a b : VSrc)
  /-- `vabs` (R152, R153). -/
  | vabs (u : Hdr) (ty : VTy) (g : BitVec 2) (d : Row) (a : VSrc)
  /-- `vneg` (R152, R153). -/
  | vneg (u : Hdr) (ty : VTy) (g : BitVec 2) (d : Row) (a : VSrc)
  /-- `vfma` (R153). -/
  | vfma (u : Hdr) (ty : VTy) (g : BitVec 2) (d : Row) (a b : VSrc)
  /-- `vdiv` (R153). -/
  | vdiv (u : Hdr) (ty : VTy) (g : BitVec 2) (d : Row) (a b : VSrc)
  /-- `vrcp.f32` (R154). -/
  | vrcp (u : Hdr) (g : BitVec 2) (d : Row) (a : VSrc)
  /-- `vrsqrt.f32` (R154). -/
  | vrsqrt (u : Hdr) (g : BitVec 2) (d : Row) (a : VSrc)
  /-- `vsqrt.f32` (R154). -/
  | vsqrt (u : Hdr) (g : BitVec 2) (d : Row) (a : VSrc)
  /-- `vexp2.f32` (R154). -/
  | vexp2 (u : Hdr) (g : BitVec 2) (d : Row) (a : VSrc)
  /-- `vlog2.f32` (R154). -/
  | vlog2 (u : Hdr) (g : BitVec 2) (d : Row) (a : VSrc)
  /-- `vshl` (R155). -/
  | vshl (u : Hdr) (ty : VTy) (g : BitVec 2) (d : Row) (a b : VSrc)
  /-- `vshr` (R155). -/
  | vshr (u : Hdr) (ty : VTy) (g : BitVec 2) (d : Row) (a b : VSrc)
  /-- `vsar` (R155). -/
  | vsar (u : Hdr) (ty : VTy) (g : BitVec 2) (d : Row) (a b : VSrc)
  /-- `vand` (R155). -/
  | vand (u : Hdr) (g : BitVec 2) (d : Row) (a b : VSrc)
  /-- `vor` (R155). -/
  | vor (u : Hdr) (g : BitVec 2) (d : Row) (a b : VSrc)
  /-- `vxor` (R155). -/
  | vxor (u : Hdr) (g : BitVec 2) (d : Row) (a b : VSrc)
  /-- `vnot` (R155). -/
  | vnot (u : Hdr) (g : BitVec 2) (d : Row) (a : VSrc)
  /-- `vmov` (R155). -/
  | vmov (u : Hdr) (g : BitVec 2) (d : Row) (a : VSrc)
  /-- `vcmp` (R156). -/
  | vcmp (u : Hdr) (form : CForm) (ty : VTy) (cond : Cond) (pe pd : BitVec 3) (a b : VSrc)
  /-- `vcvt.dst.src` (R157). -/
  | vcvt (u : Hdr) (dst src : Fmt) (d : Row) (a : VSrc)
  /-- `vquant` (R158). -/
  | vquant (u : Hdr) (f : MxFmt) (blk : BitVec 2) (d : Row) (a : VSrc) (vs : Row)
  /-- `vdequant` (R159). -/
  | vdequant (u : Hdr) (f : MxFmt) (blk : BitVec 2) (d : Row) (a vs : VSrc)
  /-- `vdot4` (R160). -/
  | vdot4 (u : Hdr) (f : DotFmt) (d : Row) (a b : VSrc)
  /-- `vperm` (R161). -/
  | vperm (u : Hdr) (d : Row) (a b : VSrc)
  /-- `vbcast` (R161). -/
  | vbcast (u : Hdr) (d : Row) (a : VSrc) (b : SImm)
  /-- `vrot` (R161). -/
  | vrot (u : Hdr) (d : Row) (a : VSrc) (b : SImm)
  /-- `vredsum` (R162, R163). -/
  | vredsum (u : Hdr) (ty : VTy) (d : Row) (a : VSrc)
  /-- `vredmin` (R162, R163). -/
  | vredmin (u : Hdr) (ty : VTy) (d : Row) (a : VSrc)
  /-- `vredmax` (R162, R163). -/
  | vredmax (u : Hdr) (ty : VTy) (d : Row) (a : VSrc)
  /-- `vscan` (R162, R163). -/
  | vscan (u : Hdr) (ty : VTy) (d : Row) (a : VSrc)
  /-- `vcompress` (R164). -/
  | vcompress (u : Hdr) (d : Row) (a : VSrc)
  /-- `vexpand` (R164). -/
  | vexpand (u : Hdr) (d : Row) (a : VSrc)
  /-- `vget` (R165). -/
  | vget (u : Hdr) (d : Row) (a : BitVec 5)
  /-- `vput` (R165). -/
  | vput (u : Hdr) (src : RowSrc) (a : BitVec 5)
  /-- pair word, scalar half the no-operation, vector half `v` (R95). -/
  | pairSNop (u : Hdr) (v : PairV)
  /-- pair word, scalar half `add`, vector half the no-operation (R95). -/
  | pairSAdd (u : Hdr) (d a b : BitVec 5)
  /-- pair word, scalar half `sub`, vector half the no-operation (R95). -/
  | pairSSub (u : Hdr) (d a b : BitVec 5)
  /-- pair word, scalar half `and`, vector half the no-operation (R95). -/
  | pairSAnd (u : Hdr) (d a b : BitVec 5)
  /-- pair word, scalar half `or`, vector half the no-operation (R95). -/
  | pairSOr (u : Hdr) (d a b : BitVec 5)
  /-- pair word, scalar half `xor`, vector half the no-operation (R95). -/
  | pairSXor (u : Hdr) (d a b : BitVec 5)
  /-- pair word, scalar half `min`, vector half the no-operation (R95). -/
  | pairSMin (u : Hdr) (d a b : BitVec 5)
  /-- pair word, scalar half `max`, vector half the no-operation (R95). -/
  | pairSMax (u : Hdr) (d a b : BitVec 5)
  /-- pair word, scalar half `add` immediate (R95). -/
  | pairSAddi (u : Hdr) (d a : BitVec 5) (imm : BitVec 5)
  /-- pair word, scalar half `shl` (R95). -/
  | pairSShl (u : Hdr) (d a : BitVec 5) (n : BitVec 5)
  /-- pair word, scalar half `shr` (R95). -/
  | pairSShr (u : Hdr) (d a : BitVec 5) (n : BitVec 5)
  /-- pair word, scalar half `sar` (R95). -/
  | pairSSar (u : Hdr) (d a : BitVec 5) (n : BitVec 5)
  /-- pair word, scalar half `mov` (R95). -/
  | pairSMov (u : Hdr) (d a : BitVec 5)
  /-- pair word, scalar half `movi` (R95). -/
  | pairSMovi (u : Hdr) (d : BitVec 5) (imm : BitVec 5)
  /-- pair word whose halves are both the no-operation (R95). -/
  | pairVNop (u : Hdr)
  /-- pair word, scalar half `s`, vector half VADD_I32 (R95). -/
  | pairVVaddI32 (u : Hdr) (s : PairS) (d : BitVec 5) (a b : PSrc)
  /-- pair word, scalar half `s`, vector half VSUB_I32 (R95). -/
  | pairVVsubI32 (u : Hdr) (s : PairS) (d : BitVec 5) (a b : PSrc)
  /-- pair word, scalar half `s`, vector half VMUL_I32 (R95). -/
  | pairVVmulI32 (u : Hdr) (s : PairS) (d : BitVec 5) (a b : PSrc)
  /-- pair word, scalar half `s`, vector half VMIN_I32 (R95). -/
  | pairVVminI32 (u : Hdr) (s : PairS) (d : BitVec 5) (a b : PSrc)
  /-- pair word, scalar half `s`, vector half VMAX_I32 (R95). -/
  | pairVVmaxI32 (u : Hdr) (s : PairS) (d : BitVec 5) (a b : PSrc)
  /-- pair word, scalar half `s`, vector half VAND (R95). -/
  | pairVVand (u : Hdr) (s : PairS) (d : BitVec 5) (a b : PSrc)
  /-- pair word, scalar half `s`, vector half VOR (R95). -/
  | pairVVor (u : Hdr) (s : PairS) (d : BitVec 5) (a b : PSrc)
  /-- pair word, scalar half `s`, vector half VXOR (R95). -/
  | pairVVxor (u : Hdr) (s : PairS) (d : BitVec 5) (a b : PSrc)
  /-- pair word, scalar half `s`, vector half VMOV (R95). -/
  | pairVVmov (u : Hdr) (s : PairS) (d : BitVec 5) (a : PSrc)
  /-- pair word, scalar half `s`, vector half VADD_F32 (R95). -/
  | pairVVaddF32 (u : Hdr) (s : PairS) (d : BitVec 5) (a b : PSrc)
  /-- pair word, scalar half `s`, vector half VSUB_F32 (R95). -/
  | pairVVsubF32 (u : Hdr) (s : PairS) (d : BitVec 5) (a b : PSrc)
  /-- pair word, scalar half `s`, vector half VMUL_F32 (R95). -/
  | pairVVmulF32 (u : Hdr) (s : PairS) (d : BitVec 5) (a b : PSrc)
  /-- pair word, scalar half `s`, vector half VFMA_F32 (R95). -/
  | pairVVfmaF32 (u : Hdr) (s : PairS) (d : BitVec 5) (a b : PSrc)
  /-- pair word, scalar half `s`, vector half VMIN_F32 (R95). -/
  | pairVVminF32 (u : Hdr) (s : PairS) (d : BitVec 5) (a b : PSrc)
  /-- pair word, scalar half `s`, vector half VMAX_F32 (R95). -/
  | pairVVmaxF32 (u : Hdr) (s : PairS) (d : BitVec 5) (a b : PSrc)
  /-- `ldf` (R280). -/
  | ldf (u : Hdr) (ew : EW) (hre : Bool) (d : Row) (h : BitVec 4) (a : BitVec 5)
  /-- `ldfg` (R281). -/
  | ldfg (u : Hdr) (ew : EW) (hre : Bool) (d : Row) (h : BitVec 4) (idx : Row)
  /-- `ldl` (R280). -/
  | ldl (u : Hdr) (ew : EW) (hre : Bool) (d : Row) (h : BitVec 4) (a : BitVec 5)
  /-- `ldlg` (R281). -/
  | ldlg (u : Hdr) (ew : EW) (hre : Bool) (d : Row) (h : BitVec 4) (idx : Row)
  /-- `stl` (R280). -/
  | stl (u : Hdr) (ew : EW) (hre : Bool) (src : RowSrc) (h : BitVec 4) (a : BitVec 5)
  /-- `stls` (R281). -/
  | stls (u : Hdr) (ew : EW) (hre : Bool) (src : RowSrc) (h : BitVec 4) (idx : Row)
  /-- `lds` (R286); pE is p(D+1). -/
  | lds (u : Hdr) (pd : BitVec 3) (d : Row) (h : BitVec 4) (lim : BitVec 12)
  /-- `sts` (R284). -/
  | sts (u : Hdr) (src : RowSrc) (h : BitVec 4) (lim : BitVec 12)
  /-- `sts.eos` (R285). -/
  | stsEos (u : Hdr) (h : BitVec 4) (lim : BitVec 12)
  /-- `sptr.w` (R287). -/
  | sptrW (u : Hdr) (d : BitVec 5) (h : BitVec 4)
  /-- `sptr.r` (R287). -/
  | sptrR (u : Hdr) (d : BitVec 5) (h : BitVec 4)
  /-- `sptr.c` (R287). -/
  | sptrC (u : Hdr) (d : BitVec 5) (h : BitVec 4)
  /-- `acc.add.i32` (R283). -/
  | accAddI32 (u : Hdr) (src : RowSrc) (h : BitVec 4) (a : BitVec 5)
  /-- `acc.add.i64` (R283). -/
  | accAddI64 (u : Hdr) (src : RowSrc) (h : BitVec 4) (a : BitVec 5)
  /-- `acc.add.af` (R283). -/
  | accAddAf (u : Hdr) (x : AfSrc) (src : RowSrc) (h : BitVec 4) (a : BitVec 5)
  /-- `acc.min.i32` (R283). -/
  | accMinI32 (u : Hdr) (src : RowSrc) (h : BitVec 4) (a : BitVec 5)
  /-- `acc.max.i32` (R283). -/
  | accMaxI32 (u : Hdr) (src : RowSrc) (h : BitVec 4) (a : BitVec 5)
  /-- `acc.and` (R283). -/
  | accAnd (u : Hdr) (src : RowSrc) (h : BitVec 4) (a : BitVec 5)
  /-- `acc.or` (R283). -/
  | accOr (u : Hdr) (src : RowSrc) (h : BitVec 4) (a : BitVec 5)
  /-- `acc.xor` (R283). -/
  | accXor (u : Hdr) (src : RowSrc) (h : BitVec 4) (a : BitVec 5)
  /-- `amo.swap` (R288). -/
  | amoSwap (u : Hdr) (f : AmoF) (d : BitVec 5) (h : BitVec 4) (a : BitVec 5)
  /-- `amo.cas` (R288). -/
  | amoCas (u : Hdr) (f : AmoF) (d : BitVec 5) (h : BitVec 4) (a : BitVec 5)
  /-- `amo.add` (R288). -/
  | amoAdd (u : Hdr) (f : AmoF) (d : BitVec 5) (h : BitVec 4) (a : BitVec 5)
  /-- `amo.min` (R288). -/
  | amoMin (u : Hdr) (f : AmoF) (d : BitVec 5) (h : BitVec 4) (a : BitVec 5)
  /-- `amo.max` (R288). -/
  | amoMax (u : Hdr) (f : AmoF) (d : BitVec 5) (h : BitVec 4) (a : BitVec 5)
  /-- `amo.and` (R288). -/
  | amoAnd (u : Hdr) (f : AmoF) (d : BitVec 5) (h : BitVec 4) (a : BitVec 5)
  /-- `amo.or` (R288). -/
  | amoOr (u : Hdr) (f : AmoF) (d : BitVec 5) (h : BitVec 4) (a : BitVec 5)
  /-- `hbuild` (R290). -/
  | hbuild (u : Hdr) (h : BitVec 4) (a : BitVec 5)
  /-- `hview` (R291). -/
  | hview (u : Hdr) (hd hp : BitVec 4) (a b : BitVec 5)
  /-- `hread` (R292). -/
  | hread (u : Hdr) (d : BitVec 5) (ha : BitVec 4) (q : BitVec 2)
  /-- `fence` (R296). -/
  | fenceFull (u : Hdr) (sc : Scope)
  /-- `fence` (R296). -/
  | fenceAcq (u : Hdr) (sc : Scope)
  /-- `fence` (R296). -/
  | fenceRel (u : Hdr) (sc : Scope)
  /-- `afence` (R297). -/
  | afence (u : Hdr) (sc : Scope)
  /-- `bfree` (R191). -/
  | bfree (u : Hdr) (b : BitVec 9) (n : BitVec 12)
  /-- `bst.full` (R192). -/
  | bstFull (u : Hdr) (b : BitVec 9) (disp : BitVec 22)
  /-- `bst.empty` (R192). -/
  | bstEmpty (u : Hdr) (b : BitVec 9) (disp : BitVec 22)
  /-- `bst.poison` (R192). -/
  | bstPoison (u : Hdr) (r : Row) (disp : BitVec 22)
  /-- `tok.take` (R193). -/
  | tokTake (u : Hdr) (q : BitVec 3) (n : BitVec 6) (lim : BitVec 12)
  /-- `tok.give` (R193). -/
  | tokGive (u : Hdr) (q : BitVec 3) (n : BitVec 6)
  /-- `cpin` (R196). -/
  | cpin (u : Hdr) (ch : BitVec 2) (b : BitVec 9) (h : BitVec 4) (a : BitVec 5) (wait post : Option (BitVec 3))
  /-- `cpout` (R196). -/
  | cpout (u : Hdr) (ch : BitVec 2) (b : BitVec 9) (h : BitVec 4) (a : BitVec 5) (wait post : Option (BitVec 3))
  /-- `cpwait` (R197). -/
  | cpwait (u : Hdr) (ch : BitVec 2) (a : BitVec 5) (lim : BitVec 12)
  /-- `rdwptr` (R198). -/
  | rdwptr (u : Hdr) (d : BitVec 5) (ch : BitVec 2)
  /-- `cqpop` (R199). -/
  | cqpop (u : Hdr) (d : BitVec 5) (e : BitVec 2) (lim : BitVec 12)
  /-- `lease` (R227). -/
  | lease (u : Hdr) (n : BitVec 22)
  /-- `lease.cyc` (R227). -/
  | leaseCyc (u : Hdr) (n : BitVec 22)
  /-- `unlease` (R228). -/
  | unlease (u : Hdr)
  /-- `mzero` (R230). -/
  | mzero (u : Hdr)
  /-- `mma` (R231, R234); `n` is the K-step count minus 1. -/
  | mma (u : Hdr) (x : MScale) (ta tb : MTy) (tc st sp : Bool) (n : BitVec 5) (h : BitVec 4) (a : ASrc)
  /-- `mdrain` (R236). -/
  | mdrain (u : Hdr) (f : OutFmt) (res drop wh : Bool) (h : BitVec 4) (b : Option (BitVec 9))
  /-- `msave` (R238). -/
  | msave (u : Hdr) (h : BitVec 4)
  /-- `mrestore` (R238). -/
  | mrestore (u : Hdr) (h : BitVec 4)
  /-- `sacc.add` (R240). -/
  | saccAdd (u : Hdr) (ty : SaccTy) (h : BitVec 4) (bi bv : BitVec 9) (a : BitVec 5)
  /-- `sacc.min` (R240). -/
  | saccMin (u : Hdr) (ty : SaccTy) (h : BitVec 4) (bi bv : BitVec 9) (a : BitVec 5)
  /-- `sacc.max` (R240). -/
  | saccMax (u : Hdr) (ty : SaccTy) (h : BitVec 4) (bi bv : BitVec 9) (a : BitVec 5)
  /-- `sacc.and` (R240). -/
  | saccAnd (u : Hdr) (ty : SaccTy) (h : BitVec 4) (bi bv : BitVec 9) (a : BitVec 5)
  /-- `sacc.or` (R240). -/
  | saccOr (u : Hdr) (ty : SaccTy) (h : BitVec 4) (bi bv : BitVec 9) (a : BitVec 5)
  /-- `sacc.xor` (R240). -/
  | saccXor (u : Hdr) (ty : SaccTy) (h : BitVec 4) (bi bv : BitVec 9) (a : BitVec 5)
  /-- `cbar` (R242). -/
  | cbar (u : Hdr) (lim : BitVec 12)
  /-- `stitch.end` (R243). -/
  | stitchEnd (u : Hdr) (a : BitVec 5)
  /-- `rgn.parties` (R293). -/
  | rgnParties (u : Hdr) (h : BitVec 4) (n : BitVec 12)
  /-- `recast.arrive` (R294). -/
  | recastArrive (u : Hdr) (role : Space) (dig conv : Bool) (h : BitVec 4) (a c : BitVec 5)
  /-- `recast.wait` (R295). -/
  | recastWait (u : Hdr) (h : BitVec 4) (lim : BitVec 12)
  /-- `lrec.patch` (R302). -/
  | lrecPatch (u : Hdr) (a : BitVec 5) (f : BitVec 5) (b : BitVec 5)
  /-- `lrec.arm` (R303). -/
  | lrecArm (u : Hdr) (a : BitVec 5)
  /-- `lrec.wait` (R305). -/
  | lrecWait (u : Hdr) (d a : BitVec 5) (lim : BitVec 12)
  /-- `job.count` (R308). -/
  | jobCount (u : Hdr) (d a : BitVec 5)
  /-- `job.wait` (R308). -/
  | jobWait (u : Hdr) (a : BitVec 5) (lim : BitVec 12)
  /-- `sinval` (R322). -/
  | sinval (u : Hdr)
  /-- `reshard` (R357). -/
  | reshard (u : Hdr) (d : BitVec 5) (h : BitVec 4)
  /-- `cwait` (R359). -/
  | cwait (u : Hdr) (d a : BitVec 5) (lim : BitVec 12)
  /-- a parcel sequence the strand rejects (R70, R73, R74). -/
  | illegalEncoding (r : Reject)
  /-- event: an instruction loses a bank and repeats its read cycle (R171). -/
  | bankReplay (core bank : Nat)
  /-- event: the wait of a strand expires (R175). -/
  | bandWaitExpiry (strand : Nat)
  /-- event: the wait of a strand expires (R179). -/
  | cmdqWaitExpiry (strand : Nat)
  /-- event: an engine starts its next queued command (R179). -/
  | engineCommandStart (core engine chan : Nat)
  /-- event: a copy channel delivers one row (R182). -/
  | copyRowDelivery (core chan : Nat)
  /-- event: a finished command places its entry and posts its token (R180). -/
  | engineCompletion (core engine chan : Nat)
  /-- event: a held entry enters the completion queue (R199). -/
  | heldEntryEnter (core engine : Nat)
  /-- event: the wait of a strand expires (R193). -/
  | tokTakeExpiry (strand : Nat)
  /-- event: the wait of a strand expires (R197). -/
  | cpwaitExpiry (strand : Nat)
  /-- event: the wait of a strand expires (R199). -/
  | cqpopExpiry (strand : Nat)
  /-- event: the array starts or continues a captured command (R225). -/
  | matrixCommandStart (cluster : Nat)
  /-- event: a matrix command finishes (R239). -/
  | matrixCommandComplete (cluster : Nat)
  /-- event: the array grants the lease (R209). -/
  | leaseGrant (cluster : Nat)
  /-- event: a cycle budget runs out (R210). -/
  | leaseCycleExpiry (cluster : Nat)
  /-- event: the wait of a strand expires (R235). -/
  | mrestoreWaitExpiry (strand : Nat)
  /-- event: the oldest released Accrue entry is performed (R222). -/
  | accrueEntryPerform (die : Nat)
  /-- event: the wait of a strand expires (R242). -/
  | cbarExpiry (strand : Nat)
  /-- event: the queue manager chooses a Ready record (R309, R381). -/
  | recordDispatch (die : Nat)
  /-- event: the bobbin walker starts a stitch on a core (R81). -/
  | stitchStart (core : Nat)
  /-- event: a stitch retires (R220). -/
  | stitchRetire (core : Nat)
  /-- event: STCYC reaches the budget (R313). -/
  | stitchBudgetExpiry (core : Nat)
  /-- event: the queue manager pre-empts a stitch (R186, R213, R220). -/
  | preemptStitch (core : Nat) (discard : Bool)
  /-- event: a pre-empted stitch resumes on a core (R188, R215). -/
  | stitchResume (core : Nat)
  /-- event: a waiting record is raised one level (R310). -/
  | eprioAging (die rec : Nat)
  /-- event: the home takes the oldest posted request (R259, R293). -/
  | homeAccess (die : Nat)
  /-- event: firmware maps a page (R269). -/
  | pageMap (die : Nat) (sp : Space) (va : BitVec 56) (leaf : BitVec 64)
  /-- event: the oldest replayable skein entry replays (R270). -/
  | skeinReplay (die : Nat)
  /-- event: firmware declares a page unmappable (R272). -/
  | pageUnmappable (die : Nat) (sp : Space) (va : BitVec 56)
  /-- event: firmware thaws a frozen core or fails its record (R368). -/
  | coreThaw (die : Nat) (fail : Bool)
  /-- event: a late reply stops a core (R314). -/
  | lateFreeze (core cycles : Nat)
  /-- event: a freeze reaches 65,536 cycles (R314). -/
  | lateExpiry (core : Nat)
  /-- event: the home flips the role map (R261). -/
  | recastFlip (die region : Nat)
  /-- event: the wait of a strand expires (R295). -/
  | recastWaitExpiry (strand : Nat)
  /-- event: the wait of a strand expires (R284). -/
  | ringWaitExpiry (strand : Nat)
  /-- event: the wait of a strand expires (R305). -/
  | lrecWaitExpiry (strand : Nat)
  /-- event: the wait of a strand expires (R308). -/
  | jobWaitExpiry (strand : Nat)
  /-- event: the wait of a strand expires (R359). -/
  | cwaitExpiry (strand : Nat)
  /-- event: the wait of a strand expires (R354, R357). -/
  | reshardWaitExpiry (strand : Nat)
  /-- event: a message is delivered into the memory of a die (R312, R349). -/
  | messageDelivery (m : Message)
  /-- event: a flit is sent again over its link (R325). -/
  | flitRetry (die link : Nat)
  /-- event: a triggered tile is read and sent (R354). -/
  | tileTransfer (die : Nat)
  /-- event: a collective completes at a member (R358). -/
  | collectiveComplete (die num : Nat)
  /-- event: a FABCAN write cancels a collective (R358). -/
  | collectiveCancel (die num : Nat)
  /-- event: a migration request is submitted (R328, R329). -/
  | migrationRequest (die : Nat) (host : Bool) (va : BitVec 56) (cmd : BitVec 64)
  /-- event: the migration unit copies and flips its page (R328). -/
  | migrationFlip (die : Nat)
  /-- event: the host writes HKICKn (R331). -/
  | hostKick (die ring : Nat) (k : BitVec 32)
  /-- event: the queue manager reads SEQ of a slot (R331). -/
  | seqPoll (die ring : Nat)
  /-- event: no SEQ match for 4,096 cycles (R331, R332). -/
  | stalepktTimeout (die ring : Nat)
  /-- event: the host clears HSQERRn.VALID (R332). -/
  | hsqerrClear (die ring : Nat)
  /-- event: TLBINV with ALL (R274). -/
  | tlbInvalidateAll (die : Nat) (sp : Space)
  /-- event: TLBINV of one page (R274). -/
  | tlbInvalidatePage (die : Nat) (sp : Space) (va : BitVec 56)
  /-- event: a host CXL.mem read (R362). -/
  | hostHdmRead (addr len : Nat)
  /-- event: a host CXL.mem write (R362). -/
  | hostHdmWrite (addr : Nat) (data : List Byte)
  /-- event: power-on or reset (R363). -/
  | powerOnReset
  /-- event: the CXL link trains (R361). -/
  | linkTrain (rate width : Nat)
  /-- event: a mailbox Transfer part (R363). -/
  | transferPart (data : List Byte)
  /-- event: the host ends the transfer (R363). -/
  | transferEnd
  /-- event: the host aborts the transfer (R363). -/
  | transferAbort
  /-- event: a mailbox status read (R363). -/
  | statusRead
  /-- event: a die reports its check of the image (R365). -/
  | imageVerify (die : Nat)
  /-- event: the Get Attestation command (R369). -/
  | getAttestation (nonce : BitVec 256)
  /-- event: a junction temperature of 105 °C (R371). -/
  | thermalReset (die : Nat)
  /-- event: die power exceeds its cap (R371). -/
  | powerThrottle (die : Nat)
  /-- event: a write of a control-window register (R14). -/
  | fwRegisterWrite (die off : Nat) (val : BitVec 64)
  /-- event: the link of a scale-out port changes (R350). -/
  | portLinkUpChange (die port : Nat) (up : Bool)
  /-- event: firmware writes STATE of a record (R300). -/
  | firmwareWritesState (die rec : Nat) (st : BitVec 3)
  /-- event: firmware removes the Sampler entries of a tenant (R370). -/
  | tenantSamplerRemoval (tenant : Nat)
  /-- event: die power falls back within its cap (R371). -/
  | diePowerWithinCap (die : Nat)
  deriving DecidableEq, Repr

end Sys2Proof
end

