-- ==== Sys2Proof/WellFormed.lean ====
section
/-! DEFINITION. Which instructions are well formed: the encoding limits of R84-R95 that the fields' types do not
already impose, the prefixes a form accepts (R68, R70, R83-R96), and the numbers an event may name. -/

namespace Sys2Proof

/-- Rows in a group of code `g` (R86). -/
def groupRows (g : BitVec 2) : Nat := 2 ^ g.toNat

/-- A run of `n` rows from `r` stays within v255, b511 or o7 (R86). -/
def Row.runFits (r : Row) (n : Nat) : Bool :=
  match r with
  | .v k => k.toNat + n ≤ 256
  | .b k => k.toNat + n ≤ 512
  | .o k => k.toNat + n ≤ 8

/-- The same of a source: broadcasts, immediates and lx have no run (R86). -/
def VSrc.runFits (a : VSrc) (n : Nat) : Bool :=
  match a with
  | .row r => r.runFits n
  | _ => true

/-- A band row operand. -/
def Row.isBand : Row → Bool
  | .b _ => true
  | _ => false

/-- An immediate broadcast operand. -/
def VSrc.isImm : VSrc → Bool
  | .imm _ => true
  | _ => false

/-- An immediate operand code. -/
def SImm.isImm : SImm → Bool
  | .imm _ => true
  | _ => false

/-- A float element type. -/
def VTy.isFloat : VTy → Bool
  | .f32 | .f16 | .bf16 => true
  | _ => false

/-- The conditions an integer compare accepts (R63). -/
def Cond.intOk : Cond → Bool
  | .un | .or => false
  | _ => true

/-- Element width of a format in memory or in a row (R19, R20). -/
def Fmt.width : Fmt → Nat
  | .int4 | .e2m1 => 4
  | .int8 | .e4m3 | .e5m2 | .e3m2 | .e2m3 | .e8m0 => 8
  | .fp16 | .bf16 => 16
  | .int32 | .u32 | .fp32 => 32
  | .int64 => 64
  | .af128 => 128

/-- The formats `vcvt` names (R89). -/
def Fmt.cvtOk : Fmt → Bool
  | .int8 | .int32 | .u32 | .fp32 | .fp16 | .bf16 | .e4m3 | .e5m2 | .e3m2 | .e2m3 | .e2m1 => true
  | _ => false

/-- Rows of FP32 that one row of an MX format stands for (R158). -/
def MxFmt.rows : MxFmt → Nat
  | .e2m1 => 8
  | _ => 4

/-- Rows of an index run, by element width (R281). -/
def EW.indexRows : EW → Nat
  | .w4 => 8
  | .w8 => 4
  | .w16 => 2
  | .w32 => 1

/-- The kinds of a prefix (R68). -/
def Pfx.kind : Pfx → Nat
  | .round .. => 1
  | .arith .. => 2
  | .imm _ => 3

/-- The payload limits of R68. -/
def Pfx.wf : Pfx → Bool
  | .round m key => m == .rsr || key == 0
  | .arith sat ftz q => sat || ftz || q
  | .imm _ => true

/-- The prefix kinds an encoding accepts (R83, R96). -/
structure Accepts where
  r : Bool
  a : Bool
  i : Bool
  deriving DecidableEq, Repr, Inhabited

/-- Whether a kind is accepted. -/
def Accepts.ok (x : Accepts) (p : Pfx) : Bool :=
  match p with
  | .round .. => x.r
  | .arith .. => x.a
  | .imm _ => x.i

/-- The header of an encoded instruction; an event has none. -/
def Instr.hdr : Instr → Option Hdr
  | .nop u => some u
  | .addSr u _ _ _ => some u
  | .subSr u _ _ _ => some u
  | .mulSr u _ _ _ => some u
  | .mulhSr u _ _ _ => some u
  | .mulhuSr u _ _ _ => some u
  | .divSr u _ _ _ => some u
  | .divuSr u _ _ _ => some u
  | .remSr u _ _ _ => some u
  | .remuSr u _ _ _ => some u
  | .andSr u _ _ _ => some u
  | .orSr u _ _ _ => some u
  | .xorSr u _ _ _ => some u
  | .shlSr u _ _ _ => some u
  | .shrSr u _ _ _ => some u
  | .sarSr u _ _ _ => some u
  | .minSr u _ _ _ => some u
  | .maxSr u _ _ _ => some u
  | .minuSr u _ _ _ => some u
  | .maxuSr u _ _ _ => some u
  | .addSi u _ _ _ => some u
  | .subSi u _ _ _ => some u
  | .andSi u _ _ _ => some u
  | .orSi u _ _ _ => some u
  | .xorSi u _ _ _ => some u
  | .shlSi u _ _ _ => some u
  | .shrSi u _ _ _ => some u
  | .sarSi u _ _ _ => some u
  | .moviSi u _ _ => some u
  | .brSj u _ => some u
  | .brLb u _ => some u
  | .loop u _ _ => some u
  | .call u _ _ => some u
  | .callr u _ _ => some u
  | .jr u _ => some u
  | .ret u => some u
  | .trap u _ => some u
  | .eret u => some u
  | .addLs u _ _ _ => some u
  | .subLs u _ _ _ => some u
  | .mulLs u _ _ _ => some u
  | .mulhLs u _ _ _ => some u
  | .mulhuLs u _ _ _ => some u
  | .divLs u _ _ _ => some u
  | .divuLs u _ _ _ => some u
  | .remLs u _ _ _ => some u
  | .remuLs u _ _ _ => some u
  | .andLs u _ _ _ => some u
  | .orLs u _ _ _ => some u
  | .xorLs u _ _ _ => some u
  | .shlLs u _ _ _ => some u
  | .shrLs u _ _ _ => some u
  | .sarLs u _ _ _ => some u
  | .minLs u _ _ _ => some u
  | .maxLs u _ _ _ => some u
  | .minuLs u _ _ _ => some u
  | .maxuLs u _ _ _ => some u
  | .addLi u _ _ _ => some u
  | .subLi u _ _ _ => some u
  | .mulLi u _ _ _ => some u
  | .andLi u _ _ _ => some u
  | .orLi u _ _ _ => some u
  | .xorLi u _ _ _ => some u
  | .shlLi u _ _ _ => some u
  | .shrLi u _ _ _ => some u
  | .sarLi u _ _ _ => some u
  | .minLi u _ _ _ => some u
  | .maxLi u _ _ _ => some u
  | .minuLi u _ _ _ => some u
  | .maxuLi u _ _ _ => some u
  | .moviLi u _ _ => some u
  | .cmp u _ _ _ _ _ _ => some u
  | .cmpu u _ _ _ _ _ _ => some u
  | .cmpi u _ _ _ _ _ _ => some u
  | .cmpui u _ _ _ _ _ _ => some u
  | .fcmp u _ _ _ _ _ _ => some u
  | .fadd u _ _ _ => some u
  | .fsub u _ _ _ => some u
  | .fmul u _ _ _ => some u
  | .fdiv u _ _ _ => some u
  | .fsqrt u _ _ => some u
  | .ffma u _ _ _ _ => some u
  | .fmin u _ _ _ => some u
  | .fmax u _ _ _ => some u
  | .fabs u _ _ => some u
  | .fneg u _ _ => some u
  | .fcvti u _ _ => some u
  | .fcvtf u _ _ => some u
  | .pcomb u _ _ _ _ _ => some u
  | .pcount u _ _ => some u
  | .pfirst u _ _ => some u
  | .pget u _ _ => some u
  | .pset u _ _ => some u
  | .plive u _ => some u
  | .feat u _ _ => some u
  | .sysr u _ _ => some u
  | .sysw u _ _ => some u
  | .ctxsave u _ => some u
  | .ctxrestore u _ => some u
  | .vadd u _ _ _ _ _ => some u
  | .vsub u _ _ _ _ _ => some u
  | .vmul u _ _ _ _ _ => some u
  | .vmulh u _ _ _ _ _ => some u
  | .vmin u _ _ _ _ _ => some u
  | .vmax u _ _ _ _ _ => some u
  | .vabs u _ _ _ _ => some u
  | .vneg u _ _ _ _ => some u
  | .vfma u _ _ _ _ _ => some u
  | .vdiv u _ _ _ _ _ => some u
  | .vrcp u _ _ _ => some u
  | .vrsqrt u _ _ _ => some u
  | .vsqrt u _ _ _ => some u
  | .vexp2 u _ _ _ => some u
  | .vlog2 u _ _ _ => some u
  | .vshl u _ _ _ _ _ => some u
  | .vshr u _ _ _ _ _ => some u
  | .vsar u _ _ _ _ _ => some u
  | .vand u _ _ _ _ => some u
  | .vor u _ _ _ _ => some u
  | .vxor u _ _ _ _ => some u
  | .vnot u _ _ _ => some u
  | .vmov u _ _ _ => some u
  | .vcmp u _ _ _ _ _ _ _ => some u
  | .vcvt u _ _ _ _ => some u
  | .vquant u _ _ _ _ _ => some u
  | .vdequant u _ _ _ _ _ => some u
  | .vdot4 u _ _ _ _ => some u
  | .vperm u _ _ _ => some u
  | .vbcast u _ _ _ => some u
  | .vrot u _ _ _ => some u
  | .vredsum u _ _ _ => some u
  | .vredmin u _ _ _ => some u
  | .vredmax u _ _ _ => some u
  | .vscan u _ _ _ => some u
  | .vcompress u _ _ => some u
  | .vexpand u _ _ => some u
  | .vget u _ _ => some u
  | .vput u _ _ => some u
  | .pairSNop u _ => some u
  | .pairSAdd u _ _ _ => some u
  | .pairSSub u _ _ _ => some u
  | .pairSAnd u _ _ _ => some u
  | .pairSOr u _ _ _ => some u
  | .pairSXor u _ _ _ => some u
  | .pairSMin u _ _ _ => some u
  | .pairSMax u _ _ _ => some u
  | .pairSAddi u _ _ _ => some u
  | .pairSShl u _ _ _ => some u
  | .pairSShr u _ _ _ => some u
  | .pairSSar u _ _ _ => some u
  | .pairSMov u _ _ => some u
  | .pairSMovi u _ _ => some u
  | .pairVNop u => some u
  | .pairVVaddI32 u _ _ _ _ => some u
  | .pairVVsubI32 u _ _ _ _ => some u
  | .pairVVmulI32 u _ _ _ _ => some u
  | .pairVVminI32 u _ _ _ _ => some u
  | .pairVVmaxI32 u _ _ _ _ => some u
  | .pairVVand u _ _ _ _ => some u
  | .pairVVor u _ _ _ _ => some u
  | .pairVVxor u _ _ _ _ => some u
  | .pairVVmov u _ _ _ => some u
  | .pairVVaddF32 u _ _ _ _ => some u
  | .pairVVsubF32 u _ _ _ _ => some u
  | .pairVVmulF32 u _ _ _ _ => some u
  | .pairVVfmaF32 u _ _ _ _ => some u
  | .pairVVminF32 u _ _ _ _ => some u
  | .pairVVmaxF32 u _ _ _ _ => some u
  | .ldf u _ _ _ _ _ => some u
  | .ldfg u _ _ _ _ _ => some u
  | .ldl u _ _ _ _ _ => some u
  | .ldlg u _ _ _ _ _ => some u
  | .stl u _ _ _ _ _ => some u
  | .stls u _ _ _ _ _ => some u
  | .lds u _ _ _ _ => some u
  | .sts u _ _ _ => some u
  | .stsEos u _ _ => some u
  | .sptrW u _ _ => some u
  | .sptrR u _ _ => some u
  | .sptrC u _ _ => some u
  | .accAddI32 u _ _ _ => some u
  | .accAddI64 u _ _ _ => some u
  | .accAddAf u _ _ _ _ => some u
  | .accMinI32 u _ _ _ => some u
  | .accMaxI32 u _ _ _ => some u
  | .accAnd u _ _ _ => some u
  | .accOr u _ _ _ => some u
  | .accXor u _ _ _ => some u
  | .amoSwap u _ _ _ _ => some u
  | .amoCas u _ _ _ _ => some u
  | .amoAdd u _ _ _ _ => some u
  | .amoMin u _ _ _ _ => some u
  | .amoMax u _ _ _ _ => some u
  | .amoAnd u _ _ _ _ => some u
  | .amoOr u _ _ _ _ => some u
  | .hbuild u _ _ => some u
  | .hview u _ _ _ _ => some u
  | .hread u _ _ _ => some u
  | .fenceFull u _ => some u
  | .fenceAcq u _ => some u
  | .fenceRel u _ => some u
  | .afence u _ => some u
  | .bfree u _ _ => some u
  | .bstFull u _ _ => some u
  | .bstEmpty u _ _ => some u
  | .bstPoison u _ _ => some u
  | .tokTake u _ _ _ => some u
  | .tokGive u _ _ => some u
  | .cpin u _ _ _ _ _ _ => some u
  | .cpout u _ _ _ _ _ _ => some u
  | .cpwait u _ _ _ => some u
  | .rdwptr u _ _ => some u
  | .cqpop u _ _ _ => some u
  | .lease u _ => some u
  | .leaseCyc u _ => some u
  | .unlease u => some u
  | .mzero u => some u
  | .mma u _ _ _ _ _ _ _ _ _ => some u
  | .mdrain u _ _ _ _ _ _ => some u
  | .msave u _ => some u
  | .mrestore u _ => some u
  | .saccAdd u _ _ _ _ _ => some u
  | .saccMin u _ _ _ _ _ => some u
  | .saccMax u _ _ _ _ _ => some u
  | .saccAnd u _ _ _ _ _ => some u
  | .saccOr u _ _ _ _ _ => some u
  | .saccXor u _ _ _ _ _ => some u
  | .cbar u _ => some u
  | .stitchEnd u _ => some u
  | .rgnParties u _ _ => some u
  | .recastArrive u _ _ _ _ _ _ => some u
  | .recastWait u _ _ => some u
  | .lrecPatch u _ _ _ => some u
  | .lrecArm u _ => some u
  | .lrecWait u _ _ _ => some u
  | .jobCount u _ _ => some u
  | .jobWait u _ _ => some u
  | .sinval u => some u
  | .reshard u _ _ => some u
  | .cwait u _ _ _ => some u
  | .illegalEncoding .. | .bankReplay .. | .bandWaitExpiry .. | .cmdqWaitExpiry .. | .engineCommandStart ..
  | .copyRowDelivery .. | .engineCompletion .. | .heldEntryEnter .. | .tokTakeExpiry .. | .cpwaitExpiry ..
  | .cqpopExpiry .. | .matrixCommandStart .. | .matrixCommandComplete .. | .leaseGrant .. | .leaseCycleExpiry ..
  | .mrestoreWaitExpiry .. | .accrueEntryPerform .. | .cbarExpiry .. | .recordDispatch .. | .stitchStart ..
  | .stitchRetire .. | .stitchBudgetExpiry .. | .preemptStitch .. | .stitchResume .. | .eprioAging ..
  | .homeAccess .. | .pageMap .. | .skeinReplay .. | .pageUnmappable .. | .coreThaw .. | .lateFreeze ..
  | .lateExpiry .. | .recastFlip .. | .recastWaitExpiry .. | .ringWaitExpiry .. | .lrecWaitExpiry ..
  | .jobWaitExpiry .. | .cwaitExpiry .. | .reshardWaitExpiry .. | .messageDelivery .. | .flitRetry ..
  | .tileTransfer .. | .collectiveComplete .. | .collectiveCancel .. | .migrationRequest .. | .migrationFlip ..
  | .hostKick .. | .seqPoll .. | .stalepktTimeout .. | .hsqerrClear .. | .tlbInvalidateAll .. | .tlbInvalidatePage ..
  | .hostHdmRead .. | .hostHdmWrite .. | .powerOnReset .. | .linkTrain .. | .transferPart .. | .transferEnd ..
  | .transferAbort .. | .statusRead .. | .imageVerify .. | .getAttestation .. | .thermalReset .. | .powerThrottle ..
  | .fwRegisterWrite .. | .portLinkUpChange .. | .firmwareWritesState .. | .tenantSamplerRemoval ..
  | .diePowerWithinCap .. => none

/-- Short forms (R59, R84). -/
def Instr.isShort : Instr → Bool
  | .nop .. | .addSr .. | .subSr .. | .mulSr .. | .mulhSr .. | .mulhuSr .. | .divSr .. | .divuSr .. | .remSr ..
  | .remuSr .. | .andSr .. | .orSr .. | .xorSr .. | .shlSr .. | .shrSr .. | .sarSr .. | .minSr .. | .maxSr ..
  | .minuSr .. | .maxuSr .. | .addSi .. | .subSi .. | .andSi .. | .orSi .. | .xorSi .. | .shlSi .. | .shrSi ..
  | .sarSi .. | .moviSi .. | .brSj .. => true
  | .brLb .. | .loop .. | .call .. | .callr .. | .jr .. | .ret .. | .trap .. | .eret .. | .addLs .. | .subLs ..
  | .mulLs .. | .mulhLs .. | .mulhuLs .. | .divLs .. | .divuLs .. | .remLs .. | .remuLs .. | .andLs .. | .orLs ..
  | .xorLs .. | .shlLs .. | .shrLs .. | .sarLs .. | .minLs .. | .maxLs .. | .minuLs .. | .maxuLs .. | .addLi ..
  | .subLi .. | .mulLi .. | .andLi .. | .orLi .. | .xorLi .. | .shlLi .. | .shrLi .. | .sarLi .. | .minLi ..
  | .maxLi .. | .minuLi .. | .maxuLi .. | .moviLi .. | .cmp .. | .cmpu .. | .cmpi .. | .cmpui .. | .fcmp ..
  | .fadd .. | .fsub .. | .fmul .. | .fdiv .. | .fsqrt .. | .ffma .. | .fmin .. | .fmax .. | .fabs .. | .fneg ..
  | .fcvti .. | .fcvtf .. | .pcomb .. | .pcount .. | .pfirst .. | .pget .. | .pset .. | .plive .. | .feat ..
  | .sysr .. | .sysw .. | .ctxsave .. | .ctxrestore .. | .vadd .. | .vsub .. | .vmul .. | .vmulh .. | .vmin ..
  | .vmax .. | .vabs .. | .vneg .. | .vfma .. | .vdiv .. | .vrcp .. | .vrsqrt .. | .vsqrt .. | .vexp2 .. | .vlog2 ..
  | .vshl .. | .vshr .. | .vsar .. | .vand .. | .vor .. | .vxor .. | .vnot .. | .vmov .. | .vcmp .. | .vcvt ..
  | .vquant .. | .vdequant .. | .vdot4 .. | .vperm .. | .vbcast .. | .vrot .. | .vredsum .. | .vredmin ..
  | .vredmax .. | .vscan .. | .vcompress .. | .vexpand .. | .vget .. | .vput .. | .pairSNop .. | .pairSAdd ..
  | .pairSSub .. | .pairSAnd .. | .pairSOr .. | .pairSXor .. | .pairSMin .. | .pairSMax .. | .pairSAddi ..
  | .pairSShl .. | .pairSShr .. | .pairSSar .. | .pairSMov .. | .pairSMovi .. | .pairVNop .. | .pairVVaddI32 ..
  | .pairVVsubI32 .. | .pairVVmulI32 .. | .pairVVminI32 .. | .pairVVmaxI32 .. | .pairVVand .. | .pairVVor ..
  | .pairVVxor .. | .pairVVmov .. | .pairVVaddF32 .. | .pairVVsubF32 .. | .pairVVmulF32 .. | .pairVVfmaF32 ..
  | .pairVVminF32 .. | .pairVVmaxF32 .. | .ldf .. | .ldfg .. | .ldl .. | .ldlg .. | .stl .. | .stls .. | .lds ..
  | .sts .. | .stsEos .. | .sptrW .. | .sptrR .. | .sptrC .. | .accAddI32 .. | .accAddI64 .. | .accAddAf ..
  | .accMinI32 .. | .accMaxI32 .. | .accAnd .. | .accOr .. | .accXor .. | .amoSwap .. | .amoCas .. | .amoAdd ..
  | .amoMin .. | .amoMax .. | .amoAnd .. | .amoOr .. | .hbuild .. | .hview .. | .hread .. | .fenceFull ..
  | .fenceAcq .. | .fenceRel .. | .afence .. | .bfree .. | .bstFull .. | .bstEmpty .. | .bstPoison .. | .tokTake ..
  | .tokGive .. | .cpin .. | .cpout .. | .cpwait .. | .rdwptr .. | .cqpop .. | .lease .. | .leaseCyc .. | .unlease ..
  | .mzero .. | .mma .. | .mdrain .. | .msave .. | .mrestore .. | .saccAdd .. | .saccMin .. | .saccMax ..
  | .saccAnd .. | .saccOr .. | .saccXor .. | .cbar .. | .stitchEnd .. | .rgnParties .. | .recastArrive ..
  | .recastWait .. | .lrecPatch .. | .lrecArm .. | .lrecWait .. | .jobCount .. | .jobWait .. | .sinval ..
  | .reshard .. | .cwait .. | .illegalEncoding .. | .bankReplay .. | .bandWaitExpiry .. | .cmdqWaitExpiry ..
  | .engineCommandStart .. | .copyRowDelivery .. | .engineCompletion .. | .heldEntryEnter .. | .tokTakeExpiry ..
  | .cpwaitExpiry .. | .cqpopExpiry .. | .matrixCommandStart .. | .matrixCommandComplete .. | .leaseGrant ..
  | .leaseCycleExpiry .. | .mrestoreWaitExpiry .. | .accrueEntryPerform .. | .cbarExpiry .. | .recordDispatch ..
  | .stitchStart .. | .stitchRetire .. | .stitchBudgetExpiry .. | .preemptStitch .. | .stitchResume ..
  | .eprioAging .. | .homeAccess .. | .pageMap .. | .skeinReplay .. | .pageUnmappable .. | .coreThaw ..
  | .lateFreeze .. | .lateExpiry .. | .recastFlip .. | .recastWaitExpiry .. | .ringWaitExpiry .. | .lrecWaitExpiry ..
  | .jobWaitExpiry .. | .cwaitExpiry .. | .reshardWaitExpiry .. | .messageDelivery .. | .flitRetry ..
  | .tileTransfer .. | .collectiveComplete .. | .collectiveCancel .. | .migrationRequest .. | .migrationFlip ..
  | .hostKick .. | .seqPoll .. | .stalepktTimeout .. | .hsqerrClear .. | .tlbInvalidateAll .. | .tlbInvalidatePage ..
  | .hostHdmRead .. | .hostHdmWrite .. | .powerOnReset .. | .linkTrain .. | .transferPart .. | .transferEnd ..
  | .transferAbort .. | .statusRead .. | .imageVerify .. | .getAttestation .. | .thermalReset .. | .powerThrottle ..
  | .fwRegisterWrite .. | .portLinkUpChange .. | .firmwareWritesState .. | .tenantSamplerRemoval ..
  | .diePowerWithinCap .. => false

/-- The Pfx column of R84-R95: the prefix kinds the encoding accepts, an immediate extension only where the encoding
has an immediate field (R69, R96). Where the column of R87 or R88 lists a kind that the rule of the instruction denies it, the rule
holds: no immediate extension of a shift immediate (R131), none of a float `vmin` or `vmax` (R153; log entry 54). -/
def Instr.accepts : Instr → Accepts
  | .fcmp _ _ _ _ _ _ b => ⟨false, true, b.isImm⟩
  | .vadd _ ty _ _ a b => ⟨ty.isFloat, true, a.isImm || b.isImm⟩
  | .vsub _ ty _ _ a b => ⟨ty.isFloat, true, a.isImm || b.isImm⟩
  | .vmul _ ty _ _ a b => ⟨ty.isFloat, true, a.isImm || b.isImm⟩
  | .vmulh _ _ _ _ a b => ⟨false, false, a.isImm || b.isImm⟩
  | .vmin _ ty _ _ a b => ⟨false, true, !ty.isFloat && (a.isImm || b.isImm)⟩
  | .vmax _ ty _ _ a b => ⟨false, true, !ty.isFloat && (a.isImm || b.isImm)⟩
  | .vfma _ _ _ _ a b => ⟨true, true, a.isImm || b.isImm⟩
  | .vdiv _ _ _ _ a b => ⟨true, true, a.isImm || b.isImm⟩
  | .vshl _ _ _ _ a b => ⟨false, false, a.isImm || b.isImm⟩
  | .vshr _ _ _ _ a b => ⟨false, false, a.isImm || b.isImm⟩
  | .vsar _ _ _ _ a b => ⟨false, false, a.isImm || b.isImm⟩
  | .vand _ _ _ a b => ⟨false, false, a.isImm || b.isImm⟩
  | .vor _ _ _ a b => ⟨false, false, a.isImm || b.isImm⟩
  | .vxor _ _ _ a b => ⟨false, false, a.isImm || b.isImm⟩
  | .vnot _ _ _ a => ⟨false, false, a.isImm⟩
  | .vmov _ _ _ a => ⟨false, false, a.isImm⟩
  | .vcmp _ _ ty _ _ _ a b => ⟨false, ty.isFloat, a.isImm || b.isImm⟩
  | .vbcast _ _ a b => ⟨false, false, a.isImm || b.isImm⟩
  | .vrot _ _ a b => ⟨false, false, a.isImm || b.isImm⟩
  | .vredsum _ ty _ _ => ⟨ty.isFloat, true, false⟩
  | .vscan _ ty _ _ => ⟨ty.isFloat, true, false⟩
  | .nop .. | .addSr .. | .subSr .. | .mulSr .. | .mulhSr .. | .mulhuSr .. | .divSr .. | .divuSr .. | .remSr ..
  | .remuSr .. | .andSr .. | .orSr .. | .xorSr .. | .shlSr .. | .shrSr .. | .sarSr .. | .minSr .. | .maxSr ..
  | .minuSr .. | .maxuSr .. | .shlSi .. | .shrSi .. | .sarSi .. | .brSj .. | .brLb .. | .loop .. | .call ..
  | .callr .. | .jr .. | .ret .. | .trap .. | .eret .. | .mulhLs .. | .mulhuLs .. | .divLs .. | .divuLs ..
  | .remLs .. | .remuLs .. | .andLs .. | .orLs .. | .xorLs .. | .shrLs .. | .sarLs .. | .minLs .. | .maxLs ..
  | .minuLs .. | .maxuLs .. | .shrLi .. | .sarLi .. | .cmp .. | .cmpu .. | .pcomb .. | .pcount .. | .pfirst ..
  | .pget .. | .pset .. | .plive .. | .sysr .. | .sysw .. | .ctxsave .. | .ctxrestore .. | .vperm .. | .vcompress ..
  | .vexpand .. | .vget .. | .vput .. | .pairSNop .. | .pairSAdd .. | .pairSSub .. | .pairSAnd .. | .pairSOr ..
  | .pairSXor .. | .pairSMin .. | .pairSMax .. | .pairSAddi .. | .pairSShl .. | .pairSShr .. | .pairSSar ..
  | .pairSMov .. | .pairSMovi .. | .pairVNop .. | .pairVVaddI32 .. | .pairVVsubI32 .. | .pairVVmulI32 ..
  | .pairVVminI32 .. | .pairVVmaxI32 .. | .pairVVand .. | .pairVVor .. | .pairVVxor .. | .pairVVmov ..
  | .pairVVaddF32 .. | .pairVVsubF32 .. | .pairVVmulF32 .. | .pairVVfmaF32 .. | .pairVVminF32 .. | .pairVVmaxF32 ..
  | .ldf .. | .ldfg .. | .ldl .. | .ldlg .. | .stl .. | .stls .. | .lds .. | .sts .. | .stsEos .. | .sptrW ..
  | .sptrR .. | .sptrC .. | .accAddI32 .. | .accAddI64 .. | .accAddAf .. | .accMinI32 .. | .accMaxI32 .. | .accAnd ..
  | .accOr .. | .accXor .. | .amoSwap .. | .amoCas .. | .amoAdd .. | .amoMin .. | .amoMax .. | .amoAnd .. | .amoOr ..
  | .hbuild .. | .hview .. | .hread .. | .fenceFull .. | .fenceAcq .. | .fenceRel .. | .afence .. | .bfree ..
  | .bstFull .. | .bstEmpty .. | .bstPoison .. | .tokTake .. | .tokGive .. | .cpin .. | .cpout .. | .cpwait ..
  | .rdwptr .. | .cqpop .. | .lease .. | .leaseCyc .. | .unlease .. | .mzero .. | .mma .. | .mdrain .. | .msave ..
  | .mrestore .. | .saccAdd .. | .saccMin .. | .saccMax .. | .saccAnd .. | .saccOr .. | .saccXor .. | .cbar ..
  | .stitchEnd .. | .rgnParties .. | .recastArrive .. | .recastWait .. | .lrecPatch .. | .lrecArm .. | .lrecWait ..
  | .jobCount .. | .jobWait .. | .sinval .. | .reshard .. | .cwait .. | .illegalEncoding .. | .bankReplay ..
  | .bandWaitExpiry .. | .cmdqWaitExpiry .. | .engineCommandStart .. | .copyRowDelivery .. | .engineCompletion ..
  | .heldEntryEnter .. | .tokTakeExpiry .. | .cpwaitExpiry .. | .cqpopExpiry .. | .matrixCommandStart ..
  | .matrixCommandComplete .. | .leaseGrant .. | .leaseCycleExpiry .. | .mrestoreWaitExpiry ..
  | .accrueEntryPerform .. | .cbarExpiry .. | .recordDispatch .. | .stitchStart .. | .stitchRetire ..
  | .stitchBudgetExpiry .. | .preemptStitch .. | .stitchResume .. | .eprioAging .. | .homeAccess .. | .pageMap ..
  | .skeinReplay .. | .pageUnmappable .. | .coreThaw .. | .lateFreeze .. | .lateExpiry .. | .recastFlip ..
  | .recastWaitExpiry .. | .ringWaitExpiry .. | .lrecWaitExpiry .. | .jobWaitExpiry .. | .cwaitExpiry ..
  | .reshardWaitExpiry .. | .messageDelivery .. | .flitRetry .. | .tileTransfer .. | .collectiveComplete ..
  | .collectiveCancel .. | .migrationRequest .. | .migrationFlip .. | .hostKick .. | .seqPoll ..
  | .stalepktTimeout .. | .hsqerrClear .. | .tlbInvalidateAll .. | .tlbInvalidatePage .. | .hostHdmRead ..
  | .hostHdmWrite .. | .powerOnReset .. | .linkTrain .. | .transferPart .. | .transferEnd .. | .transferAbort ..
  | .statusRead .. | .imageVerify .. | .getAttestation .. | .thermalReset .. | .powerThrottle ..
  | .fwRegisterWrite .. | .portLinkUpChange .. | .firmwareWritesState .. | .tenantSamplerRemoval ..
  | .diePowerWithinCap .. => ⟨false, false, false⟩
  | .addSi .. | .subSi .. | .andSi .. | .orSi .. | .xorSi .. | .moviSi .. | .andLi .. | .orLi .. | .xorLi ..
  | .minLi .. | .maxLi .. | .minuLi .. | .maxuLi .. | .moviLi .. | .cmpi .. | .cmpui .. | .feat .. => ⟨false, false, true⟩
  | .addLs .. | .subLs .. | .mulLs .. | .shlLs .. | .shlLi .. | .fmin .. | .fmax .. | .fabs .. | .fneg .. | .vabs ..
  | .vneg .. | .vquant .. | .vdot4 .. | .vredmin .. | .vredmax .. => ⟨false, true, false⟩
  | .addLi .. | .subLi .. | .mulLi .. => ⟨false, true, true⟩
  | .fadd .. | .fsub .. | .fmul .. | .fdiv .. | .fsqrt .. | .ffma .. | .fcvti .. | .fcvtf .. | .vrcp .. | .vrsqrt ..
  | .vsqrt .. | .vexp2 .. | .vlog2 .. | .vcvt .. | .vdequant .. => ⟨true, true, false⟩

/-- The limits on an instruction's own fields (R84-R95, R147, R153, R160, R231, R236, R281), and on the numbers an
event names (R2, R298, R312, R331). -/
def Instr.fieldsOk : Instr → Bool
  | .loop _ a _ => a != 0
  | .call _ _ frm => frm.toNat ≤ 32
  | .callr _ _ frm => frm.toNat ≤ 32
  | .cmp _ _ cond _ _ _ _ => cond.intOk
  | .cmpu _ _ cond _ _ _ _ => cond.intOk
  | .cmpi _ _ cond _ _ _ _ => cond.intOk
  | .cmpui _ _ cond _ _ _ _ => cond.intOk
  | .vadd _ _ g d a b => d.runFits (groupRows g) && a.runFits (groupRows g) && b.runFits (groupRows g)
  | .vsub _ _ g d a b => d.runFits (groupRows g) && a.runFits (groupRows g) && b.runFits (groupRows g)
  | .vmul _ _ g d a b => d.runFits (groupRows g) && a.runFits (groupRows g) && b.runFits (groupRows g)
  | .vmulh _ ty g d a b => !ty.isFloat && d.runFits (groupRows g) && a.runFits (groupRows g) && b.runFits (groupRows g)
  | .vmin _ _ g d a b => d.runFits (groupRows g) && a.runFits (groupRows g) && b.runFits (groupRows g)
  | .vmax _ _ g d a b => d.runFits (groupRows g) && a.runFits (groupRows g) && b.runFits (groupRows g)
  | .vabs _ ty g d a => ty != .u32 && d.runFits (groupRows g) && a.runFits (groupRows g)
  | .vneg _ ty g d a => ty != .u32 && d.runFits (groupRows g) && a.runFits (groupRows g)
  | .vfma _ ty g d a b => ty.isFloat && !d.isBand && d.runFits (groupRows g) && a.runFits (groupRows g) && b.runFits (groupRows g)
  | .vdiv _ ty g d a b => ty.isFloat && d.runFits (groupRows g) && a.runFits (groupRows g) && b.runFits (groupRows g)
  | .vrcp _ g d a => d.runFits (groupRows g) && a.runFits (groupRows g)
  | .vrsqrt _ g d a => d.runFits (groupRows g) && a.runFits (groupRows g)
  | .vsqrt _ g d a => d.runFits (groupRows g) && a.runFits (groupRows g)
  | .vexp2 _ g d a => d.runFits (groupRows g) && a.runFits (groupRows g)
  | .vlog2 _ g d a => d.runFits (groupRows g) && a.runFits (groupRows g)
  | .vshl _ ty g d a b => !ty.isFloat && d.runFits (groupRows g) && a.runFits (groupRows g) && b.runFits (groupRows g)
  | .vshr _ ty g d a b => !ty.isFloat && d.runFits (groupRows g) && a.runFits (groupRows g) && b.runFits (groupRows g)
  | .vsar _ ty g d a b => (ty == .i32 || ty == .i8) && d.runFits (groupRows g) && a.runFits (groupRows g) && b.runFits (groupRows g)
  | .vand _ g d a b => d.runFits (groupRows g) && a.runFits (groupRows g) && b.runFits (groupRows g)
  | .vor _ g d a b => d.runFits (groupRows g) && a.runFits (groupRows g) && b.runFits (groupRows g)
  | .vxor _ g d a b => d.runFits (groupRows g) && a.runFits (groupRows g) && b.runFits (groupRows g)
  | .vnot _ g d a => d.runFits (groupRows g) && a.runFits (groupRows g)
  | .vmov _ g d a => d.runFits (groupRows g) && a.runFits (groupRows g)
  | .vcmp _ _ ty cond _ _ _ _ => ty.isFloat || cond.intOk
  | .vcvt _ dst src d a => dst.cvtOk && src.cvtOk && dst != src && d.runFits (dst.width / src.width) && a.runFits (src.width / dst.width)
  | .vquant _ f _ _ a _ => a.runFits f.rows
  | .vdequant _ f _ d _ _ => d.runFits f.rows
  | .vdot4 _ _ d _ _ => !d.isBand
  | .pairSNop _ v => v != .nop
  | .pairVVaddI32 _ s _ _ _ => s != .nop
  | .pairVVsubI32 _ s _ _ _ => s != .nop
  | .pairVVmulI32 _ s _ _ _ => s != .nop
  | .pairVVminI32 _ s _ _ _ => s != .nop
  | .pairVVmaxI32 _ s _ _ _ => s != .nop
  | .pairVVand _ s _ _ _ => s != .nop
  | .pairVVor _ s _ _ _ => s != .nop
  | .pairVVxor _ s _ _ _ => s != .nop
  | .pairVVmov _ s _ _ => s != .nop
  | .pairVVaddF32 _ s _ _ _ => s != .nop
  | .pairVVsubF32 _ s _ _ _ => s != .nop
  | .pairVVmulF32 _ s _ _ _ => s != .nop
  | .pairVVfmaF32 _ s _ _ _ => s != .nop
  | .pairVVminF32 _ s _ _ _ => s != .nop
  | .pairVVmaxF32 _ s _ _ _ => s != .nop
  | .ldfg _ ew _ _ _ idx => idx.runFits ew.indexRows
  | .ldlg _ ew _ _ _ idx => idx.runFits ew.indexRows
  | .stls _ ew _ _ _ idx => idx.runFits ew.indexRows
  | .lds _ pd _ _ _ => pd != 7
  | .amoSwap _ f _ _ _ => !f.uns
  | .amoCas _ f d _ _ => !f.uns && d != 31
  | .amoAdd _ f _ _ _ => !f.uns
  | .amoMin _ f _ _ _ => !(f.uns && f.w64)
  | .amoMax _ f _ _ _ => !(f.uns && f.w64)
  | .amoAnd _ f _ _ _ => !f.uns
  | .amoOr _ f _ _ _ => !f.uns
  | .hbuild _ _ a => a.toNat ≤ 28
  | .bfree _ b n => 1 ≤ n.toNat && b.toNat + n.toNat ≤ 512
  | .lease _ n => 1 ≤ n.toNat && n.toNat ≤ 256
  | .leaseCyc _ n => 1 ≤ n.toNat && n.toNat ≤ 65536
  | .mma _ _ _ _ _ st sp _ _ _ => sp || !st
  | .mdrain _ _ _ _ wh _ b => wh || b.isSome
  | .saccMin _ ty _ _ _ _ => ty != .af
  | .saccMax _ ty _ _ _ _ => ty != .af
  | .saccAnd _ ty _ _ _ _ => ty != .af
  | .saccOr _ ty _ _ _ _ => ty != .af
  | .saccXor _ ty _ _ _ _ => ty != .af
  | .rgnParties _ _ n => n != 0
  | .lrecPatch _ _ f _ => f != 7 && f.toNat ≤ 23
  | .bankReplay core bank => core < 3072 && bank < 16
  | .bandWaitExpiry strand => strand < 9216
  | .cmdqWaitExpiry strand => strand < 9216
  | .engineCommandStart core e ch => core < 3072 && e < 4 && ch < 4
  | .copyRowDelivery core ch => core < 3072 && ch < 4
  | .engineCompletion core e ch => core < 3072 && e < 4 && ch < 4
  | .heldEntryEnter core e => core < 3072 && e < 4
  | .tokTakeExpiry strand => strand < 9216
  | .cpwaitExpiry strand => strand < 9216
  | .cqpopExpiry strand => strand < 9216
  | .matrixCommandStart cluster => cluster < 384
  | .matrixCommandComplete cluster => cluster < 384
  | .leaseGrant cluster => cluster < 384
  | .leaseCycleExpiry cluster => cluster < 384
  | .mrestoreWaitExpiry strand => strand < 9216
  | .accrueEntryPerform die => die < 24
  | .cbarExpiry strand => strand < 9216
  | .recordDispatch die => die < 24
  | .stitchStart core => core < 3072
  | .stitchRetire core => core < 3072
  | .stitchBudgetExpiry core => core < 3072
  | .preemptStitch core _ => core < 3072
  | .stitchResume core => core < 3072
  | .eprioAging die rec => die < 24 && rec < 4096
  | .homeAccess die => die < 24
  | .pageMap die _ _ _ => die < 24
  | .skeinReplay die => die < 24
  | .pageUnmappable die _ _ => die < 24
  | .coreThaw die _ => die < 24
  | .lateFreeze core _ => core < 3072
  | .lateExpiry core => core < 3072
  | .recastFlip die region => die < 24 && region < 262144
  | .recastWaitExpiry strand => strand < 9216
  | .ringWaitExpiry strand => strand < 9216
  | .lrecWaitExpiry strand => strand < 9216
  | .jobWaitExpiry strand => strand < 9216
  | .cwaitExpiry strand => strand < 9216
  | .reshardWaitExpiry strand => strand < 9216
  | .messageDelivery m => m.die < 24
  | .flitRetry die _ => die < 24
  | .tileTransfer die => die < 24
  | .collectiveComplete die num => die < 24 && num < 65536
  | .collectiveCancel die num => die < 24 && num < 65536
  | .migrationRequest die _ _ _ => die < 24
  | .migrationFlip die => die < 24
  | .hostKick die ring _ => die < 24 && ring < 16
  | .seqPoll die ring => die < 24 && ring < 16
  | .stalepktTimeout die ring => die < 24 && ring < 16
  | .hsqerrClear die ring => die < 24 && ring < 16
  | .tlbInvalidateAll die _ => die < 24
  | .tlbInvalidatePage die _ _ => die < 24
  | .hostHdmRead addr len => addr + len ≤ 1152 * 2 ^ 30
  | .hostHdmWrite addr data => addr + data.length ≤ 1152 * 2 ^ 30
  | .imageVerify die => die < 24
  | .thermalReset die => die < 24
  | .powerThrottle die => die < 24
  | .fwRegisterWrite die _ _ => die < 24
  | .portLinkUpChange die port _ => die < 24 && port < 32
  | .firmwareWritesState die rec st => die < 24 && rec < 4096 && st.toNat ≤ 6
  | .tenantSamplerRemoval t => t < 128
  | .diePowerWithinCap die => die < 24
  | .nop .. | .addSr .. | .subSr .. | .mulSr .. | .mulhSr .. | .mulhuSr .. | .divSr .. | .divuSr .. | .remSr ..
  | .remuSr .. | .andSr .. | .orSr .. | .xorSr .. | .shlSr .. | .shrSr .. | .sarSr .. | .minSr .. | .maxSr ..
  | .minuSr .. | .maxuSr .. | .addSi .. | .subSi .. | .andSi .. | .orSi .. | .xorSi .. | .shlSi .. | .shrSi ..
  | .sarSi .. | .moviSi .. | .brSj .. | .brLb .. | .jr .. | .ret .. | .trap .. | .eret .. | .addLs .. | .subLs ..
  | .mulLs .. | .mulhLs .. | .mulhuLs .. | .divLs .. | .divuLs .. | .remLs .. | .remuLs .. | .andLs .. | .orLs ..
  | .xorLs .. | .shlLs .. | .shrLs .. | .sarLs .. | .minLs .. | .maxLs .. | .minuLs .. | .maxuLs .. | .addLi ..
  | .subLi .. | .mulLi .. | .andLi .. | .orLi .. | .xorLi .. | .shlLi .. | .shrLi .. | .sarLi .. | .minLi ..
  | .maxLi .. | .minuLi .. | .maxuLi .. | .moviLi .. | .fcmp .. | .fadd .. | .fsub .. | .fmul .. | .fdiv ..
  | .fsqrt .. | .ffma .. | .fmin .. | .fmax .. | .fabs .. | .fneg .. | .fcvti .. | .fcvtf .. | .pcomb .. | .pcount ..
  | .pfirst .. | .pget .. | .pset .. | .plive .. | .feat .. | .sysr .. | .sysw .. | .ctxsave .. | .ctxrestore ..
  | .vperm .. | .vbcast .. | .vrot .. | .vredsum .. | .vredmin .. | .vredmax .. | .vscan .. | .vcompress ..
  | .vexpand .. | .vget .. | .vput .. | .pairSAdd .. | .pairSSub .. | .pairSAnd .. | .pairSOr .. | .pairSXor ..
  | .pairSMin .. | .pairSMax .. | .pairSAddi .. | .pairSShl .. | .pairSShr .. | .pairSSar .. | .pairSMov ..
  | .pairSMovi .. | .pairVNop .. | .ldf .. | .ldl .. | .stl .. | .sts .. | .stsEos .. | .sptrW .. | .sptrR ..
  | .sptrC .. | .accAddI32 .. | .accAddI64 .. | .accAddAf .. | .accMinI32 .. | .accMaxI32 .. | .accAnd .. | .accOr ..
  | .accXor .. | .hview .. | .hread .. | .fenceFull .. | .fenceAcq .. | .fenceRel .. | .afence .. | .bstFull ..
  | .bstEmpty .. | .bstPoison .. | .tokTake .. | .tokGive .. | .cpin .. | .cpout .. | .cpwait .. | .rdwptr ..
  | .cqpop .. | .unlease .. | .mzero .. | .msave .. | .mrestore .. | .saccAdd .. | .cbar .. | .stitchEnd ..
  | .recastArrive .. | .recastWait .. | .lrecArm .. | .lrecWait .. | .jobCount .. | .jobWait .. | .sinval ..
  | .reshard .. | .cwait .. | .illegalEncoding .. | .powerOnReset .. | .linkTrain .. | .transferPart ..
  | .transferEnd .. | .transferAbort .. | .statusRead .. | .getAttestation .. => true

/-- The prefixes of a unit: at most one of each kind, legal payloads, accepted kinds, and none before T = 1 (R68, R70). -/
def Hdr.prefixesOk (u : Hdr) (x : Accepts) : Bool :=
  u.pfx.all Pfx.wf && u.pfx.all x.ok && (u.pfx.map Pfx.kind).Nodup && (u.pfx.isEmpty || !u.t)

/-- A well-formed instruction: what the encoding tables can say, and nothing they reject. -/
def Instr.wf (i : Instr) : Bool :=
  i.fieldsOk &&
    match i.hdr with
    | none => true
    | some u => u.prefixesOk i.accepts && (!i.isShort || u.g == Guard.none)

end Sys2Proof
end

