-- ==== Sys2Proof/Decode.lean ====
section
/-! DEFINITION. The decoder, total on any parcels and rejecting by name, and the encoder, both from R57-R70 and the
encoding tables R84-R95, R121, R190, R226, R278, R301, R356. A parcel is a number below 2^32. -/

namespace Sys2Proof

/-! ### Codes of operands -/

/-- The operand code of a row (R62). -/
def Row.code : Row → Nat
  | .v n => n.toNat
  | .b n => 0x100 + n.toNat
  | .o n => 0x300 + n.toNat

/-- The row of an operand code; codes above 0x307 name none (R62). -/
def Row.ofCode (c : Nat) : Option Row :=
  if c < 0x100 then some (.v (BitVec.ofNat 8 c))
  else if c < 0x300 then some (.b (BitVec.ofNat 9 (c - 0x100)))
  else if c < 0x308 then some (.o (BitVec.ofNat 3 (c - 0x300)))
  else none

/-- The code of a source row (R62, R165). -/
def RowSrc.code : RowSrc → Nat
  | .row r => r.code
  | .lx => 0x308

/-- The source row of a code: a row or lx (R62; log entry 14). -/
def RowSrc.ofCode (c : Nat) : Option RowSrc :=
  if c = 0x308 then some .lx else (Row.ofCode c).map .row

/-- The code of a vector source (R62). -/
def VSrc.code : VSrc → Nat
  | .row r => r.code
  | .lx => 0x308
  | .scal s => 0x320 + s.toNat
  | .imm n => 0x600 + n.toNat

/-- The vector source of a code; reserved codes name none (R62). -/
def VSrc.ofCode (c : Nat) : Option VSrc :=
  if c < 0x308 then (Row.ofCode c).map .row
  else if c = 0x308 then some .lx
  else if c < 0x320 then none
  else if c < 0x340 then some (.scal (BitVec.ofNat 5 (c - 0x320)))
  else if c < 0x600 then none
  else if c < 0x800 then some (.imm (BitVec.ofNat 9 (c - 0x600)))
  else none

/-- The code of a scalar or immediate operand (R62). -/
def SImm.code : SImm → Nat
  | .scal s => 0x320 + s.toNat
  | .imm n => 0x600 + n.toNat

/-- The scalar or immediate operand of a code (R62, R138). -/
def SImm.ofCode (c : Nat) : Option SImm :=
  if c < 0x320 then none
  else if c < 0x340 then some (.scal (BitVec.ofNat 5 (c - 0x320)))
  else if c < 0x600 then none
  else if c < 0x800 then some (.imm (BitVec.ofNat 9 (c - 0x600)))
  else none

/-- The pair source code of an operand (R65). -/
def PSrc.code : PSrc → Nat
  | .v n => n.toNat
  | .o n => 0x20 + n.toNat
  | .lx => 0x28
  | .scal s => 0x30 + s.toNat

/-- The operand of a pair source code (R65). -/
def PSrc.ofCode (c : Nat) : Option PSrc :=
  if c < 0x20 then some (.v (BitVec.ofNat 5 c))
  else if c < 0x28 then some (.o (BitVec.ofNat 3 (c - 0x20)))
  else if c = 0x28 then some .lx
  else if c < 0x30 then none
  else if c < 0x40 then some (.scal (BitVec.ofNat 4 (c - 0x30)))
  else none


/-- MODE (R68). -/
def RMode.code : RMode → Nat
  | .rne => 0
  | .rtz => 1
  | .rdn => 2
  | .rup => 3
  | .rna => 4
  | .rsr => 5

/-- The inverse of `RMode.code`. -/
def RMode.ofCode : Nat → Option RMode
  | 0 => some .rne
  | 1 => some .rtz
  | 2 => some .rdn
  | 3 => some .rup
  | 4 => some .rna
  | 5 => some .rsr
  | _ => none

/-- The type index TI (R86). -/
def VTy.ti : VTy → Nat
  | .i32 => 0
  | .u32 => 1
  | .i8 => 2
  | .f32 => 4
  | .f16 => 5
  | .bf16 => 6

/-- The inverse of `VTy.ti`. -/
def VTy.ofTi : Nat → Option VTy
  | 0 => some .i32
  | 1 => some .u32
  | 2 => some .i8
  | 4 => some .f32
  | 5 => some .f16
  | 6 => some .bf16
  | _ => none

/-- The FMT code (R19). -/
def Fmt.code : Fmt → Nat
  | .int4 => 1
  | .int8 => 2
  | .int32 => 3
  | .int64 => 4
  | .u32 => 5
  | .fp32 => 8
  | .fp16 => 9
  | .bf16 => 10
  | .e4m3 => 11
  | .e5m2 => 12
  | .e3m2 => 13
  | .e2m3 => 14
  | .e2m1 => 15
  | .e8m0 => 16
  | .af128 => 17

/-- The inverse of `Fmt.code`. -/
def Fmt.ofCode : Nat → Option Fmt
  | 1 => some .int4
  | 2 => some .int8
  | 3 => some .int32
  | 4 => some .int64
  | 5 => some .u32
  | 8 => some .fp32
  | 9 => some .fp16
  | 10 => some .bf16
  | 11 => some .e4m3
  | 12 => some .e5m2
  | 13 => some .e3m2
  | 14 => some .e2m3
  | 15 => some .e2m1
  | 16 => some .e8m0
  | 17 => some .af128
  | _ => none

/-- The OPC offset of an MX format (R89). -/
def MxFmt.off : MxFmt → Nat
  | .e4m3 => 0
  | .e5m2 => 1
  | .e3m2 => 2
  | .e2m3 => 3
  | .e2m1 => 4

/-- The inverse of `MxFmt.off`. -/
def MxFmt.ofOff : Nat → Option MxFmt
  | 0 => some .e4m3
  | 1 => some .e5m2
  | 2 => some .e3m2
  | 3 => some .e2m3
  | 4 => some .e2m1
  | _ => none

/-- The OPC offset of a `vdot4` format (R88). -/
def DotFmt.off : DotFmt → Nat
  | .i8 => 0
  | .e4m3 => 1
  | .e5m2 => 2
  | .e2m1 => 3

/-- The inverse of `DotFmt.off`. -/
def DotFmt.ofOff : Nat → Option DotFmt
  | 0 => some .i8
  | 1 => some .e4m3
  | 2 => some .e5m2
  | 3 => some .e2m1
  | _ => none

/-- The TA and TB codes (R93). -/
def MTy.code : MTy → Nat
  | .bf16 => 0
  | .f16 => 1
  | .e4m3 => 2
  | .e5m2 => 3
  | .e3m2 => 4
  | .e2m3 => 5
  | .e2m1 => 6
  | .i8 => 7
  | .i4 => 8

/-- The inverse of `MTy.code`. -/
def MTy.ofCode : Nat → Option MTy
  | 0 => some .bf16
  | 1 => some .f16
  | 2 => some .e4m3
  | 3 => some .e5m2
  | 4 => some .e3m2
  | 5 => some .e2m3
  | 6 => some .e2m1
  | 7 => some .i8
  | 8 => some .i4
  | _ => none

/-- The scale mode X2 (R93). -/
def MScale.code : MScale → Nat
  | .none => 0
  | .mx => 1
  | .s128 => 2

/-- The inverse of `MScale.code`. -/
def MScale.ofCode : Nat → Option MScale
  | 0 => some .none
  | 1 => some .mx
  | 2 => some .s128
  | _ => none

/-- The output FMT field (R236). -/
def OutFmt.code : OutFmt → Nat
  | .dflt => 0
  | .int8 => 2
  | .int32 => 3
  | .fp32 => 8
  | .fp16 => 9
  | .bf16 => 10
  | .e4m3 => 11
  | .e5m2 => 12

/-- The inverse of `OutFmt.code`. -/
def OutFmt.ofCode : Nat → Option OutFmt
  | 0 => some .dflt
  | 2 => some .int8
  | 3 => some .int32
  | 8 => some .fp32
  | 9 => some .fp16
  | 10 => some .bf16
  | 11 => some .e4m3
  | 12 => some .e5m2
  | _ => none

/-- COND (R63). -/
def Cond.code : Cond → Nat
  | .eq => 0
  | .ne => 1
  | .lt => 2
  | .le => 3
  | .gt => 4
  | .ge => 5
  | .un => 6
  | .or => 7

/-- The inverse of `Cond.code`. -/
def Cond.ofCode : Nat → Option Cond
  | 0 => some .eq
  | 1 => some .ne
  | 2 => some .lt
  | 3 => some .le
  | 4 => some .gt
  | 5 => some .ge
  | 6 => some .un
  | 7 => some .or
  | _ => none

/-- The compare form X2 (R63). -/
def CForm.code : CForm → Nat
  | .plain => 0
  | .unc => 1
  | .and => 2
  | .or => 3

/-- The inverse of `CForm.code`. -/
def CForm.ofCode : Nat → Option CForm
  | 0 => some .plain
  | 1 => some .unc
  | 2 => some .and
  | 3 => some .or
  | _ => none

/-- EW (R86). -/
def EW.code : EW → Nat
  | .w4 => 0
  | .w8 => 1
  | .w16 => 2
  | .w32 => 3

/-- The inverse of `EW.code`. -/
def EW.ofCode : Nat → Option EW
  | 0 => some .w4
  | 1 => some .w8
  | 2 => some .w16
  | 3 => some .w32
  | _ => none

/-- The SPACE code (R244). -/
def Space.code : Space → Nat
  | .fixed => 0
  | .stream => 1
  | .accrue => 2
  | .loose => 3

/-- The inverse of `Space.code`. -/
def Space.ofCode : Nat → Option Space
  | 0 => some .fixed
  | 1 => some .stream
  | 2 => some .accrue
  | 3 => some .loose
  | _ => none

/-- SCOPE (R90). -/
def Scope.code : Scope → Nat
  | .strand => 0
  | .core => 1
  | .cluster => 2
  | .die => 3
  | .package => 4
  | .fabric => 5
  | .system => 6

/-- The inverse of `Scope.code`. -/
def Scope.ofCode : Nat → Option Scope
  | 0 => some .strand
  | 1 => some .core
  | 2 => some .cluster
  | 3 => some .die
  | 4 => some .package
  | 5 => some .fabric
  | 6 => some .system
  | _ => none

/-- X2 of `acc.add.af` (R90). -/
def AfSrc.code : AfSrc → Nat
  | .f32 => 0
  | .f16 => 1
  | .bf16 => 2
  | .i32 => 3

/-- The inverse of `AfSrc.code`. -/
def AfSrc.ofCode : Nat → Option AfSrc
  | 0 => some .f32
  | 1 => some .f16
  | 2 => some .bf16
  | 3 => some .i32
  | _ => none

/-- X2 of `sacc` (R93). -/
def SaccTy.code : SaccTy → Nat
  | .i32 => 0
  | .i64 => 1
  | .af => 2

/-- The inverse of `SaccTy.code`. -/
def SaccTy.ofCode : Nat → Option SaccTy
  | 0 => some .i32
  | 1 => some .i64
  | 2 => some .af
  | _ => none

/-- ORD (R91). -/
def Ord4.code : Ord4 → Nat
  | .relaxed => 0
  | .acq => 1
  | .rel => 2
  | .ar => 3

/-- The inverse of `Ord4.code`. -/
def Ord4.ofCode : Nat → Option Ord4
  | 0 => some .relaxed
  | 1 => some .acq
  | 2 => some .rel
  | 3 => some .ar
  | _ => none

/-- The 12-bit number of a register (R100, R177). -/
def SysReg.num : SysReg → Nat
  | .status => 0x001
  | .plive => 0x002
  | .vwb => 0x003
  | .swb => 0x004
  | .part => 0x005
  | .portmap => 0x006
  | .wlim => 0x007
  | .spillh => 0x008
  | .wstat => 0x009
  | .thnd => 0x00A
  | .tcause => 0x00B
  | .tpc => 0x00C
  | .tval => 0x00D
  | .tlanes => 0x00E
  | .srkey => 0x00F
  | .flnv => 0x010
  | .fldz => 0x011
  | .flof => 0x012
  | .fluf => 0x013
  | .flnx => 0x014
  | .cycle => 0x020
  | .stcyc => 0x021
  | .tokq => 0x108
  | .cqocc => 0x109
  | .cmdocc => 0x10A
  | .corenum => 0x10B
  | .wptr n => 0x100 + n.toNat
  | .bankloss n => 0x110 + n.toNat
  | .bfull n => 0x120 + n.toNat
  | .bpsn n => 0x128 + n.toNat

/-- The register of a number; unlisted numbers name none (R100, R177). -/
def SysReg.ofNum (n : Nat) : Option SysReg :=
  if 0x100 ≤ n ∧ n < 0x104 then some (.wptr (BitVec.ofNat 2 (n - 0x100)))
  else if 0x110 ≤ n ∧ n < 0x120 then some (.bankloss (BitVec.ofNat 4 (n - 0x110)))
  else if 0x120 ≤ n ∧ n < 0x128 then some (.bfull (BitVec.ofNat 3 (n - 0x120)))
  else if 0x128 ≤ n ∧ n < 0x130 then some (.bpsn (BitVec.ofNat 3 (n - 0x128)))
  else match n with
    | 0x001 => some .status
    | 0x002 => some .plive
    | 0x003 => some .vwb
    | 0x004 => some .swb
    | 0x005 => some .part
    | 0x006 => some .portmap
    | 0x007 => some .wlim
    | 0x008 => some .spillh
    | 0x009 => some .wstat
    | 0x00A => some .thnd
    | 0x00B => some .tcause
    | 0x00C => some .tpc
    | 0x00D => some .tval
    | 0x00E => some .tlanes
    | 0x00F => some .srkey
    | 0x010 => some .flnv
    | 0x011 => some .fldz
    | 0x012 => some .flof
    | 0x013 => some .fluf
    | 0x014 => some .flnx
    | 0x020 => some .cycle
    | 0x021 => some .stcyc
    | 0x108 => some .tokq
    | 0x109 => some .cqocc
    | 0x10A => some .cmdocc
    | 0x10B => some .corenum
    | _ => none

/-! ### Layouts (R59-R61, R65, R68) -/

/-- A prefix parcel (R68). -/
def Pfx.encode : Pfx → Nat
  | .round m key => 3 + 1 * 2 ^ 3 + m.code * 2 ^ 7 + key.toNat * 2 ^ 10
  | .arith sat ftz q => 3 + 2 * 2 ^ 3 + b2n sat * 2 ^ 7 + b2n ftz * 2 ^ 8 + b2n q * 2 ^ 9
  | .imm x => 3 + 3 * 2 ^ 3 + x.toNat * 2 ^ 7

/-- The prefix a parcel holds, if it is a legal one (R58, R68). -/
def Pfx.decode (w : Nat) : Option Pfx :=
  let p : Option Pfx := match bits w 3 4 with
    | 1 => (RMode.ofCode (bits w 7 3)).map (.round · (BitVec.ofNat 4 (bits w 10 4)))
    | 2 => some (.arith (bit w 7) (bit w 8) (bit w 9))
    | 3 => some (.imm (BitVec.ofNat 25 (bits w 7 25)))
    | _ => none
  match p with
  | some p => if p.wf && p.encode == w then some p else none
  | none => none

/-- Bits [19:0] of a long or pair first parcel (R60, R65). -/
def Hdr.low (u : Hdr) (len : Nat) : Nat :=
  len + b2n u.t * 2 ^ 2 + u.g.a.toNat * 2 ^ 3 + u.g.b.toNat * 2 ^ 6 + u.g.c.toNat * 2 ^ 9 + u.g.tt.toNat * 2 ^ 12

/-- A long first parcel with X2 = `x2` (R60). -/
def longP (u : Hdr) (x2 opc : Nat) : Nat := x2 * 2 ^ 30 + opc * 2 ^ 20 + u.low 1

/-- A short parcel with its 24-bit body (R59). -/
def shortP (u : Hdr) (maj body : Nat) : Nat := body * 2 ^ 8 + maj * 2 ^ 3 + b2n u.t * 2 ^ 2

/-- SR body (R59). -/
def srBody (fn sb sa sd : Nat) : Nat := fn * 2 ^ 15 + sb * 2 ^ 10 + sa * 2 ^ 5 + sd

/-- SI body (R59). -/
def siBody (imm sa sd : Nat) : Nat := imm * 2 ^ 10 + sa * 2 ^ 5 + sd

/-- LV second parcel (R61). -/
def lvP (b a d : Nat) : Nat := b * 2 ^ 21 + a * 2 ^ 10 + d

/-- LC second parcel (R61). -/
def lcP (b a cond pe pd : Nat) : Nat := b * 2 ^ 21 + a * 2 ^ 10 + cond * 2 ^ 6 + pe * 2 ^ 3 + pd

/-- LS second parcel (R61). -/
def lsP (aux sb sa sd : Nat) : Nat := aux * 2 ^ 15 + sb * 2 ^ 10 + sa * 2 ^ 5 + sd

/-- LI second parcel (R61). -/
def liP (imm sa sd : Nat) : Nat := imm * 2 ^ 10 + sa * 2 ^ 5 + sd

/-- LM second parcel (R61). -/
def lmP (aux sa h d : Nat) : Nat := aux * 2 ^ 20 + sa * 2 ^ 15 + h * 2 ^ 11 + d

/-- The scalar half of a pair word: SOP, SD, SA, SB (R95). -/
def PairS.fields : PairS → Nat × Nat × Nat × Nat
  | .nop => (0x00, 0, 0, 0)
  | .add d a b => (0x01, d.toNat, a.toNat, b.toNat)
  | .sub d a b => (0x02, d.toNat, a.toNat, b.toNat)
  | .and d a b => (0x03, d.toNat, a.toNat, b.toNat)
  | .or d a b => (0x04, d.toNat, a.toNat, b.toNat)
  | .xor d a b => (0x05, d.toNat, a.toNat, b.toNat)
  | .min d a b => (0x06, d.toNat, a.toNat, b.toNat)
  | .max d a b => (0x07, d.toNat, a.toNat, b.toNat)
  | .addi d a imm => (0x08, d.toNat, a.toNat, imm.toNat)
  | .shl d a n => (0x09, d.toNat, a.toNat, n.toNat)
  | .shr d a n => (0x0A, d.toNat, a.toNat, n.toNat)
  | .sar d a n => (0x0B, d.toNat, a.toNat, n.toNat)
  | .mov d a => (0x0C, d.toNat, a.toNat, 0)
  | .movi d imm => (0x0D, d.toNat, 0, imm.toNat)

/-- The vector half of a pair word: VOP, VD, VA, VB (R95). -/
def PairV.fields : PairV → Nat × Nat × Nat × Nat
  | .nop => (0x00, 0, 0, 0)
  | .vaddI32 d a b => (0x01, d.toNat, a.code, b.code)
  | .vsubI32 d a b => (0x02, d.toNat, a.code, b.code)
  | .vmulI32 d a b => (0x03, d.toNat, a.code, b.code)
  | .vminI32 d a b => (0x04, d.toNat, a.code, b.code)
  | .vmaxI32 d a b => (0x05, d.toNat, a.code, b.code)
  | .vand d a b => (0x06, d.toNat, a.code, b.code)
  | .vor d a b => (0x07, d.toNat, a.code, b.code)
  | .vxor d a b => (0x08, d.toNat, a.code, b.code)
  | .vmov d a => (0x09, d.toNat, a.code, 0)
  | .vaddF32 d a b => (0x0A, d.toNat, a.code, b.code)
  | .vsubF32 d a b => (0x0B, d.toNat, a.code, b.code)
  | .vmulF32 d a b => (0x0C, d.toNat, a.code, b.code)
  | .vfmaF32 d a b => (0x0D, d.toNat, a.code, b.code)
  | .vminF32 d a b => (0x0E, d.toNat, a.code, b.code)
  | .vmaxF32 d a b => (0x0F, d.toNat, a.code, b.code)

/-- A pair word as a 64-bit number (R65). -/
def pairW (u : Hdr) (s : PairS) (v : PairV) : Nat :=
  let x := s.fields
  let y := v.fields
  u.low 2 + x.1 * 2 ^ 20 + x.2.1 * 2 ^ 26 + x.2.2.1 * 2 ^ 31 + x.2.2.2 * 2 ^ 36 + y.1 * 2 ^ 41 + y.2.1 * 2 ^ 47 +
    y.2.2.1 * 2 ^ 52 + y.2.2.2 * 2 ^ 58

/-- The two parcels of a pair word. -/
def pairP (u : Hdr) (s : PairS) (v : PairV) : List Nat :=
  [pairW u s v % 2 ^ 32, pairW u s v / 2 ^ 32]

/-- The optional queue field of a copy command: enable and queue (R92). -/
def queueField : Option (BitVec 3) → Nat
  | none => 0
  | some q => 8 + q.toNat


/-- The code of an A source of `mma` (R93). -/
def asrcCode : ASrc → Nat
  | .band b => 0x100 + b.toNat
  | .lx => 0x308

/-- The A source of a code (R93). -/
def asrcOf (c : Nat) : Option ASrc :=
  if c = 0x308 then some .lx else if 0x100 ≤ c ∧ c < 0x300 then some (.band (BitVec.ofNat 9 (c - 0x100))) else none

/-- The D field of `mdrain` (R236). -/
def bandOptCode : Option (BitVec 9) → Nat
  | none => 0
  | some b => 0x100 + b.toNat

/-- The band row a code names. -/
def bandOf (c : Nat) : Option (BitVec 9) :=
  if 0x100 ≤ c ∧ c < 0x300 then some (BitVec.ofNat 9 (c - 0x100)) else none

/-- The inverse of `bandOptCode`. -/
def bandOptOf (c : Nat) : Option (Option (BitVec 9)) :=
  if c = 0 then some none else (bandOf c).map some

/-- The queue named by a four-bit field with its enable in bit 3 (R92). -/
def queueOf (c : Nat) : Option (BitVec 3) := if c / 8 = 1 then some (BitVec.ofNat 3 c) else none

/-! ### The encoder -/

/-- The parcels of an instruction without its prefixes; an event has none. -/
def encodeCore : Instr → List Nat
  | .nop u => [shortP u 0x01 0]
  | .addSr u d a b => [shortP u 0x02 (srBody 0x000 b.toNat a.toNat d.toNat)]
  | .subSr u d a b => [shortP u 0x02 (srBody 0x001 b.toNat a.toNat d.toNat)]
  | .mulSr u d a b => [shortP u 0x02 (srBody 0x002 b.toNat a.toNat d.toNat)]
  | .mulhSr u d a b => [shortP u 0x02 (srBody 0x003 b.toNat a.toNat d.toNat)]
  | .mulhuSr u d a b => [shortP u 0x02 (srBody 0x004 b.toNat a.toNat d.toNat)]
  | .divSr u d a b => [shortP u 0x02 (srBody 0x005 b.toNat a.toNat d.toNat)]
  | .divuSr u d a b => [shortP u 0x02 (srBody 0x006 b.toNat a.toNat d.toNat)]
  | .remSr u d a b => [shortP u 0x02 (srBody 0x007 b.toNat a.toNat d.toNat)]
  | .remuSr u d a b => [shortP u 0x02 (srBody 0x008 b.toNat a.toNat d.toNat)]
  | .andSr u d a b => [shortP u 0x02 (srBody 0x009 b.toNat a.toNat d.toNat)]
  | .orSr u d a b => [shortP u 0x02 (srBody 0x00A b.toNat a.toNat d.toNat)]
  | .xorSr u d a b => [shortP u 0x02 (srBody 0x00B b.toNat a.toNat d.toNat)]
  | .shlSr u d a b => [shortP u 0x02 (srBody 0x00C b.toNat a.toNat d.toNat)]
  | .shrSr u d a b => [shortP u 0x02 (srBody 0x00D b.toNat a.toNat d.toNat)]
  | .sarSr u d a b => [shortP u 0x02 (srBody 0x00E b.toNat a.toNat d.toNat)]
  | .minSr u d a b => [shortP u 0x02 (srBody 0x00F b.toNat a.toNat d.toNat)]
  | .maxSr u d a b => [shortP u 0x02 (srBody 0x010 b.toNat a.toNat d.toNat)]
  | .minuSr u d a b => [shortP u 0x02 (srBody 0x011 b.toNat a.toNat d.toNat)]
  | .maxuSr u d a b => [shortP u 0x02 (srBody 0x012 b.toNat a.toNat d.toNat)]
  | .addSi u d a imm => [shortP u 0x03 (siBody imm.toNat a.toNat d.toNat)]
  | .subSi u d a imm => [shortP u 0x04 (siBody imm.toNat a.toNat d.toNat)]
  | .andSi u d a imm => [shortP u 0x05 (siBody imm.toNat a.toNat d.toNat)]
  | .orSi u d a imm => [shortP u 0x06 (siBody imm.toNat a.toNat d.toNat)]
  | .xorSi u d a imm => [shortP u 0x07 (siBody imm.toNat a.toNat d.toNat)]
  | .shlSi u d a n => [shortP u 0x08 (siBody n.toNat a.toNat d.toNat)]
  | .shrSi u d a n => [shortP u 0x09 (siBody n.toNat a.toNat d.toNat)]
  | .sarSi u d a n => [shortP u 0x0A (siBody n.toNat a.toNat d.toNat)]
  | .moviSi u d imm => [shortP u 0x0B (siBody imm.toNat 0 d.toNat)]
  | .brSj u disp => [shortP u 0x0C disp.toNat]
  | .brLb u disp => [longP u 0 0x001, disp.toNat]
  | .loop u a disp => [longP u 0 0x002, liP disp.toNat a.toNat 0]
  | .call u disp frm => [longP u 0 0x003, disp.toNat * 2 ^ 10 + frm.toNat * 2 ^ 4]
  | .callr u a frm => [longP u 0 0x004, lsP frm.toNat 0 a.toNat 0]
  | .jr u a => [longP u 0 0x005, lsP 0 0 a.toNat 0]
  | .ret u => [longP u 0 0x006, 0]
  | .trap u code => [longP u 0 0x007, liP code.toNat 0 0]
  | .eret u => [longP u 0 0x008, 0]
  | .addLs u d a b => [longP u 0 0x010, lsP 0 b.toNat a.toNat d.toNat]
  | .subLs u d a b => [longP u 0 0x011, lsP 0 b.toNat a.toNat d.toNat]
  | .mulLs u d a b => [longP u 0 0x012, lsP 0 b.toNat a.toNat d.toNat]
  | .mulhLs u d a b => [longP u 0 0x013, lsP 0 b.toNat a.toNat d.toNat]
  | .mulhuLs u d a b => [longP u 0 0x014, lsP 0 b.toNat a.toNat d.toNat]
  | .divLs u d a b => [longP u 0 0x015, lsP 0 b.toNat a.toNat d.toNat]
  | .divuLs u d a b => [longP u 0 0x016, lsP 0 b.toNat a.toNat d.toNat]
  | .remLs u d a b => [longP u 0 0x017, lsP 0 b.toNat a.toNat d.toNat]
  | .remuLs u d a b => [longP u 0 0x018, lsP 0 b.toNat a.toNat d.toNat]
  | .andLs u d a b => [longP u 0 0x019, lsP 0 b.toNat a.toNat d.toNat]
  | .orLs u d a b => [longP u 0 0x01A, lsP 0 b.toNat a.toNat d.toNat]
  | .xorLs u d a b => [longP u 0 0x01B, lsP 0 b.toNat a.toNat d.toNat]
  | .shlLs u d a b => [longP u 0 0x01C, lsP 0 b.toNat a.toNat d.toNat]
  | .shrLs u d a b => [longP u 0 0x01D, lsP 0 b.toNat a.toNat d.toNat]
  | .sarLs u d a b => [longP u 0 0x01E, lsP 0 b.toNat a.toNat d.toNat]
  | .minLs u d a b => [longP u 0 0x01F, lsP 0 b.toNat a.toNat d.toNat]
  | .maxLs u d a b => [longP u 0 0x020, lsP 0 b.toNat a.toNat d.toNat]
  | .minuLs u d a b => [longP u 0 0x021, lsP 0 b.toNat a.toNat d.toNat]
  | .maxuLs u d a b => [longP u 0 0x022, lsP 0 b.toNat a.toNat d.toNat]
  | .addLi u d a imm => [longP u 0 0x030, liP imm.toNat a.toNat d.toNat]
  | .subLi u d a imm => [longP u 0 0x031, liP imm.toNat a.toNat d.toNat]
  | .mulLi u d a imm => [longP u 0 0x032, liP imm.toNat a.toNat d.toNat]
  | .andLi u d a imm => [longP u 0 0x033, liP imm.toNat a.toNat d.toNat]
  | .orLi u d a imm => [longP u 0 0x034, liP imm.toNat a.toNat d.toNat]
  | .xorLi u d a imm => [longP u 0 0x035, liP imm.toNat a.toNat d.toNat]
  | .shlLi u d a n => [longP u 0 0x036, liP n.toNat a.toNat d.toNat]
  | .shrLi u d a n => [longP u 0 0x037, liP n.toNat a.toNat d.toNat]
  | .sarLi u d a n => [longP u 0 0x038, liP n.toNat a.toNat d.toNat]
  | .minLi u d a imm => [longP u 0 0x039, liP imm.toNat a.toNat d.toNat]
  | .maxLi u d a imm => [longP u 0 0x03A, liP imm.toNat a.toNat d.toNat]
  | .minuLi u d a imm => [longP u 0 0x03B, liP imm.toNat a.toNat d.toNat]
  | .maxuLi u d a imm => [longP u 0 0x03C, liP imm.toNat a.toNat d.toNat]
  | .moviLi u d imm => [longP u 0 0x03D, liP imm.toNat 0 d.toNat]
  | .cmp u form cond pe pd a b => [longP u form.code 0x040, lcP (0x320 + b.toNat) (0x320 + a.toNat) cond.code pe.toNat pd.toNat]
  | .cmpu u form cond pe pd a b => [longP u form.code 0x041, lcP (0x320 + b.toNat) (0x320 + a.toNat) cond.code pe.toNat pd.toNat]
  | .cmpi u form cond pe pd a imm => [longP u form.code 0x042, lcP (0x600 + imm.toNat) (0x320 + a.toNat) cond.code pe.toNat pd.toNat]
  | .cmpui u form cond pe pd a imm => [longP u form.code 0x043, lcP (0x600 + imm.toNat) (0x320 + a.toNat) cond.code pe.toNat pd.toNat]
  | .fcmp u form cond pe pd a b => [longP u form.code 0x044, lcP b.code (0x320 + a.toNat) cond.code pe.toNat pd.toNat]
  | .fadd u d a b => [longP u 0 0x050, lsP 0 b.toNat a.toNat d.toNat]
  | .fsub u d a b => [longP u 0 0x051, lsP 0 b.toNat a.toNat d.toNat]
  | .fmul u d a b => [longP u 0 0x052, lsP 0 b.toNat a.toNat d.toNat]
  | .fdiv u d a b => [longP u 0 0x053, lsP 0 b.toNat a.toNat d.toNat]
  | .fsqrt u d a => [longP u 0 0x054, lsP 0 0 a.toNat d.toNat]
  | .ffma u d a b c => [longP u 0 0x055, lsP c.toNat b.toNat a.toNat d.toNat]
  | .fmin u d a b => [longP u 0 0x056, lsP 0 b.toNat a.toNat d.toNat]
  | .fmax u d a b => [longP u 0 0x057, lsP 0 b.toNat a.toNat d.toNat]
  | .fabs u d a => [longP u 0 0x058, lsP 0 0 a.toNat d.toNat]
  | .fneg u d a => [longP u 0 0x059, lsP 0 0 a.toNat d.toNat]
  | .fcvti u d a => [longP u 0 0x05A, lsP 0 0 a.toNat d.toNat]
  | .fcvtf u d a => [longP u 0 0x05B, lsP 0 0 a.toNat d.toNat]
  | .pcomb u d a b c tt => [longP u 0 0x060, lsP (c.toNat + tt.toNat * 2 ^ 3) b.toNat a.toNat d.toNat]
  | .pcount u d a => [longP u 0 0x061, lsP 0 0 a.toNat d.toNat]
  | .pfirst u d a => [longP u 0 0x062, lsP 0 0 a.toNat d.toNat]
  | .pget u d a => [longP u 0 0x064, lsP 0 0 a.toNat d.toNat]
  | .pset u d a => [longP u 0 0x063, lsP 0 0 a.toNat d.toNat]
  | .plive u mask => [longP u 0 0x065, liP mask.toNat 0 0]
  | .feat u d imm => [longP u 0 0x080, liP imm.toNat 0 d.toNat]
  | .sysr u d r => [longP u 0 0x081, lsP r.num 0 0 d.toNat]
  | .sysw u r a => [longP u 0 0x082, lsP r.num 0 a.toNat 0]
  | .ctxsave u a => [longP u 0 0x083, lsP 0 0 a.toNat 0]
  | .ctxrestore u a => [longP u 0 0x084, lsP 0 0 a.toNat 0]
  | .vadd u ty g d a b => [longP u g.toNat (0x100 + ty.ti), lvP b.code a.code d.code]
  | .vsub u ty g d a b => [longP u g.toNat (0x108 + ty.ti), lvP b.code a.code d.code]
  | .vmul u ty g d a b => [longP u g.toNat (0x110 + ty.ti), lvP b.code a.code d.code]
  | .vmulh u ty g d a b => [longP u g.toNat (0x118 + ty.ti), lvP b.code a.code d.code]
  | .vmin u ty g d a b => [longP u g.toNat (0x120 + ty.ti), lvP b.code a.code d.code]
  | .vmax u ty g d a b => [longP u g.toNat (0x128 + ty.ti), lvP b.code a.code d.code]
  | .vfma u ty g d a b => [longP u g.toNat (0x140 + ty.ti), lvP b.code a.code d.code]
  | .vdiv u ty g d a b => [longP u g.toNat (0x148 + ty.ti), lvP b.code a.code d.code]
  | .vshl u ty g d a b => [longP u g.toNat (0x158 + ty.ti), lvP b.code a.code d.code]
  | .vshr u ty g d a b => [longP u g.toNat (0x160 + ty.ti), lvP b.code a.code d.code]
  | .vsar u ty g d a b => [longP u g.toNat (0x168 + ty.ti), lvP b.code a.code d.code]
  | .vabs u ty g d a => [longP u g.toNat (0x130 + ty.ti), lvP 0 a.code d.code]
  | .vneg u ty g d a => [longP u g.toNat (0x138 + ty.ti), lvP 0 a.code d.code]
  | .vrcp u g d a => [longP u g.toNat 0x150, lvP 0 a.code d.code]
  | .vrsqrt u g d a => [longP u g.toNat 0x151, lvP 0 a.code d.code]
  | .vsqrt u g d a => [longP u g.toNat 0x152, lvP 0 a.code d.code]
  | .vexp2 u g d a => [longP u g.toNat 0x153, lvP 0 a.code d.code]
  | .vlog2 u g d a => [longP u g.toNat 0x154, lvP 0 a.code d.code]
  | .vand u g d a b => [longP u g.toNat 0x170, lvP b.code a.code d.code]
  | .vor u g d a b => [longP u g.toNat 0x171, lvP b.code a.code d.code]
  | .vxor u g d a b => [longP u g.toNat 0x172, lvP b.code a.code d.code]
  | .vnot u g d a => [longP u g.toNat 0x173, lvP 0 a.code d.code]
  | .vmov u g d a => [longP u g.toNat 0x174, lvP 0 a.code d.code]
  | .vcmp u form ty cond pe pd a b => [longP u form.code (0x180 + ty.ti), lcP b.code a.code cond.code pe.toNat pd.toNat]
  | .vcvt u dst src d a => [longP u 0 (0x190 + dst.code), lvP (0x600 + src.code) a.code d.code]
  | .vquant u f blk d a vs => [longP u blk.toNat (0x1A0 + f.off), lvP vs.code a.code d.code]
  | .vdequant u f blk d a vs => [longP u blk.toNat (0x1A8 + f.off), lvP vs.code a.code d.code]
  | .vdot4 u f d a b => [longP u 0 (0x1B0 + f.off), lvP b.code a.code d.code]
  | .vperm u d a b => [longP u 0 0x1C0, lvP b.code a.code d.code]
  | .vbcast u d a b => [longP u 0 0x1C1, lvP b.code a.code d.code]
  | .vrot u d a b => [longP u 0 0x1C2, lvP b.code a.code d.code]
  | .vredsum u ty d a => [longP u 0 (0x1C8 + ty.ti), lvP 0 a.code d.code]
  | .vredmin u ty d a => [longP u 0 (0x1D0 + ty.ti), lvP 0 a.code d.code]
  | .vredmax u ty d a => [longP u 0 (0x1D8 + ty.ti), lvP 0 a.code d.code]
  | .vscan u ty d a => [longP u 0 (0x1E0 + ty.ti), lvP 0 a.code d.code]
  | .vcompress u d a => [longP u 0 0x1E8, lvP 0 a.code d.code]
  | .vexpand u d a => [longP u 0 0x1E9, lvP 0 a.code d.code]
  | .vget u d a => [longP u 0 0x1EA, lmP 0 a.toNat 0 d.code]
  | .vput u src a => [longP u 0 0x1EB, lmP 0 a.toNat 0 src.code]
  | .ldf u ew hre d h a => [longP u 0 (0x2C0 + ew.code), lmP (b2n hre) a.toNat h.toNat d.code]
  | .ldl u ew hre d h a => [longP u 0 (0x300 + ew.code), lmP (b2n hre) a.toNat h.toNat d.code]
  | .ldfg u ew hre d h idx => [longP u 0 (0x2C4 + ew.code), lmP (idx.code + b2n hre * 2 ^ 11) 0 h.toNat d.code]
  | .ldlg u ew hre d h idx => [longP u 0 (0x308 + ew.code), lmP (idx.code + b2n hre * 2 ^ 11) 0 h.toNat d.code]
  | .stl u ew hre src h a => [longP u 0 (0x304 + ew.code), lmP (b2n hre) a.toNat h.toNat src.code]
  | .stls u ew hre src h idx => [longP u 0 (0x30C + ew.code), lmP (idx.code + b2n hre * 2 ^ 11) 0 h.toNat src.code]
  | .lds u pd d h lim => [longP u 0 0x2D0, lmP lim.toNat pd.toNat h.toNat d.code]
  | .sts u src h lim => [longP u 0 0x2D1, lmP lim.toNat 0 h.toNat src.code]
  | .stsEos u h lim => [longP u 0 0x2D2, lmP lim.toNat 0 h.toNat 0]
  | .sptrW u d h => [longP u 0 0x2D3, lmP 0 0 h.toNat d.toNat]
  | .sptrR u d h => [longP u 0 0x2D3, lmP 1 0 h.toNat d.toNat]
  | .sptrC u d h => [longP u 0 0x2D3, lmP 2 0 h.toNat d.toNat]
  | .accAddI32 u src h a => [longP u 0 0x2E0, lmP 0 a.toNat h.toNat src.code]
  | .accAddI64 u src h a => [longP u 0 0x2E1, lmP 0 a.toNat h.toNat src.code]
  | .accMinI32 u src h a => [longP u 0 0x2E3, lmP 0 a.toNat h.toNat src.code]
  | .accMaxI32 u src h a => [longP u 0 0x2E4, lmP 0 a.toNat h.toNat src.code]
  | .accAnd u src h a => [longP u 0 0x2E5, lmP 0 a.toNat h.toNat src.code]
  | .accOr u src h a => [longP u 0 0x2E6, lmP 0 a.toNat h.toNat src.code]
  | .accXor u src h a => [longP u 0 0x2E7, lmP 0 a.toNat h.toNat src.code]
  | .accAddAf u x src h a => [longP u x.code 0x2E2, lmP 0 a.toNat h.toNat src.code]
  | .amoSwap u f d h a => [longP u 0 0x310, lmP (b2n f.uns * 2 ^ 5 + b2n f.w64 * 2 ^ 6 + f.scope.code * 2 ^ 7 + f.ord.code * 2 ^ 10) a.toNat h.toNat d.toNat]
  | .amoCas u f d h a => [longP u 0 0x311, lmP (b2n f.uns * 2 ^ 5 + b2n f.w64 * 2 ^ 6 + f.scope.code * 2 ^ 7 + f.ord.code * 2 ^ 10) a.toNat h.toNat d.toNat]
  | .amoAdd u f d h a => [longP u 0 0x312, lmP (b2n f.uns * 2 ^ 5 + b2n f.w64 * 2 ^ 6 + f.scope.code * 2 ^ 7 + f.ord.code * 2 ^ 10) a.toNat h.toNat d.toNat]
  | .amoMin u f d h a => [longP u 0 0x313, lmP (b2n f.uns * 2 ^ 5 + b2n f.w64 * 2 ^ 6 + f.scope.code * 2 ^ 7 + f.ord.code * 2 ^ 10) a.toNat h.toNat d.toNat]
  | .amoMax u f d h a => [longP u 0 0x314, lmP (b2n f.uns * 2 ^ 5 + b2n f.w64 * 2 ^ 6 + f.scope.code * 2 ^ 7 + f.ord.code * 2 ^ 10) a.toNat h.toNat d.toNat]
  | .amoAnd u f d h a => [longP u 0 0x315, lmP (b2n f.uns * 2 ^ 5 + b2n f.w64 * 2 ^ 6 + f.scope.code * 2 ^ 7 + f.ord.code * 2 ^ 10) a.toNat h.toNat d.toNat]
  | .amoOr u f d h a => [longP u 0 0x316, lmP (b2n f.uns * 2 ^ 5 + b2n f.w64 * 2 ^ 6 + f.scope.code * 2 ^ 7 + f.ord.code * 2 ^ 10) a.toNat h.toNat d.toNat]
  | .hbuild u h a => [longP u 0 0x320, lmP 0 a.toNat h.toNat 0]
  | .hview u hd hp a b => [longP u 0 0x321, lsP hp.toNat b.toNat a.toNat hd.toNat]
  | .hread u d ha k => [longP u 0 0x322, lsP (ha.toNat + k.toNat * 2 ^ 4) 0 0 d.toNat]
  | .fenceFull u sc => [longP u 0 0x330, lsP (sc.code + 0 * 2 ^ 3) 0 0 0]
  | .fenceAcq u sc => [longP u 0 0x330, lsP (sc.code + 1 * 2 ^ 3) 0 0 0]
  | .fenceRel u sc => [longP u 0 0x330, lsP (sc.code + 2 * 2 ^ 3) 0 0 0]
  | .afence u sc => [longP u 0 0x331, lsP sc.code 0 0 0]
  | .bfree u b n => [longP u 0 0x340, lmP n.toNat 0 0 (0x100 + b.toNat)]
  | .bstFull u b disp => [longP u 0 0x341, disp.toNat * 2 ^ 10 + 0x100 + b.toNat]
  | .bstEmpty u b disp => [longP u 0 0x342, disp.toNat * 2 ^ 10 + 0x100 + b.toNat]
  | .bstPoison u r disp => [longP u 0 0x343, disp.toNat * 2 ^ 10 + r.code]
  | .tokTake u k n lim => [longP u 0 0x348, lmP lim.toNat 0 k.toNat n.toNat]
  | .tokGive u k n => [longP u 0 0x349, lmP 0 0 k.toNat n.toNat]
  | .cpin u ch b h a wait post => [longP u 0 0x350, lmP (ch.toNat + queueField wait * 2 ^ 3 + queueField post * 2 ^ 7) a.toNat h.toNat (0x100 + b.toNat)]
  | .cpout u ch b h a wait post => [longP u 0 0x351, lmP (ch.toNat + queueField wait * 2 ^ 3 + queueField post * 2 ^ 7) a.toNat h.toNat (0x100 + b.toNat)]
  | .cpwait u ch a lim => [longP u 0 0x352, lmP lim.toNat a.toNat ch.toNat 0]
  | .rdwptr u d ch => [longP u 0 0x353, lmP 0 0 ch.toNat d.toNat]
  | .cqpop u d e lim => [longP u 0 0x354, lmP lim.toNat 0 e.toNat d.toNat]
  | .lease u n => [longP u 0 0x380, liP n.toNat 0 0]
  | .leaseCyc u n => [longP u 1 0x380, liP n.toNat 0 0]
  | .unlease u => [longP u 0 0x381, 0]
  | .mzero u => [longP u 0 0x382, 0]
  | .mma u x ta tb tc st sp n h a => [longP u x.code 0x383, lmP (b2n sp * 2 + b2n st * 2 ^ 2 + b2n tc * 2 ^ 3 + tb.code * 2 ^ 4 + ta.code * 2 ^ 8) n.toNat h.toNat (asrcCode a)]
  | .mdrain u f res drop wh h b => [longP u 0 0x384, lmP (b2n wh * 2 ^ 5 + b2n drop * 2 ^ 6 + b2n res * 2 ^ 7 + f.code * 2 ^ 8) 0 h.toNat (bandOptCode b)]
  | .msave u h => [longP u 0 0x385, lmP 0 0 h.toNat 0]
  | .mrestore u h => [longP u 0 0x386, lmP 0 0 h.toNat 0]
  | .saccAdd u ty h bi bv a => [longP u ty.code 0x390, lmP (0x100 + bv.toNat) a.toNat h.toNat (0x100 + bi.toNat)]
  | .saccMin u ty h bi bv a => [longP u ty.code 0x391, lmP (0x100 + bv.toNat) a.toNat h.toNat (0x100 + bi.toNat)]
  | .saccMax u ty h bi bv a => [longP u ty.code 0x392, lmP (0x100 + bv.toNat) a.toNat h.toNat (0x100 + bi.toNat)]
  | .saccAnd u ty h bi bv a => [longP u ty.code 0x393, lmP (0x100 + bv.toNat) a.toNat h.toNat (0x100 + bi.toNat)]
  | .saccOr u ty h bi bv a => [longP u ty.code 0x394, lmP (0x100 + bv.toNat) a.toNat h.toNat (0x100 + bi.toNat)]
  | .saccXor u ty h bi bv a => [longP u ty.code 0x395, lmP (0x100 + bv.toNat) a.toNat h.toNat (0x100 + bi.toNat)]
  | .cbar u lim => [longP u 0 0x3A0, lsP lim.toNat 0 0 0]
  | .stitchEnd u a => [longP u 0 0x3A1, lsP 0 0 a.toNat 0]
  | .rgnParties u h n => [longP u 0 0x3C0, lmP n.toNat 0 h.toNat 0]
  | .recastArrive u role dig conv h a c => [longP u 0 0x3C1, lmP (b2n conv * 2 ^ 8 + b2n dig * 2 ^ 9 + role.code * 2 ^ 10) a.toNat h.toNat c.toNat]
  | .recastWait u h lim => [longP u 0 0x3C2, lmP lim.toNat 0 h.toNat 0]
  | .lrecPatch u a f b => [longP u 0 0x3D0, lsP f.toNat b.toNat a.toNat 0]
  | .lrecArm u a => [longP u 0 0x3D1, lsP 0 0 a.toNat 0]
  | .lrecWait u d a lim => [longP u 0 0x3D2, lsP lim.toNat 0 a.toNat d.toNat]
  | .jobCount u d a => [longP u 0 0x3D8, lsP 0 0 a.toNat d.toNat]
  | .jobWait u a lim => [longP u 0 0x3D9, lsP lim.toNat 0 a.toNat 0]
  | .sinval u => [longP u 0 0x3E0, 0]
  | .reshard u d h => [longP u 0 0x3F0, lmP 0 0 h.toNat d.toNat]
  | .cwait u d a lim => [longP u 0 0x3F1, lsP lim.toNat 0 a.toNat d.toNat]
  | .pairSNop u v => pairP u .nop v
  | .pairSAdd u d a b => pairP u (.add d a b) .nop
  | .pairSSub u d a b => pairP u (.sub d a b) .nop
  | .pairSAnd u d a b => pairP u (.and d a b) .nop
  | .pairSOr u d a b => pairP u (.or d a b) .nop
  | .pairSXor u d a b => pairP u (.xor d a b) .nop
  | .pairSMin u d a b => pairP u (.min d a b) .nop
  | .pairSMax u d a b => pairP u (.max d a b) .nop
  | .pairSAddi u d a imm => pairP u (.addi d a imm) .nop
  | .pairSShl u d a n => pairP u (.shl d a n) .nop
  | .pairSShr u d a n => pairP u (.shr d a n) .nop
  | .pairSSar u d a n => pairP u (.sar d a n) .nop
  | .pairSMov u d a => pairP u (.mov d a) .nop
  | .pairSMovi u d imm => pairP u (.movi d imm) .nop
  | .pairVNop u => pairP u .nop .nop
  | .pairVVaddI32 u s d a b => pairP u s (.vaddI32 d a b)
  | .pairVVsubI32 u s d a b => pairP u s (.vsubI32 d a b)
  | .pairVVmulI32 u s d a b => pairP u s (.vmulI32 d a b)
  | .pairVVminI32 u s d a b => pairP u s (.vminI32 d a b)
  | .pairVVmaxI32 u s d a b => pairP u s (.vmaxI32 d a b)
  | .pairVVand u s d a b => pairP u s (.vand d a b)
  | .pairVVor u s d a b => pairP u s (.vor d a b)
  | .pairVVxor u s d a b => pairP u s (.vxor d a b)
  | .pairVVmov u s d a => pairP u s (.vmov d a)
  | .pairVVaddF32 u s d a b => pairP u s (.vaddF32 d a b)
  | .pairVVsubF32 u s d a b => pairP u s (.vsubF32 d a b)
  | .pairVVmulF32 u s d a b => pairP u s (.vmulF32 d a b)
  | .pairVVfmaF32 u s d a b => pairP u s (.vfmaF32 d a b)
  | .pairVVminF32 u s d a b => pairP u s (.vminF32 d a b)
  | .pairVVmaxF32 u s d a b => pairP u s (.vmaxF32 d a b)
  | .illegalEncoding .. | .bankReplay .. | .bandWaitExpiry .. | .cmdqWaitExpiry .. | .engineCommandStart ..
  | .copyRowDelivery .. | .engineCompletion .. | .heldEntryEnter .. | .tokTakeExpiry .. | .cpwaitExpiry ..
  | .cqpopExpiry .. | .matrixCommandStart .. | .matrixCommandComplete .. | .leaseGrant .. | .leaseCycleExpiry ..
  | .mrestoreWaitExpiry .. | .accrueEntryPerform .. | .cbarExpiry .. | .recordDispatch .. | .stitchStart ..
  | .stitchRetire .. | .stitchBudgetExpiry .. | .preemptStitch .. | .stitchResume .. | .eprioAging ..
  | .homeAccess .. | .pageMap .. | .skeinReplay .. | .pageUnmappable .. | .coreThaw .. | .lateFreeze ..
  | .lateExpiry .. | .recastFlip .. | .recastWaitExpiry .. | .ringWaitExpiry .. | .lrecWaitExpiry ..
  | .jobWaitExpiry .. | .cwaitExpiry .. | .reshardWaitExpiry .. | .messageDelivery .. | .flitRetry ..
  | .tileTransfer .. | .collectiveComplete .. | .collectiveCancel .. | .migrationRequest .. | .migrationFlip ..
  | .hostKick .. | .seqPoll .. | .stalepktTimeout .. | .hsqerrClear .. | .tlbInvalidateAll .. | .tlbInvalidatePage ..
  | .hostHdmRead .. | .hostHdmWrite .. | .powerOnReset .. | .linkTrain .. | .transferPart .. | .transferEnd ..
  | .transferAbort .. | .statusRead .. | .imageVerify .. | .getAttestation .. | .thermalReset .. | .powerThrottle ..
  | .fwRegisterWrite .. | .portLinkUpChange .. | .firmwareWritesState .. | .tenantSamplerRemoval ..
  | .diePowerWithinCap .. => []

/-- The parcels of a unit: its prefixes, then its instruction. -/
def encode (i : Instr) : List Nat :=
  match i.hdr with
  | some u => u.pfx.map Pfx.encode ++ encodeCore i
  | none => []

/-! ### The decoder -/

/-- The landing bit and the guard of a long or pair first parcel (R60, R65). -/
def hdrOf (pfx : List Pfx) (p : Nat) : Hdr :=
  ⟨pfx, bit p 2, ⟨BitVec.ofNat 3 (bits p 3 3), BitVec.ofNat 3 (bits p 6 3), BitVec.ofNat 3 (bits p 9 3),
    BitVec.ofNat 8 (bits p 12 8)⟩⟩

/-- The instruction a short parcel names, before its limits are checked (R59, R84). -/
def shortCand (pfx : List Pfx) (w : Nat) : Option Instr :=
  let u : Hdr := ⟨pfx, bit w 2, Guard.none⟩
  let maj := bits w 3 5
  let fn := bits w 23 9
  let sb := bits w 18 5
  let sa := bits w 13 5
  let sd := bits w 8 5
  let imm := bits w 18 14
  if maj = 0x01 then some (.nop u)
  else if maj = 0x02 ∧ fn = 0x000 then some (.addSr u (.ofNat 5 sd) (.ofNat 5 sa) (.ofNat 5 sb))
  else if maj = 0x02 ∧ fn = 0x001 then some (.subSr u (.ofNat 5 sd) (.ofNat 5 sa) (.ofNat 5 sb))
  else if maj = 0x02 ∧ fn = 0x002 then some (.mulSr u (.ofNat 5 sd) (.ofNat 5 sa) (.ofNat 5 sb))
  else if maj = 0x02 ∧ fn = 0x003 then some (.mulhSr u (.ofNat 5 sd) (.ofNat 5 sa) (.ofNat 5 sb))
  else if maj = 0x02 ∧ fn = 0x004 then some (.mulhuSr u (.ofNat 5 sd) (.ofNat 5 sa) (.ofNat 5 sb))
  else if maj = 0x02 ∧ fn = 0x005 then some (.divSr u (.ofNat 5 sd) (.ofNat 5 sa) (.ofNat 5 sb))
  else if maj = 0x02 ∧ fn = 0x006 then some (.divuSr u (.ofNat 5 sd) (.ofNat 5 sa) (.ofNat 5 sb))
  else if maj = 0x02 ∧ fn = 0x007 then some (.remSr u (.ofNat 5 sd) (.ofNat 5 sa) (.ofNat 5 sb))
  else if maj = 0x02 ∧ fn = 0x008 then some (.remuSr u (.ofNat 5 sd) (.ofNat 5 sa) (.ofNat 5 sb))
  else if maj = 0x02 ∧ fn = 0x009 then some (.andSr u (.ofNat 5 sd) (.ofNat 5 sa) (.ofNat 5 sb))
  else if maj = 0x02 ∧ fn = 0x00A then some (.orSr u (.ofNat 5 sd) (.ofNat 5 sa) (.ofNat 5 sb))
  else if maj = 0x02 ∧ fn = 0x00B then some (.xorSr u (.ofNat 5 sd) (.ofNat 5 sa) (.ofNat 5 sb))
  else if maj = 0x02 ∧ fn = 0x00C then some (.shlSr u (.ofNat 5 sd) (.ofNat 5 sa) (.ofNat 5 sb))
  else if maj = 0x02 ∧ fn = 0x00D then some (.shrSr u (.ofNat 5 sd) (.ofNat 5 sa) (.ofNat 5 sb))
  else if maj = 0x02 ∧ fn = 0x00E then some (.sarSr u (.ofNat 5 sd) (.ofNat 5 sa) (.ofNat 5 sb))
  else if maj = 0x02 ∧ fn = 0x00F then some (.minSr u (.ofNat 5 sd) (.ofNat 5 sa) (.ofNat 5 sb))
  else if maj = 0x02 ∧ fn = 0x010 then some (.maxSr u (.ofNat 5 sd) (.ofNat 5 sa) (.ofNat 5 sb))
  else if maj = 0x02 ∧ fn = 0x011 then some (.minuSr u (.ofNat 5 sd) (.ofNat 5 sa) (.ofNat 5 sb))
  else if maj = 0x02 ∧ fn = 0x012 then some (.maxuSr u (.ofNat 5 sd) (.ofNat 5 sa) (.ofNat 5 sb))
  else if maj = 0x03 then some (.addSi u (.ofNat 5 sd) (.ofNat 5 sa) (.ofNat 14 imm))
  else if maj = 0x04 then some (.subSi u (.ofNat 5 sd) (.ofNat 5 sa) (.ofNat 14 imm))
  else if maj = 0x05 then some (.andSi u (.ofNat 5 sd) (.ofNat 5 sa) (.ofNat 14 imm))
  else if maj = 0x06 then some (.orSi u (.ofNat 5 sd) (.ofNat 5 sa) (.ofNat 14 imm))
  else if maj = 0x07 then some (.xorSi u (.ofNat 5 sd) (.ofNat 5 sa) (.ofNat 14 imm))
  else if maj = 0x08 then some (.shlSi u (.ofNat 5 sd) (.ofNat 5 sa) (.ofNat 6 imm))
  else if maj = 0x09 then some (.shrSi u (.ofNat 5 sd) (.ofNat 5 sa) (.ofNat 6 imm))
  else if maj = 0x0A then some (.sarSi u (.ofNat 5 sd) (.ofNat 5 sa) (.ofNat 6 imm))
  else if maj = 0x0B then some (.moviSi u (.ofNat 5 sd) (.ofNat 14 imm))
  else if maj = 0x0C then some (.brSj u (.ofNat 24 (bits w 8 24)))
  else none

/-- OPC 0x000 to 0x0FF (R87), before the limits are checked. -/
def scalarCand (u : Hdr) (x2 opc q : Nat) : Option Instr :=
  let aux := bits q 15 17
  let sb := bits q 10 5
  let sa := bits q 5 5
  let sd := bits q 0 5
  let imm := bits q 10 22
  let fb := bits q 21 11
  let fa := BitVec.ofNat 5 (bits q 10 11 - 0x320)
  let pe := BitVec.ofNat 3 (bits q 3 3)
  let pd := BitVec.ofNat 3 (bits q 0 3)
  let cmpS := fun (k : CForm → Cond → BitVec 3 → BitVec 3 → BitVec 5 → BitVec 5 → Instr) =>
    (CForm.ofCode x2).bind fun f => (Cond.ofCode (bits q 6 4)).map fun c => k f c pe pd fa (.ofNat 5 (fb - 0x320))
  let cmpI := fun (k : CForm → Cond → BitVec 3 → BitVec 3 → BitVec 5 → BitVec 9 → Instr) =>
    (CForm.ofCode x2).bind fun f => (Cond.ofCode (bits q 6 4)).map fun c => k f c pe pd fa (.ofNat 9 (fb - 0x600))
  let fcmpC := fun (k : CForm → Cond → BitVec 3 → BitVec 3 → BitVec 5 → SImm → Instr) =>
    (CForm.ofCode x2).bind fun f => (Cond.ofCode (bits q 6 4)).bind fun c => (SImm.ofCode fb).map fun b =>
      k f c pe pd fa b
  if opc = 0x001 then some (.brLb u (.ofNat 32 q))
  else if opc = 0x002 then some (.loop u (.ofNat 5 sa) (.ofNat 22 imm))
  else if opc = 0x003 then some (.call u (.ofNat 22 imm) (.ofNat 6 (bits q 4 6)))
  else if opc = 0x004 then some (.callr u (.ofNat 5 sa) (.ofNat 6 aux))
  else if opc = 0x005 then some (.jr u (.ofNat 5 sa))
  else if opc = 0x006 then some (.ret u)
  else if opc = 0x007 then some (.trap u (.ofNat 12 imm))
  else if opc = 0x008 then some (.eret u)
  else if opc = 0x010 then some (.addLs u (.ofNat 5 sd) (.ofNat 5 sa) (.ofNat 5 sb))
  else if opc = 0x011 then some (.subLs u (.ofNat 5 sd) (.ofNat 5 sa) (.ofNat 5 sb))
  else if opc = 0x012 then some (.mulLs u (.ofNat 5 sd) (.ofNat 5 sa) (.ofNat 5 sb))
  else if opc = 0x013 then some (.mulhLs u (.ofNat 5 sd) (.ofNat 5 sa) (.ofNat 5 sb))
  else if opc = 0x014 then some (.mulhuLs u (.ofNat 5 sd) (.ofNat 5 sa) (.ofNat 5 sb))
  else if opc = 0x015 then some (.divLs u (.ofNat 5 sd) (.ofNat 5 sa) (.ofNat 5 sb))
  else if opc = 0x016 then some (.divuLs u (.ofNat 5 sd) (.ofNat 5 sa) (.ofNat 5 sb))
  else if opc = 0x017 then some (.remLs u (.ofNat 5 sd) (.ofNat 5 sa) (.ofNat 5 sb))
  else if opc = 0x018 then some (.remuLs u (.ofNat 5 sd) (.ofNat 5 sa) (.ofNat 5 sb))
  else if opc = 0x019 then some (.andLs u (.ofNat 5 sd) (.ofNat 5 sa) (.ofNat 5 sb))
  else if opc = 0x01A then some (.orLs u (.ofNat 5 sd) (.ofNat 5 sa) (.ofNat 5 sb))
  else if opc = 0x01B then some (.xorLs u (.ofNat 5 sd) (.ofNat 5 sa) (.ofNat 5 sb))
  else if opc = 0x01C then some (.shlLs u (.ofNat 5 sd) (.ofNat 5 sa) (.ofNat 5 sb))
  else if opc = 0x01D then some (.shrLs u (.ofNat 5 sd) (.ofNat 5 sa) (.ofNat 5 sb))
  else if opc = 0x01E then some (.sarLs u (.ofNat 5 sd) (.ofNat 5 sa) (.ofNat 5 sb))
  else if opc = 0x01F then some (.minLs u (.ofNat 5 sd) (.ofNat 5 sa) (.ofNat 5 sb))
  else if opc = 0x020 then some (.maxLs u (.ofNat 5 sd) (.ofNat 5 sa) (.ofNat 5 sb))
  else if opc = 0x021 then some (.minuLs u (.ofNat 5 sd) (.ofNat 5 sa) (.ofNat 5 sb))
  else if opc = 0x022 then some (.maxuLs u (.ofNat 5 sd) (.ofNat 5 sa) (.ofNat 5 sb))
  else if opc = 0x030 then some (.addLi u (.ofNat 5 sd) (.ofNat 5 sa) (.ofNat 22 imm))
  else if opc = 0x031 then some (.subLi u (.ofNat 5 sd) (.ofNat 5 sa) (.ofNat 22 imm))
  else if opc = 0x032 then some (.mulLi u (.ofNat 5 sd) (.ofNat 5 sa) (.ofNat 22 imm))
  else if opc = 0x033 then some (.andLi u (.ofNat 5 sd) (.ofNat 5 sa) (.ofNat 22 imm))
  else if opc = 0x034 then some (.orLi u (.ofNat 5 sd) (.ofNat 5 sa) (.ofNat 22 imm))
  else if opc = 0x035 then some (.xorLi u (.ofNat 5 sd) (.ofNat 5 sa) (.ofNat 22 imm))
  else if opc = 0x036 then some (.shlLi u (.ofNat 5 sd) (.ofNat 5 sa) (.ofNat 6 imm))
  else if opc = 0x037 then some (.shrLi u (.ofNat 5 sd) (.ofNat 5 sa) (.ofNat 6 imm))
  else if opc = 0x038 then some (.sarLi u (.ofNat 5 sd) (.ofNat 5 sa) (.ofNat 6 imm))
  else if opc = 0x039 then some (.minLi u (.ofNat 5 sd) (.ofNat 5 sa) (.ofNat 22 imm))
  else if opc = 0x03A then some (.maxLi u (.ofNat 5 sd) (.ofNat 5 sa) (.ofNat 22 imm))
  else if opc = 0x03B then some (.minuLi u (.ofNat 5 sd) (.ofNat 5 sa) (.ofNat 22 imm))
  else if opc = 0x03C then some (.maxuLi u (.ofNat 5 sd) (.ofNat 5 sa) (.ofNat 22 imm))
  else if opc = 0x03D then some (.moviLi u (.ofNat 5 sd) (.ofNat 22 imm))
  else if opc = 0x040 then cmpS (.cmp u)
  else if opc = 0x041 then cmpS (.cmpu u)
  else if opc = 0x042 then cmpI (.cmpi u)
  else if opc = 0x043 then cmpI (.cmpui u)
  else if opc = 0x044 then fcmpC (.fcmp u)
  else if opc = 0x050 then some (.fadd u (.ofNat 5 sd) (.ofNat 5 sa) (.ofNat 5 sb))
  else if opc = 0x051 then some (.fsub u (.ofNat 5 sd) (.ofNat 5 sa) (.ofNat 5 sb))
  else if opc = 0x052 then some (.fmul u (.ofNat 5 sd) (.ofNat 5 sa) (.ofNat 5 sb))
  else if opc = 0x053 then some (.fdiv u (.ofNat 5 sd) (.ofNat 5 sa) (.ofNat 5 sb))
  else if opc = 0x054 then some (.fsqrt u (.ofNat 5 sd) (.ofNat 5 sa))
  else if opc = 0x055 then some (.ffma u (.ofNat 5 sd) (.ofNat 5 sa) (.ofNat 5 sb) (.ofNat 5 aux))
  else if opc = 0x056 then some (.fmin u (.ofNat 5 sd) (.ofNat 5 sa) (.ofNat 5 sb))
  else if opc = 0x057 then some (.fmax u (.ofNat 5 sd) (.ofNat 5 sa) (.ofNat 5 sb))
  else if opc = 0x058 then some (.fabs u (.ofNat 5 sd) (.ofNat 5 sa))
  else if opc = 0x059 then some (.fneg u (.ofNat 5 sd) (.ofNat 5 sa))
  else if opc = 0x05A then some (.fcvti u (.ofNat 5 sd) (.ofNat 5 sa))
  else if opc = 0x05B then some (.fcvtf u (.ofNat 5 sd) (.ofNat 5 sa))
  else if opc = 0x060 then some (.pcomb u (.ofNat 3 sd) (.ofNat 3 sa) (.ofNat 3 sb) (.ofNat 3 aux) (.ofNat 8 (aux / 2 ^ 3)))
  else if opc = 0x061 then some (.pcount u (.ofNat 5 sd) (.ofNat 3 sa))
  else if opc = 0x062 then some (.pfirst u (.ofNat 5 sd) (.ofNat 3 sa))
  else if opc = 0x064 then some (.pget u (.ofNat 5 sd) (.ofNat 3 sa))
  else if opc = 0x063 then some (.pset u (.ofNat 3 sd) (.ofNat 5 sa))
  else if opc = 0x065 then some (.plive u (.ofNat 8 imm))
  else if opc = 0x080 then some (.feat u (.ofNat 5 sd) (.ofNat 22 imm))
  else if opc = 0x081 then (SysReg.ofNum aux).map (.sysr u (.ofNat 5 sd) ·)
  else if opc = 0x082 then (SysReg.ofNum aux).map (.sysw u · (.ofNat 5 sa))
  else if opc = 0x083 then some (.ctxsave u (.ofNat 5 sa))
  else if opc = 0x084 then some (.ctxrestore u (.ofNat 5 sa))
  else none

/-- OPC 0x100 to 0x2BF (R88, R89), before the limits are checked. -/
def vectorCand (u : Hdr) (x2 opc q : Nat) : Option Instr :=
  let fb := bits q 21 11
  let fa := bits q 10 11
  let lv2 := fun (k : Row → VSrc → Option Instr) => (Row.ofCode (bits q 0 10)).bind fun d => (VSrc.ofCode fa).bind fun a => k d a
  let lv3 := fun (k : Row → VSrc → VSrc → Option Instr) => lv2 fun d a => (VSrc.ofCode fb).bind fun b => k d a b
  let vcmpC := fun (k : CForm → VTy → Cond → BitVec 3 → BitVec 3 → VSrc → VSrc → Instr) =>
    (CForm.ofCode x2).bind fun f => (VTy.ofTi (opc % 8)).bind fun ty => (Cond.ofCode (bits q 6 4)).bind fun c =>
      (VSrc.ofCode fa).bind fun a => (VSrc.ofCode fb).map fun b =>
        k f ty c (.ofNat 3 (bits q 3 3)) (.ofNat 3 (bits q 0 3)) a b
  if opc / 8 = 0x20 then lv3 fun d a b => (VTy.ofTi (opc % 8)).map (.vadd u · (.ofNat 2 x2) d a b)
  else if opc / 8 = 0x21 then lv3 fun d a b => (VTy.ofTi (opc % 8)).map (.vsub u · (.ofNat 2 x2) d a b)
  else if opc / 8 = 0x22 then lv3 fun d a b => (VTy.ofTi (opc % 8)).map (.vmul u · (.ofNat 2 x2) d a b)
  else if opc / 8 = 0x23 then lv3 fun d a b => (VTy.ofTi (opc % 8)).map (.vmulh u · (.ofNat 2 x2) d a b)
  else if opc / 8 = 0x24 then lv3 fun d a b => (VTy.ofTi (opc % 8)).map (.vmin u · (.ofNat 2 x2) d a b)
  else if opc / 8 = 0x25 then lv3 fun d a b => (VTy.ofTi (opc % 8)).map (.vmax u · (.ofNat 2 x2) d a b)
  else if opc / 8 = 0x28 then lv3 fun d a b => (VTy.ofTi (opc % 8)).map (.vfma u · (.ofNat 2 x2) d a b)
  else if opc / 8 = 0x29 then lv3 fun d a b => (VTy.ofTi (opc % 8)).map (.vdiv u · (.ofNat 2 x2) d a b)
  else if opc / 8 = 0x2B then lv3 fun d a b => (VTy.ofTi (opc % 8)).map (.vshl u · (.ofNat 2 x2) d a b)
  else if opc / 8 = 0x2C then lv3 fun d a b => (VTy.ofTi (opc % 8)).map (.vshr u · (.ofNat 2 x2) d a b)
  else if opc / 8 = 0x2D then lv3 fun d a b => (VTy.ofTi (opc % 8)).map (.vsar u · (.ofNat 2 x2) d a b)
  else if opc / 8 = 0x26 then lv2 fun d a => (VTy.ofTi (opc % 8)).map (.vabs u · (.ofNat 2 x2) d a)
  else if opc / 8 = 0x27 then lv2 fun d a => (VTy.ofTi (opc % 8)).map (.vneg u · (.ofNat 2 x2) d a)
  else if opc = 0x150 then lv2 fun d a => some (.vrcp u (.ofNat 2 x2) d a)
  else if opc = 0x151 then lv2 fun d a => some (.vrsqrt u (.ofNat 2 x2) d a)
  else if opc = 0x152 then lv2 fun d a => some (.vsqrt u (.ofNat 2 x2) d a)
  else if opc = 0x153 then lv2 fun d a => some (.vexp2 u (.ofNat 2 x2) d a)
  else if opc = 0x154 then lv2 fun d a => some (.vlog2 u (.ofNat 2 x2) d a)
  else if opc = 0x170 then lv3 fun d a b => some (.vand u (.ofNat 2 x2) d a b)
  else if opc = 0x171 then lv3 fun d a b => some (.vor u (.ofNat 2 x2) d a b)
  else if opc = 0x172 then lv3 fun d a b => some (.vxor u (.ofNat 2 x2) d a b)
  else if opc = 0x173 then lv2 fun d a => some (.vnot u (.ofNat 2 x2) d a)
  else if opc = 0x174 then lv2 fun d a => some (.vmov u (.ofNat 2 x2) d a)
  else if opc / 8 = 0x30 then vcmpC (.vcmp u)
  else if 0x190 ≤ opc ∧ opc < 0x1A0 then lv2 fun d a => (Fmt.ofCode (opc - 0x190)).bind fun dst => (Fmt.ofCode (fb - 0x600)).map (.vcvt u dst · d a)
  else if opc / 8 = 0x34 then lv2 fun d a => (MxFmt.ofOff (opc % 8)).bind fun f => (Row.ofCode fb).map (.vquant u f (.ofNat 2 x2) d a ·)
  else if opc / 8 = 0x35 then lv3 fun d a b => (MxFmt.ofOff (opc % 8)).map (.vdequant u · (.ofNat 2 x2) d a b)
  else if opc / 8 = 0x36 then lv3 fun d a b => (DotFmt.ofOff (opc % 8)).map (.vdot4 u · d a b)
  else if opc = 0x1C0 then lv3 fun d a b => some (.vperm u d a b)
  else if opc = 0x1C1 then lv2 fun d a => (SImm.ofCode fb).map (.vbcast u d a ·)
  else if opc = 0x1C2 then lv2 fun d a => (SImm.ofCode fb).map (.vrot u d a ·)
  else if opc / 8 = 0x39 then lv2 fun d a => (VTy.ofTi (opc % 8)).map (.vredsum u · d a)
  else if opc / 8 = 0x3A then lv2 fun d a => (VTy.ofTi (opc % 8)).map (.vredmin u · d a)
  else if opc / 8 = 0x3B then lv2 fun d a => (VTy.ofTi (opc % 8)).map (.vredmax u · d a)
  else if opc / 8 = 0x3C then lv2 fun d a => (VTy.ofTi (opc % 8)).map (.vscan u · d a)
  else if opc = 0x1E8 then lv2 fun d a => some (.vcompress u d a)
  else if opc = 0x1E9 then lv2 fun d a => some (.vexpand u d a)
  else if opc = 0x1EA then (Row.ofCode (bits q 0 11)).map (.vget u · (.ofNat 5 (bits q 15 5)))
  else if opc = 0x1EB then (RowSrc.ofCode (bits q 0 11)).map (.vput u · (.ofNat 5 (bits q 15 5)))
  else none

/-- OPC 0x2C0 to 0x33F (R90, R91), before the limits are checked. -/
def memoryCand (u : Hdr) (x2 opc q : Nat) : Option Instr :=
  let aux := bits q 20 12
  let sa := bits q 15 5
  let h := bits q 11 4
  let dd := bits q 0 11
  let rowD := fun (k : Row → Option Instr) => (Row.ofCode dd).bind k
  let srcD := fun (k : RowSrc → Option Instr) => (RowSrc.ofCode dd).bind k
  let amoF := fun (k : AmoF → Instr) => (Ord4.ofCode (bits aux 10 2)).bind fun o => (Scope.ofCode (bits aux 7 3)).map fun s =>
    k ⟨o, s, bit aux 6, bit aux 5⟩
  if opc / 4 = 0xB0 then rowD fun d => (EW.ofCode (opc % 4)).map (.ldf u · (bit aux 0) d (.ofNat 4 h) (.ofNat 5 sa))
  else if opc / 4 = 0xC0 then rowD fun d => (EW.ofCode (opc % 4)).map (.ldl u · (bit aux 0) d (.ofNat 4 h) (.ofNat 5 sa))
  else if opc / 4 = 0xB1 then rowD fun d => (EW.ofCode (opc % 4)).bind fun ew => (Row.ofCode (bits aux 0 11)).map (.ldfg u ew (bit aux 11) d (.ofNat 4 h) ·)
  else if opc / 4 = 0xC2 then rowD fun d => (EW.ofCode (opc % 4)).bind fun ew => (Row.ofCode (bits aux 0 11)).map (.ldlg u ew (bit aux 11) d (.ofNat 4 h) ·)
  else if opc / 4 = 0xC1 then srcD fun d => (EW.ofCode (opc % 4)).map (.stl u · (bit aux 0) d (.ofNat 4 h) (.ofNat 5 sa))
  else if opc / 4 = 0xC3 then srcD fun d => (EW.ofCode (opc % 4)).bind fun ew => (Row.ofCode (bits aux 0 11)).map (.stls u ew (bit aux 11) d (.ofNat 4 h) ·)
  else if opc = 0x2D0 then rowD fun d => some (.lds u (.ofNat 3 sa) d (.ofNat 4 h) (.ofNat 12 aux))
  else if opc = 0x2D1 then srcD fun d => some (.sts u d (.ofNat 4 h) (.ofNat 12 aux))
  else if opc = 0x2D2 then some (.stsEos u (.ofNat 4 h) (.ofNat 12 aux))
  else if opc = 0x2D3 ∧ aux = 0 then some (.sptrW u (.ofNat 5 dd) (.ofNat 4 h))
  else if opc = 0x2D3 ∧ aux = 1 then some (.sptrR u (.ofNat 5 dd) (.ofNat 4 h))
  else if opc = 0x2D3 ∧ aux = 2 then some (.sptrC u (.ofNat 5 dd) (.ofNat 4 h))
  else if opc = 0x2E0 then srcD fun d => some (.accAddI32 u d (.ofNat 4 h) (.ofNat 5 sa))
  else if opc = 0x2E1 then srcD fun d => some (.accAddI64 u d (.ofNat 4 h) (.ofNat 5 sa))
  else if opc = 0x2E3 then srcD fun d => some (.accMinI32 u d (.ofNat 4 h) (.ofNat 5 sa))
  else if opc = 0x2E4 then srcD fun d => some (.accMaxI32 u d (.ofNat 4 h) (.ofNat 5 sa))
  else if opc = 0x2E5 then srcD fun d => some (.accAnd u d (.ofNat 4 h) (.ofNat 5 sa))
  else if opc = 0x2E6 then srcD fun d => some (.accOr u d (.ofNat 4 h) (.ofNat 5 sa))
  else if opc = 0x2E7 then srcD fun d => some (.accXor u d (.ofNat 4 h) (.ofNat 5 sa))
  else if opc = 0x2E2 then srcD fun d => (AfSrc.ofCode x2).map (.accAddAf u · d (.ofNat 4 h) (.ofNat 5 sa))
  else if opc = 0x310 then amoF fun f => .amoSwap u f (.ofNat 5 dd) (.ofNat 4 h) (.ofNat 5 sa)
  else if opc = 0x311 then amoF fun f => .amoCas u f (.ofNat 5 dd) (.ofNat 4 h) (.ofNat 5 sa)
  else if opc = 0x312 then amoF fun f => .amoAdd u f (.ofNat 5 dd) (.ofNat 4 h) (.ofNat 5 sa)
  else if opc = 0x313 then amoF fun f => .amoMin u f (.ofNat 5 dd) (.ofNat 4 h) (.ofNat 5 sa)
  else if opc = 0x314 then amoF fun f => .amoMax u f (.ofNat 5 dd) (.ofNat 4 h) (.ofNat 5 sa)
  else if opc = 0x315 then amoF fun f => .amoAnd u f (.ofNat 5 dd) (.ofNat 4 h) (.ofNat 5 sa)
  else if opc = 0x316 then amoF fun f => .amoOr u f (.ofNat 5 dd) (.ofNat 4 h) (.ofNat 5 sa)
  else if opc = 0x320 then some (.hbuild u (.ofNat 4 h) (.ofNat 5 sa))
  else if opc = 0x321 then some (.hview u (.ofNat 4 (bits q 0 5)) (.ofNat 4 (bits q 15 17)) (.ofNat 5 (bits q 5 5)) (.ofNat 5 (bits q 10 5)))
  else if opc = 0x322 then some (.hread u (.ofNat 5 (bits q 0 5)) (.ofNat 4 (bits q 15 4)) (.ofNat 2 (bits q 19 2)))
  else if opc = 0x330 ∧ bits q 18 2 = 0 then (Scope.ofCode (bits q 15 3)).map (.fenceFull u ·)
  else if opc = 0x330 ∧ bits q 18 2 = 1 then (Scope.ofCode (bits q 15 3)).map (.fenceAcq u ·)
  else if opc = 0x330 ∧ bits q 18 2 = 2 then (Scope.ofCode (bits q 15 3)).map (.fenceRel u ·)
  else if opc = 0x331 then (Scope.ofCode (bits q 15 3)).map (.afence u ·)
  else none

/-- OPC 0x340 to 0x3BF (R92, R93), before the limits are checked. -/
def engineCand (u : Hdr) (x2 opc q : Nat) : Option Instr :=
  let aux := bits q 20 12
  let sa := bits q 15 5
  let h := bits q 11 4
  let dd := bits q 0 11
  let bandD := fun (k : BitVec 9 → Option Instr) => (bandOf dd).bind k
  if opc = 0x340 then bandD fun b => some (.bfree u b (.ofNat 12 aux))
  else if opc = 0x341 then (bandOf (bits q 0 10)).map (.bstFull u · (.ofNat 22 (bits q 10 22)))
  else if opc = 0x342 then (bandOf (bits q 0 10)).map (.bstEmpty u · (.ofNat 22 (bits q 10 22)))
  else if opc = 0x343 then (Row.ofCode (bits q 0 10)).map (.bstPoison u · (.ofNat 22 (bits q 10 22)))
  else if opc = 0x348 then some (.tokTake u (.ofNat 3 h) (.ofNat 6 dd) (.ofNat 12 aux))
  else if opc = 0x349 then some (.tokGive u (.ofNat 3 h) (.ofNat 6 dd))
  else if opc = 0x350 then bandD fun b => some (.cpin u (.ofNat 2 (bits aux 0 3)) b (.ofNat 4 h) (.ofNat 5 sa) (queueOf (bits aux 3 4)) (queueOf (bits aux 7 4)))
  else if opc = 0x351 then bandD fun b => some (.cpout u (.ofNat 2 (bits aux 0 3)) b (.ofNat 4 h) (.ofNat 5 sa) (queueOf (bits aux 3 4)) (queueOf (bits aux 7 4)))
  else if opc = 0x352 then some (.cpwait u (.ofNat 2 h) (.ofNat 5 sa) (.ofNat 12 aux))
  else if opc = 0x353 then some (.rdwptr u (.ofNat 5 dd) (.ofNat 2 h))
  else if opc = 0x354 then some (.cqpop u (.ofNat 5 dd) (.ofNat 2 h) (.ofNat 12 aux))
  else if opc = 0x380 ∧ x2 = 0 then some (.lease u (.ofNat 22 (bits q 10 22)))
  else if opc = 0x380 ∧ x2 = 1 then some (.leaseCyc u (.ofNat 22 (bits q 10 22)))
  else if opc = 0x381 then some (.unlease u)
  else if opc = 0x382 then some (.mzero u)
  else if opc = 0x383 then (MScale.ofCode x2).bind fun x => (MTy.ofCode (bits aux 8 4)).bind fun ta => (MTy.ofCode (bits aux 4 4)).bind fun tb => (asrcOf dd).map (.mma u x ta tb (bit aux 3) (bit aux 2) (bit aux 1) (.ofNat 5 sa) (.ofNat 4 h) ·)
  else if opc = 0x384 then (OutFmt.ofCode (bits aux 8 4)).bind fun f => (bandOptOf dd).map (.mdrain u f (bit aux 7) (bit aux 6) (bit aux 5) (.ofNat 4 h) ·)
  else if opc = 0x385 then some (.msave u (.ofNat 4 h))
  else if opc = 0x386 then some (.mrestore u (.ofNat 4 h))
  else if opc = 0x390 then bandD fun bi => (SaccTy.ofCode x2).bind fun ty => (bandOf (bits aux 0 11)).map (.saccAdd u ty (.ofNat 4 h) bi · (.ofNat 5 sa))
  else if opc = 0x391 then bandD fun bi => (SaccTy.ofCode x2).bind fun ty => (bandOf (bits aux 0 11)).map (.saccMin u ty (.ofNat 4 h) bi · (.ofNat 5 sa))
  else if opc = 0x392 then bandD fun bi => (SaccTy.ofCode x2).bind fun ty => (bandOf (bits aux 0 11)).map (.saccMax u ty (.ofNat 4 h) bi · (.ofNat 5 sa))
  else if opc = 0x393 then bandD fun bi => (SaccTy.ofCode x2).bind fun ty => (bandOf (bits aux 0 11)).map (.saccAnd u ty (.ofNat 4 h) bi · (.ofNat 5 sa))
  else if opc = 0x394 then bandD fun bi => (SaccTy.ofCode x2).bind fun ty => (bandOf (bits aux 0 11)).map (.saccOr u ty (.ofNat 4 h) bi · (.ofNat 5 sa))
  else if opc = 0x395 then bandD fun bi => (SaccTy.ofCode x2).bind fun ty => (bandOf (bits aux 0 11)).map (.saccXor u ty (.ofNat 4 h) bi · (.ofNat 5 sa))
  else if opc = 0x3A0 then some (.cbar u (.ofNat 12 (bits q 15 12)))
  else if opc = 0x3A1 then some (.stitchEnd u (.ofNat 5 (bits q 5 5)))
  else none

/-- OPC 0x3C0 to 0x3FF (R94), before the limits are checked. -/
def taskCand (u : Hdr) (opc q : Nat) : Option Instr :=
  let aux := bits q 20 12
  let sa := bits q 15 5
  let h := bits q 11 4
  let dd := bits q 0 11
  if opc = 0x3C0 then some (.rgnParties u (.ofNat 4 h) (.ofNat 12 aux))
  else if opc = 0x3C1 then (Space.ofCode (bits aux 10 2)).map (.recastArrive u · (bit aux 9) (bit aux 8) (.ofNat 4 h) (.ofNat 5 sa) (.ofNat 5 dd))
  else if opc = 0x3C2 then some (.recastWait u (.ofNat 4 h) (.ofNat 12 aux))
  else if opc = 0x3D0 then some (.lrecPatch u (.ofNat 5 (bits q 5 5)) (.ofNat 5 (bits q 15 5)) (.ofNat 5 (bits q 10 5)))
  else if opc = 0x3D1 then some (.lrecArm u (.ofNat 5 (bits q 5 5)))
  else if opc = 0x3D2 then some (.lrecWait u (.ofNat 5 (bits q 0 5)) (.ofNat 5 (bits q 5 5)) (.ofNat 12 (bits q 15 12)))
  else if opc = 0x3D8 then some (.jobCount u (.ofNat 5 (bits q 0 5)) (.ofNat 5 (bits q 5 5)))
  else if opc = 0x3D9 then some (.jobWait u (.ofNat 5 (bits q 5 5)) (.ofNat 12 (bits q 15 12)))
  else if opc = 0x3E0 then some (.sinval u)
  else if opc = 0x3F0 then some (.reshard u (.ofNat 5 dd) (.ofNat 4 h))
  else if opc = 0x3F1 then some (.cwait u (.ofNat 5 (bits q 0 5)) (.ofNat 5 (bits q 5 5)) (.ofNat 12 (bits q 15 12)))
  else none

/-- The long instruction two parcels name, before its limits are checked (R60, R61). -/
def longCand (pfx : List Pfx) (p q : Nat) : Option Instr :=
  let u := hdrOf pfx p
  let x2 := bits p 30 2
  let opc := bits p 20 10
  if opc < 0x100 then scalarCand u x2 opc q
  else if opc < 0x2C0 then vectorCand u x2 opc q
  else if opc < 0x340 then memoryCand u x2 opc q
  else if opc < 0x3C0 then engineCand u x2 opc q
  else taskCand u opc q

/-- The scalar half that SOP, SD, SA and SB name (R95). -/
def pairSOf (op d a b : Nat) : Option PairS :=
  let x := BitVec.ofNat 5 d
  let y := BitVec.ofNat 5 a
  let z := BitVec.ofNat 5 b
  match op with
  | 0x00 => some .nop
  | 0x01 => some (.add x y z)
  | 0x02 => some (.sub x y z)
  | 0x03 => some (.and x y z)
  | 0x04 => some (.or x y z)
  | 0x05 => some (.xor x y z)
  | 0x06 => some (.min x y z)
  | 0x07 => some (.max x y z)
  | 0x08 => some (.addi x y z)
  | 0x09 => some (.shl x y z)
  | 0x0A => some (.shr x y z)
  | 0x0B => some (.sar x y z)
  | 0x0C => some (.mov x y)
  | 0x0D => some (.movi x z)
  | _ => none

/-- The vector half that VOP, VD, VA and VB name (R95). -/
def pairVOf (op d a b : Nat) : Option PairV :=
  let x := BitVec.ofNat 5 d
  let two := fun (k : BitVec 5 → PSrc → PSrc → PairV) => (PSrc.ofCode a).bind fun y => (PSrc.ofCode b).map fun z => k x y z
  match op with
  | 0x00 => some .nop
  | 0x01 => two .vaddI32
  | 0x02 => two .vsubI32
  | 0x03 => two .vmulI32
  | 0x04 => two .vminI32
  | 0x05 => two .vmaxI32
  | 0x06 => two .vand
  | 0x07 => two .vor
  | 0x08 => two .vxor
  | 0x09 => (PSrc.ofCode a).map fun y => .vmov x y
  | 0x0A => two .vaddF32
  | 0x0B => two .vsubF32
  | 0x0C => two .vmulF32
  | 0x0D => two .vfmaF32
  | 0x0E => two .vminF32
  | 0x0F => two .vmaxF32
  | _ => none

/-- The row of the opcode table that stands for a pair word: a word with one half the no-operation is the row of that
half's no-operation or of the other half, as the constructors' comments say (R95; log entry 15). -/
def pairInstr (u : Hdr) : PairS → PairV → Instr
  | .nop, .nop => .pairVNop u
  | .nop, v => .pairSNop u v
  | .add d a b, .nop => .pairSAdd u d a b
  | .sub d a b, .nop => .pairSSub u d a b
  | .and d a b, .nop => .pairSAnd u d a b
  | .or d a b, .nop => .pairSOr u d a b
  | .xor d a b, .nop => .pairSXor u d a b
  | .min d a b, .nop => .pairSMin u d a b
  | .max d a b, .nop => .pairSMax u d a b
  | .addi d a imm, .nop => .pairSAddi u d a imm
  | .shl d a n, .nop => .pairSShl u d a n
  | .shr d a n, .nop => .pairSShr u d a n
  | .sar d a n, .nop => .pairSSar u d a n
  | .mov d a, .nop => .pairSMov u d a
  | .movi d imm, .nop => .pairSMovi u d imm
  | s, .vaddI32 d a b => .pairVVaddI32 u s d a b
  | s, .vsubI32 d a b => .pairVVsubI32 u s d a b
  | s, .vmulI32 d a b => .pairVVmulI32 u s d a b
  | s, .vminI32 d a b => .pairVVminI32 u s d a b
  | s, .vmaxI32 d a b => .pairVVmaxI32 u s d a b
  | s, .vand d a b => .pairVVand u s d a b
  | s, .vor d a b => .pairVVor u s d a b
  | s, .vxor d a b => .pairVVxor u s d a b
  | s, .vmov d a => .pairVVmov u s d a
  | s, .vaddF32 d a b => .pairVVaddF32 u s d a b
  | s, .vsubF32 d a b => .pairVVsubF32 u s d a b
  | s, .vmulF32 d a b => .pairVVmulF32 u s d a b
  | s, .vfmaF32 d a b => .pairVVfmaF32 u s d a b
  | s, .vminF32 d a b => .pairVVminF32 u s d a b
  | s, .vmaxF32 d a b => .pairVVmaxF32 u s d a b

/-- The pair word of two parcels, before its limits are checked (R65). -/
def pairCand (pfx : List Pfx) (p q : Nat) : Option Instr :=
  let w := p + q * 2 ^ 32
  (pairSOf (bits w 20 6) (bits w 26 5) (bits w 31 5) (bits w 36 5)).bind fun s =>
    (pairVOf (bits w 41 6) (bits w 47 5) (bits w 52 6) (bits w 58 6)).map fun v => pairInstr (hdrOf pfx p) s v

/-- A candidate stands when its limits hold and its words are exactly those read, so that no must-be-zero bit, no
reserved value and no unassigned variant passes (R60, R61, R73). -/
def accepted (c : Option Instr) (ws : List Nat) : Option Instr :=
  match c with
  | some i => if i.fieldsOk && encodeCore i == ws then some i else none
  | none => none

/-- An instruction's own encoding: the instruction, or the parcels that TVAL takes for ILL (R73). -/
def decodeCore (pfx : List Pfx) (p : Nat) (rest : List Nat) : Except (List Nat) Instr :=
  if bits p 0 2 = 0 then
    match accepted (shortCand pfx p) [p] with
    | some i => .ok i
    | none => .error [p]
  else
    match rest with
    | [] => .error [p]
    | q :: _ =>
      match accepted (if bits p 0 2 = 1 then longCand pfx p q else pairCand pfx p q) [p, q] with
      | some i => .ok i
      | none => .error [p, q]

/-- The parcels of an instruction as TVAL holds them: the first in [31:0], the second in [63:32] (R73). -/
def tvalOf : List Nat → BitVec 64
  | [] => 0
  | [p] => BitVec.ofNat 64 p
  | p :: q :: _ => BitVec.ofNat 64 (p + q * 2 ^ 32)

/-- The index in address order of the first prefix of the same kind. -/
def sameKind (k : Nat) : List Pfx → Nat → Option Nat
  | [], _ => none
  | p :: ps, n => if p.kind = k then some n else sameKind k ps (n + 1)

/-- The unit that a run of parcels begins, the run ending with the strand's code region (R70, R73, R74). The parcels
are examined in address order; `pfx` holds the prefixes already passed. -/
def decodeUnitFrom (pfx : List Pfx) : List Nat → Except Reject Instr
  | [] =>
    if pfx.isEmpty then .error (.ill 0)
    else .error (.orphan (pfx.length - 1) (BitVec.ofNat 64 (2 * 2 ^ 62)))
  | p :: rest =>
    if bits p 0 2 = 3 then
      match Pfx.decode p with
      | none => .error (.ill (BitVec.ofNat 64 p))
      | some x =>
        match sameKind x.kind pfx 0 with
        | some k => .error (.orphan k (BitVec.ofNat 64 (1 * 2 ^ 62 + p)))
        | none => decodeUnitFrom (pfx ++ [x]) rest
    else
      match decodeCore pfx p rest with
      | .error ws => .error (.ill (tvalOf ws))
      | .ok i =>
        if !pfx.isEmpty && bit p 2 then .error (.orphan (pfx.length - 1) (BitVec.ofNat 64 p))
        else
          match pfx.find? (fun x => !i.accepts.ok x) with
          | some x => .error (.pfxkind (BitVec.ofNat 64 x.kind))
          | none => .ok i

/-- The unit at the head of a run of parcels. -/
def decodeUnit (ps : List Nat) : Except Reject Instr := decodeUnitFrom [] ps

/-- The longest unit, in parcels: three prefixes and two parcels (R70, R57). -/
def maxUnit : Nat := 5

/-- The parcels of a unit laid out from a number, the first parcel in its low bits. -/
def parcelsOf (w : Nat) : Nat → List Nat
  | 0 => []
  | n + 1 => w % 2 ^ 32 :: parcelsOf (w / 2 ^ 32) n

/-- The instruction the decoder reads from an instruction whose bits are `w`, numbered as the opcode table numbers
them; every bit at or above `nbits` is 0. -/
def decodeTableWord (nbits w : Nat) : Option Instr :=
  match decodeUnit (parcelsOf (w % 2 ^ nbits) maxUnit) with
  | .ok i => some i
  | .error _ => none

end Sys2Proof
end

