-- ==== Sys2Proof/Config.lean ====
section
/-! DEFINITION. What an implementation fixes and the manual does not give: every constant here is opaque, so no
proof can use its value (log entries 3, 4, 8, 10, 11, 12, 13). -/

namespace Sys2Proof.Config

/-- The place of an element among the elements of one store or engine row that name one location, whose order R282 leaves
open: cycle, strand, element (log entry 4). -/
opaque elemPlace : Nat → Nat → Nat → Nat

/-- The correctly rounded FP32 code where the enclosure of `vexp2`, `vlog2` does not decide the rounding: function
number, operand code, rounding mode and draw (log entry 11). -/
opaque hardRound : Nat → BitVec 32 → Nat → Nat → BitVec 32

/-- Which entry a full TLB drops, from the die and the number of the access (R251 names no policy; log entry 12). -/
opaque tlbVictim : Nat → Nat → Nat

/-- The address at which the steward strand of a die starts firmware (R363 gives no entry; log entry 8). -/
opaque firmwareEntry : Nat → BitVec 56

/-- The code region of the steward strand of a die: base and length in bytes (log entry 8). -/
opaque firmwareCode : Nat → BitVec 56 × Nat

/-- Where in its HBM a die's ROM puts the payload of the image it accepted (R363; log entry 8). -/
opaque firmwareFrame : Nat → Nat

/-- The bytes of HBM that the ROM of a die writes beside the payload, its first page tables: address and byte (log entry 8). -/
opaque firmwareTable : Nat → List (Nat × Byte)

/-- The attribute-file entries with which the ROM of a die starts firmware: number and value (log entry 8). -/
opaque firmwareRaf : Nat → List (Nat × Word)

/-- What a die other than die 0 receives of the image that die 0 forwards: die, cycle and image (R363, R366; log entry 53). -/
opaque forwarded : Nat → Word → List Byte → List Byte

/-- The secret fused into the module (R369). -/
opaque fusedSecret : BitVec 384

/-- The number from which the private identity key is taken, derived from the fused secret (R369 gives no derivation; log entry 10). -/
opaque identityNumber : BitVec 384 → Nat

/-- The number from which the nonce of an attestation signature is taken (log entry 10). -/
opaque signNumber : List Byte → Nat

/-- The module's certificate of its public identity key (R369; log entry 10). -/
opaque certificate : List Byte → List Byte

/-- The key digest fused into a die (R365). -/
opaque fusedKeyDigest : Nat → BitVec 384

/-- The minimum SVN fused into a die (R365). -/
opaque fusedSvn : Nat → BitVec 32

/-- The check word of R357 over bytes 0x000 to 0x01F of the descriptor and the member table (log entry 10). -/
opaque collectiveCheck : List Byte → BitVec 32

/-- Whether firmware policy makes a replica for a Fixed read: die, region, cycle (R245; log entry 13). -/
opaque replicaPolicy : Nat → Nat → Nat → Bool

/-- Whether that replica goes into the issuing cluster's vault, else into the die's store (R245; log entry 13). -/
opaque replicaPlace : Nat → Nat → Nat → Bool

/-- The gap before the registers of cluster c of a die in its control window, in registers (R224 names no base; log entry 10). -/
opaque clusterGap : Nat → Nat

/-- The gap before the tenants of the jobs there, in registers (R307 names no register; log entry 36). -/
opaque jobGap : Nat

/-- What a sensor of R372 reads: its number, its die, and the count of free values (log entry 10). -/
opaque sensor : Nat → Nat → Nat → BitVec 32

/-- Which of the agents that can move does move, for each count of `State.freeCtr` (log entry 3). -/
opaque arbiter : Nat → Nat

end Sys2Proof.Config
end

