-- ==== Sys2Proof/Machine/Format.lean ====
section
/-! DEFINITION. The number formats of 02_number_formats.md: what a code stands for (R19-R24), rounding (R25-R28),
flags (R29, R30), conversion (R33, R34), exact sums (R39, R380), MX scaling (R35, R36) and AF128 (R41-R45). -/

namespace Sys2Proof.Machine
open Sys2Proof

/-- What a code stands for: a NaN with its sign bit, an infinity, or (-1)^neg * m * 2^e (R21). -/
inductive FVal where
  | nan (neg : Bool)
  | inf (neg : Bool)
  | fin (neg : Bool) (m : Nat) (e : Int)
  deriving DecidableEq, Repr, Inhabited

/-- The five conditions of R29. -/
structure Flags where
  nv : Bool := false
  dz : Bool := false
  ov : Bool := false
  uf : Bool := false
  nx : Bool := false
  deriving DecidableEq, Repr, Inhabited

/-- No condition. -/
def noFlags : Flags := {}

/-- The invalid condition alone. -/
def nvFlag : Flags := { nv := true }

/-- Conditions of several elements together (R29). An invalid operation is not also inexact for its own element;
here the elements differ. -/
def Flags.join (a b : Flags) : Flags :=
  ⟨a.nv || b.nv, a.dz || b.dz, a.ov || b.ov, a.uf || b.uf, a.nx || b.nx⟩

/-- A rounded code, its conditions, and whether it poisons its destination (R33). -/
structure Rounded where
  code : Nat
  fl : Flags := {}
  poison : Bool := false
  deriving DecidableEq, Repr, Inhabited

/-- How a result is rounded: mode, 16-bit draw (R27), and the arithmetic prefix bits (R30). -/
structure RCtx where
  mode : RMode := .rne
  draw : Nat := 0
  sat : Bool := false
  ftz : Bool := false
  deriving DecidableEq, Repr, Inhabited

/-- Exponent bits, mantissa bits and bias of a float format (R19); 0 for the others. -/
def fmtShape : Fmt → Nat × Nat × Nat
  | .fp32 => (8, 23, 127)
  | .fp16 => (5, 10, 15)
  | .bf16 => (8, 7, 127)
  | .e4m3 => (4, 3, 7)
  | .e5m2 => (5, 2, 15)
  | .e3m2 => (3, 2, 3)
  | .e2m3 => (2, 3, 1)
  | .e2m1 => (2, 1, 1)
  | _ => (0, 0, 0)

/-- The formats with infinities and NaN (R19). -/
def hasSpecial : Fmt → Bool
  | .fp32 | .fp16 | .bf16 | .e5m2 => true
  | _ => false

/-- The two's-complement and unsigned formats (R19). -/
def isIntFmt : Fmt → Bool
  | .int4 | .int8 | .int32 | .int64 | .u32 => true
  | _ => false

/-- The float formats with an exponent field (R21). -/
def isFloatFmt (f : Fmt) : Bool := (fmtShape f).1 != 0

/-- The number of bits of a code (R19): FP6 codes have six. -/
def codeBits : Fmt → Nat
  | .e3m2 | .e2m3 => 6
  | f => f.width

/-- The code of the largest finite value, sign 0 (R19, R23). -/
def maxCode : Fmt → Nat
  | .fp32 => 0x7F7FFFFF
  | .fp16 => 0x7BFF
  | .bf16 => 0x7F7F
  | .e4m3 => 0x7E
  | .e5m2 => 0x7B
  | .e3m2 | .e2m3 => 0x1F
  | .e2m1 => 0x7
  | _ => 0

/-- The canonical NaN (R22); a scale's is 0xFF (R24). -/
def canonNaN : Fmt → Nat
  | .fp32 => 0x7FC00000
  | .fp16 => 0x7E00
  | .bf16 => 0x7FC0
  | .e5m2 => 0x7E
  | .e8m0 => 0xFF
  | _ => 0

/-- The sign bit of a code. -/
def signBit (f : Fmt) (neg : Bool) : Nat := if neg then 2 ^ (codeBits f - 1) else 0

/-- The infinity of a format that has one (R21). -/
def infCode (f : Fmt) (neg : Bool) : Nat :=
  let (eb, mb, _) := fmtShape f
  (2 ^ eb - 1) * 2 ^ mb + signBit f neg

/-- The value of an n-bit two's-complement number. -/
def sext (n w : Nat) : Int :=
  let x := w % 2 ^ n
  if n ≠ 0 ∧ 2 ^ (n - 1) ≤ x then (x : Int) - (2 ^ n : Nat) else x

/-- The n-bit pattern of an integer. -/
def wrapInt (n : Nat) (x : Int) : Nat := (x % ((2 ^ n : Nat) : Int)).toNat

/-- An integer as a value; the sign of 0 is plus. -/
def FVal.ofInt (x : Int) : FVal := .fin (decide (x < 0)) x.natAbs 0

/-- Least and greatest value of an integer format. -/
def intRange (f : Fmt) : Int × Int :=
  let n := codeBits f
  if f = .u32 then (0, ((2 ^ n : Nat) : Int) - 1)
  else (-((2 ^ (n - 1) : Nat) : Int), ((2 ^ (n - 1) : Nat) : Int) - 1)

/-- The integer an integer code stands for. -/
def intOf (f : Fmt) (w : Nat) : Int :=
  if f = .u32 then ((w % 2 ^ 32 : Nat) : Int) else sext (codeBits f) w

/-- The value of a code, and whether reading it is invalid because the code is reserved (R21, R24, R34). -/
def decodeFmt (f : Fmt) (w : Nat) : FVal × Bool :=
  if isIntFmt f then (FVal.ofInt (intOf f w), false)
  else if f = .e8m0 then
    let c := w % 256
    if c = 255 then (.nan false, true) else (.fin false 1 ((c : Int) - 127), false)
  else
    let (eb, mb, bias) := fmtShape f
    let x := w % 2 ^ codeBits f
    let neg := bit x (codeBits f - 1)
    let e := bits x mb eb
    let m := bits x 0 mb
    if f = .e4m3 ∧ x % 128 = 127 then (.nan neg, true)
    else if hasSpecial f ∧ e = 2 ^ eb - 1 then (if m = 0 then .inf neg else .nan neg, false)
    else if e = 0 then (.fin neg m (1 - (bias : Int) - mb), false)
    else (.fin neg (m + 2 ^ mb) ((e : Int) - bias - mb), false)

/-- The value of an FP32 code (it has no reserved code). -/
def f32Val (w : Nat) : FVal := (decodeFmt .fp32 w).1

/-- Under `.ftz`, a subnormal input of FP32, FP16 or BF16 reads as zero of its sign (R30). -/
def flushIn (f : Fmt) (v : FVal) : FVal :=
  let (_, mb, bias) := fmtShape f
  match v with
  | .fin neg m e =>
    if (f = .fp32 ∨ f = .fp16 ∨ f = .bf16) ∧ m ≠ 0 ∧ e = 1 - (bias : Int) - mb ∧ m < 2 ^ mb then .fin neg 0 0 else v
  | _ => v

/-- Whether a magnitude n + rem / 2^s, 0 < rem < 2^s, goes up to n + 1 (R25, R27). -/
def roundsUp (mode : RMode) (neg : Bool) (draw n rem s : Nat) : Bool :=
  match mode with
  | .rne => decide (2 ^ s < 2 * rem) || (decide (2 * rem = 2 ^ s) && n % 2 == 1)
  | .rtz => false
  | .rdn => neg
  | .rup => !neg
  | .rna => decide (2 ^ s ≤ 2 * rem)
  | .rsr => decide (draw < rem * 65536 / 2 ^ s)

/-- The magnitude m * 2^e rounded to a multiple of 2^q: the multiple, and whether that is inexact. -/
def roundAt (mode : RMode) (neg : Bool) (draw m : Nat) (e q : Int) : Nat × Bool :=
  if q ≤ e then (m * 2 ^ (e - q).toNat, false)
  else
    let s := (q - e).toNat
    let n := m / 2 ^ s
    let rem := m % 2 ^ s
    if rem = 0 then (n, false) else (if roundsUp mode neg draw n rem s then n + 1 else n, true)

/-- a * 2^ea < b * 2^eb. -/
def dyLt (a : Nat) (ea : Int) (b : Nat) (eb : Int) : Bool :=
  if ea ≤ eb then decide (a < b * 2 ^ (eb - ea).toNat) else decide (a * 2 ^ (ea - eb).toNat < b)

/-- What an overflow delivers (R26). -/
def overflowCode (f : Fmt) (mode : RMode) (sat neg : Bool) : Nat :=
  let top := maxCode f + signBit f neg
  if sat || !hasSpecial f then top
  else match mode with
    | .rne | .rna | .rsr => infCode f neg
    | .rtz => top
    | .rdn => if neg then infCode f neg else top
    | .rup => if neg then top else infCode f neg

/-- Round a non-zero finite magnitude m * 2^e to a float format (R25-R30). Beyond the largest finite magnitude RSR
behaves as RNE (R26, R27). -/
def roundFin (f : Fmt) (c : RCtx) (neg : Bool) (m : Nat) (e : Int) : Rounded :=
  let (_, mb, bias) := fmtShape f
  let emin : Int := 1 - (bias : Int)
  let top := decodeFmt f (maxCode f)
  let beyond : Bool := match top.1 with
    | .fin _ mm me => dyLt mm me m e
    | _ => false
  let mode := if c.mode = .rsr ∧ beyond then RMode.rne else c.mode
  let big : Int := (Nat.log2 m : Int) + e
  let q := (if big < emin then emin else big) - mb
  let (n, inexact) := roundAt mode neg c.draw m e q
  let beyond : Bool := match top.1 with
    | .fin _ mm me => dyLt mm me n q
    | _ => false
  if beyond then ⟨overflowCode f mode c.sat neg, { ov := true, nx := true }, false⟩
  else
    let tiny := inexact && decide (big < emin) &&
      (let (nu, _) := roundAt mode neg c.draw m e (big - mb)
       dyLt nu (big - mb) 1 emin)
    if c.ftz && (f == .fp32 || f == .fp16 || f == .bf16) && decide (0 < n) && dyLt n q 1 emin then
      ⟨signBit f neg, { uf := true, nx := true }, false⟩
    else
      let code :=
        if n < 2 ^ mb then n
        else if n < 2 ^ (mb + 1) then (q + mb + bias).toNat * 2 ^ mb + (n - 2 ^ mb)
        else (q + mb + bias + 1).toNat * 2 ^ mb
      ⟨code + signBit f neg, { uf := tiny, nx := inexact }, false⟩

/-- Round a value to a float format (R22, R26, R33). -/
def roundFloat (f : Fmt) (c : RCtx) (v : FVal) : Rounded :=
  match v with
  | .nan neg =>
    if hasSpecial f then ⟨canonNaN f, {}, false⟩ else ⟨maxCode f + signBit f neg, nvFlag, true⟩
  | .inf neg =>
    if hasSpecial f then ⟨infCode f neg, {}, false⟩ else ⟨maxCode f + signBit f neg, nvFlag, true⟩
  | .fin neg m e => if m = 0 then ⟨signBit f neg, {}, false⟩ else roundFin f c neg m e

/-- Round a value to an integer format (R33): out of range gives the nearest bound, NaN gives 0, both invalid. A NaN or an infinity, which
the format does not have, poisons what receives it (R34, R157, R212; log entry 61). -/
def roundToInt (f : Fmt) (c : RCtx) (v : FVal) : Rounded :=
  let (lo, hi) := intRange f
  match v with
  | .nan _ => ⟨0, nvFlag, true⟩
  | .inf neg => ⟨wrapInt (codeBits f) (if neg then lo else hi), nvFlag, true⟩
  | .fin neg m e =>
    let (n, inexact) := roundAt c.mode neg c.draw m e 0
    let x : Int := if neg then -(n : Int) else n
    if x < lo then ⟨wrapInt (codeBits f) lo, nvFlag, false⟩
    else if hi < x then ⟨wrapInt (codeBits f) hi, nvFlag, false⟩
    else ⟨wrapInt (codeBits f) x, { nx := inexact }, false⟩

/-- Round(fmt, x, mode) (R13, R25). -/
def roundTo (f : Fmt) (c : RCtx) (v : FVal) : Rounded :=
  if isIntFmt f then roundToInt f c v else roundFloat f c v

/-- Clamp an integer. -/
def clampInt (lo hi x : Int) : Int := if x < lo then lo else if hi < x then hi else x

/-- R33: convert a code from one format to another. -/
def convertFmt (dst src : Fmt) (c : RCtx) (w : Nat) : Rounded :=
  if isIntFmt src && isIntFmt dst then
    let x := intOf src w
    let (lo, hi) := intRange dst
    ⟨wrapInt (codeBits dst) (if c.sat then clampInt lo hi x else x), {}, false⟩
  else
    let (v, reserved) := decodeFmt src w
    let r := roundTo dst c (if c.ftz then flushIn src v else v)
    if reserved then { r with fl := { r.fl with nv := true, nx := false } } else r

/-- R28: the coordinate-keyed mixer, on 64-bit numbers. -/
def mixRound (z : Nat) : Nat :=
  let z := z ^^^ (z / 2 ^ 30)
  let z := z * 0xBF58476D1CE4E5B9 % 2 ^ 64
  let z := z ^^^ (z / 2 ^ 27)
  let z := z * 0x94D049BB133111EB % 2 ^ 64
  z ^^^ (z / 2 ^ 31)

/-- R28: Mix(coord, key, salt). -/
def mix (coord key salt : Nat) : Nat :=
  let z := (coord ^^^ key) % 2 ^ 64
  let z := mixRound (mixRound (mixRound z))
  mixRound ((z + salt) % 2 ^ 64) / 2 ^ 32

/-- R28: the RSR draw of a coordinate under SRKEY and the prefix's key number. -/
def rsrDraw (coord key n : Nat) : Nat := mix coord key n / 2 ^ 16

/-! Exact arithmetic (R13 `Exact`, R39, R135, R380). -/

/-- The negated value. -/
def FVal.neg : FVal → FVal
  | .nan s => .nan s
  | .inf s => .inf (!s)
  | .fin s m e => .fin (!s) m e

/-- A zero of either sign. -/
def FVal.isZero : FVal → Bool
  | .fin _ m _ => m == 0
  | _ => false

/-- A NaN. -/
def FVal.isNaN : FVal → Bool
  | .nan _ => true
  | _ => false

/-- An infinity. -/
def FVal.isInf : FVal → Bool
  | .inf _ => true
  | _ => false

/-- The sign of a value. -/
def FVal.sign : FVal → Bool
  | .nan s => s
  | .inf s => s
  | .fin s _ _ => s

/-- a × b; 0 × ∞ is NaN and invalid (R39, R135). -/
def mulVal (a b : FVal) : FVal × Bool :=
  match a, b with
  | .nan s, _ => (.nan s, false)
  | _, .nan s => (.nan s, false)
  | .inf s, b => if b.isZero then (.nan false, true) else (.inf (s != b.sign), false)
  | a, .inf s => if a.isZero then (.nan false, true) else (.inf (a.sign != s), false)
  | .fin s m e, .fin t n d => (.fin (s != t) (m * n) (e + d), false)

/-- The signed integer and exponent of a finite value. -/
def FVal.scaled (q : Int) : FVal → Int
  | .fin s m e => let x := (m * 2 ^ (e - q).toNat : Nat); if s then -(x : Int) else x
  | _ => 0

/-- The least exponent among finite non-zero terms. -/
def leastExp : List FVal → Int → Int
  | [], q => q
  | .fin _ m e :: ts, q => leastExp ts (if m ≠ 0 ∧ e < q then e else q)
  | _ :: ts, q => leastExp ts q

/-- Whether every term is a zero of a sign. -/
def zerosOf (neg : Bool) (ts : List FVal) : Bool := ts.all (fun t => t.isZero && t.sign == neg)

/-- The exact sum of terms, and whether it is invalid. A NaN term makes the sum NaN; infinities of both signs make it
NaN and invalid; any other infinity is the sum (R39). `neg` is the sign of an exact zero sum. -/
def exactSum (neg : Bool) (ts : List FVal) : FVal × Bool :=
  let clash := ts.any (fun t => t == .inf true) && ts.any (fun t => t == .inf false)
  if clash || ts.any FVal.isNaN then (.nan false, clash)
  else if ts.any (fun t => t == .inf true) then (.inf true, false)
  else if ts.any (fun t => t == .inf false) then (.inf false, false)
  else
    let q := leastExp ts 4096
    let x : Int := (ts.map (fun t => if t.isZero then 0 else t.scaled q)).foldl (· + ·) 0
    if x = 0 then (.fin neg 0 0, false) else (.fin (decide (x < 0)) x.natAbs q, false)

/-- A sum under a mode (R380): an exact zero sum is -0 when every term is -0 and, in every other case, under RDN, terms that are all +0
included (log entry 26). -/
def sumVal (mode : RMode) (ts : List FVal) : FVal × Bool := exactSum (zerosOf true ts || mode == .rdn) ts

/-- Add an invalid condition found before rounding: an invalid operation is not also inexact (R29). -/
def Rounded.orNv (r : Rounded) (nv : Bool) : Rounded :=
  if nv then { r with fl := { r.fl with nv := true, nx := false } } else r

/-- a / b with 80 quotient bits and a sticky bit (R135). -/
def divVal (a b : FVal) : FVal × Flags :=
  match a, b with
  | .nan s, _ => (.nan s, {})
  | _, .nan s => (.nan s, {})
  | .inf s, .inf _ => (.nan s, nvFlag)
  | .inf s, .fin t _ _ => (.inf (s != t), {})
  | .fin s _ _, .inf t => (.fin (s != t) 0 0, {})
  | .fin s m e, .fin t n d =>
    if n = 0 then (if m = 0 then (.nan false, nvFlag) else (.inf (s != t), { dz := true }))
    else if m = 0 then (.fin (s != t) 0 0, {})
    else
      let k := Nat.log2 n + 80
      let x := m * 2 ^ k
      (.fin (s != t) (x / n * 2 + (if x % n = 0 then 0 else 1)) (e - d - k - 1), {})

/-- The integer square root, bit by bit from 2^(k-1). -/
def isqrtFrom (n : Nat) : Nat → Nat → Nat
  | 0, r => r
  | k + 1, r =>
    let r' := r + 2 ^ k
    isqrtFrom n k (if r' * r' ≤ n then r' else r)

/-- The integer square root. -/
def isqrt (n : Nat) : Nat := isqrtFrom n (Nat.log2 n / 2 + 1) 0

/-- √a (R135, R154). -/
def sqrtVal (a : FVal) : FVal × Flags :=
  match a with
  | .nan s => (.nan s, {})
  | .inf s => if s then (.nan false, nvFlag) else (.inf false, {})
  | .fin s m e =>
    if m = 0 then (.fin s 0 0, {})
    else if s then (.nan false, nvFlag)
    else
      let k := 160 + (e % 2).toNat
      let x := m * 2 ^ k
      let r := isqrt x
      (.fin false (r * 2 + (if r * r = x then 0 else 1)) ((e - k) / 2 - 1), {})

/-- 1/√a (R154). -/
def rsqrtVal (a : FVal) : FVal × Flags :=
  match a with
  | .nan s => (.nan s, {})
  | .inf s => if s then (.nan false, nvFlag) else (.fin false 0 0, {})
  | .fin s m e =>
    if m = 0 then (.inf s, { dz := true })
    else if s then (.nan false, nvFlag)
    else
      let k := 2 * (Nat.log2 m + 100) + (e % 2).toNat
      let y := 2 ^ k / m
      let r := isqrt y
      (.fin false (r * 2 + (if r * r * m = 2 ^ k then 0 else 1)) (-((e + k) / 2) - 1), {})

/-- A key that orders values as R136 does: -0 below +0. -/
def valLess (a b : FVal) : Bool :=
  match a, b with
  | .nan _, _ => false
  | _, .nan _ => false
  | .inf s, .inf t => s && !t
  | .inf s, .fin _ _ _ => s
  | .fin _ _ _, .inf t => !t
  | .fin s m e, .fin t n d =>
    if s && !t then true
    else if !s && t then false
    else if s then dyLt n d m e
    else dyLt m e n d

/-- Numeric equality: ±0 are equal, NaN equals nothing. -/
def valEq (a b : FVal) : Bool :=
  match a, b with
  | .nan _, _ => false
  | _, .nan _ => false
  | .inf s, .inf t => s == t
  | .inf _, .fin .. => false
  | .fin .., .inf _ => false
  | .fin s m e, .fin t n d => (m == 0 && n == 0) || (s == t && !dyLt m e n d && !dyLt n d m e)

/-- A condition of R63 on two values; a NaN operand makes all false but ne and un (R106). -/
def condVal (c : Cond) (a b : FVal) : Bool :=
  let un := a.isNaN || b.isNaN
  let eq := valEq a b
  let lt := valLess a b && !eq
  match c with
  | .eq => !un && eq
  | .ne => un || !eq
  | .lt => !un && lt
  | .le => !un && (lt || eq)
  | .gt => !un && !lt && !eq
  | .ge => !un && !lt
  | .un => un
  | .or => !un

/-- A condition of R63 on two integers. -/
def condInt (c : Cond) (a b : Int) : Bool :=
  match c with
  | .eq => a == b
  | .ne => a != b
  | .lt => decide (a < b)
  | .le => decide (a ≤ b)
  | .gt => decide (b < a)
  | .ge => decide (b ≤ a)
  | .un => false
  | .or => true

/-! Elements of a row (R9, R20). -/

/-- The `n` elements of `w` bits from bit 0 of a number upward. -/
def splitElems (w : Nat) : Nat → Nat → List Nat
  | 0, _ => []
  | n + 1, x => x % 2 ^ w :: splitElems w n (x / 2 ^ w)

/-- The number whose w-bit elements are these, lowest first. -/
def joinElems (w : Nat) : List Nat → Nat
  | [] => 0
  | x :: xs => x % 2 ^ w + 2 ^ w * joinElems w xs

/-- The elements of a row. -/
def rowElems (w : Nat) (r : RowBits) : List Nat := splitElems w (2048 / w) r.toNat

/-- A row from its elements. -/
def rowOfElems (w : Nat) (xs : List Nat) : RowBits := BitVec.ofNat 2048 (joinElems w xs)

/-- The bytes of a number, lowest first. -/
def bytesOf (n x : Nat) : List Byte := (splitElems 8 n x).map (BitVec.ofNat 8)

/-- The number of a little-endian byte list. -/
def natOfBytes : List Byte → Nat
  | [] => 0
  | b :: bs => b.toNat + 256 * natOfBytes bs

/-! MX block scaling (R35, R36). -/

/-- The format of an MX element. -/
def MxFmt.toFmt : MxFmt → Fmt
  | .e4m3 => .e4m3
  | .e5m2 => .e5m2
  | .e3m2 => .e3m2
  | .e2m3 => .e2m3
  | .e2m1 => .e2m1

/-- emax of R35. -/
def mxEmax : MxFmt → Int
  | .e2m1 => 2
  | .e2m3 => 2
  | .e3m2 => 4
  | .e4m3 => 8
  | .e5m2 => 15

/-- floor(log2) of the greatest magnitude of a block of finite values, none when all are zero. -/
def blockTop : List FVal → Option Int
  | [] => none
  | .fin _ m e :: vs =>
    let rest := blockTop vs
    if m = 0 then rest
    else
      let t : Int := (Nat.log2 m : Int) + e
      match rest with
      | none => some t
      | some r => some (if r < t then t else r)
  | _ :: vs => blockTop vs

/-- R35: the scale code, the element codes with their conditions, and whether the block poisons. -/
def mxQuantBlock (f : MxFmt) (vs : List FVal) : Nat × List (Nat × Flags) × Bool :=
  if vs.any (fun v => v.isNaN || v.isInf) then
    (0xFF, vs.map (fun v => (0, if v.isNaN || v.isInf then nvFlag else noFlags)), true)
  else match blockTop vs with
    | none => (0, vs.map (fun _ => (0, noFlags)), false)
    | some t =>
      let x := clampInt (-127) 127 (t - mxEmax f)
      ((x + 127).toNat,
        vs.map (fun v => match v with
          | .fin s m e =>
            let r := roundFloat (MxFmt.toFmt f) { sat := true } (.fin s m (e - x))
            (r.code, r.fl)
          | _ => (0, noFlags)), false)

/-- R36: one element under its scale code. -/
def mxDequant (f : MxFmt) (c : RCtx) (scale elem : Nat) : Rounded :=
  if scale % 256 = 255 then ⟨canonNaN .fp32, nvFlag, false⟩
  else
    let (v, reserved) := decodeFmt (MxFmt.toFmt f) elem
    let v' := match v with
      | .fin s m e => FVal.fin s m (e + ((scale % 256 : Nat) : Int) - 127)
      | v => v
    (roundFloat .fp32 c v').orNv reserved

/-! AF128 (R41-R44) and the integer Accrue updates (R45). -/

/-- A saturated bound word. -/
def boundSat : Nat := 0xFFFFFFFF

/-- R42: what an addend alone gives: q and the bound increment; none for a NaN or an infinity. -/
def afAddend (l : Int) (x : FVal) : Int × Option Nat :=
  match x with
  | .fin neg m e =>
    let (n, _) := roundAt .rne neg 0 m (e - l) 0
    let k := e - l - 88
    (if neg then -(n : Int) else n,
      some (if 0 ≤ k then m * 2 ^ k.toNat else (m + 2 ^ (-k).toNat - 1) / 2 ^ (-k).toNat))
  | _ => (0, none)

/-- R42: the container and the bound word after an addend. -/
def afApply (c b : Nat) (q : Int) (inc : Option Nat) : Nat × Nat :=
  match inc with
  | some n => (wrapInt 128 ((c : Int) + q), min (b + n) boundSat)
  | none => (wrapInt 128 ((c : Int) + q), boundSat)

/-- R44: the FP32 value of a container; a saturated bound is invalid and poisons. -/
def afToF32 (l : Int) (c b : Nat) : Rounded :=
  let x := sext 128 c
  let r := roundFloat .fp32 {} (if x = 0 then .fin false 0 0 else .fin (decide (x < 0)) x.natAbs l)
  if b = boundSat then { r with fl := { r.fl with nv := true }, poison := true } else r

end Sys2Proof.Machine
end

