-- ==== Sys2Proof/Machine/State.lean ====
section
/-! DEFINITION. The state of the machine: every piece INVENTORY.md lists under State, as plain data, and the machine
right after power-on reset. Tables are association lists with strictly rising keys that list no default entry. -/

namespace Sys2Proof.Machine
open Sys2Proof

/-- Why the machine stops. -/
inductive Fault where
  /-- Raised by a translated access whose frame lies outside the storage R2, R206 and R253 give (log entry 7). Safe:
  the manual gives such an access no result. -/
  | noStorage (key : Nat)
  deriving DecidableEq, Repr

/-- Why an instruction has no meaning. -/
inductive Refusal where
  /-- Raised by an arm of `exec` for an instruction that is not modelled. Safe: no next state follows. -/
  | notModelled (mnemonic : String)
  deriving DecidableEq, Repr

/-- A row with its poison bit (R31, R98). -/
structure PRow where
  bits : RowBits := 0
  poison : Bool := false
  deriving DecidableEq, Repr, Inhabited

/-- A predicate: 64 lane bits and U (R98). -/
structure Pred where
  lanes : Word := 0
  u : Bool := false
  deriving DecidableEq, Repr, Inhabited

/-- Whether a strand issues units. -/
inductive Phase where
  | idle | running | ended | stopped
  deriving DecidableEq, Repr, Inhabited

/-- What a waiting unit waits for, with its operands (R55, R113). -/
inductive WaitKind where
  | bandFull (row : Nat)
  | bandEmpty (row : Nat)
  | cmdq (engine : Nat)
  | tok (q n : Nat)
  | cpwait (ch : Nat) (target : Word)
  | sts (h : BitVec 4) (hb : HBits)
  | lds (h : BitVec 4) (hb : HBits)
  | recast (h : BitVec 4) (hb : HBits)
  | cbar
  | cqpop (e : Nat)
  | lrec (name : Word)
  | job (name : Word)
  | cwait (name : Word)
  | trackers (need : Nat)
  | collectives
  | mrestore
  | lease
  | arrive
  | held
  | amo
  deriving DecidableEq, Repr, Inhabited

/-- A wait: since which cycle, and its limit in cycles, if it has one. -/
structure Wait where
  kind : WaitKind
  since : Word
  lim : Option Nat
  deriving DecidableEq, Repr, Inhabited

/-- The state of an atomic in the skein (R270): pending, under the ticket its entry carries, replayed with the old value, or failed
with a cause. -/
inductive AmoReply where
  | pending (ticket : Word)
  | old (w : Word)
  | failed (cause : BitVec 8)
  deriving DecidableEq, Repr, Inhabited

/-- A request that a home has taken from its arbiter and holds (R259, R261, R269-R271): the home, the region of its handle (0 where
it goes through none), the space, and the 64 KiB blocks it touches; bolts and pages consist of whole blocks. -/
structure HeldReq where
  home : Nat := 0
  region : Nat := 0
  space : Space := .fixed
  blocks : List Nat := []
  deriving DecidableEq, Repr, Inhabited

/-- One strand (R98, R99, R101, R107). `stcyc` is the cycle at which STCYC read 0. `sregs` holds s1-s15 at 1-15 and s(16+i)
of physical window w at 16 + 16w + i. `held` are the rows a waiting unit has read, `wants` the band rows it has still to
reserve (R173, R174), `taken` the request of the unit that a home holds, `absent` the pages declared unmappable while it did (R269),
and `saved` counts the rows that a `ctxsave` or an `sts.eos` has stored (R145, R285). `age` is the cycle in which the unit that loses a bank first issued, and `got` are the banks that have
delivered to it since (R171). -/
structure Strand where
  phase : Phase := .idle
  sect : Bool := false
  pc : Word := 0
  codeBase : Word := 0
  codeLen : Nat := 0
  sregs : List (Nat × Word) := []
  preds : List (Nat × Pred) := []
  orows : List (Nat × PRow) := []
  lx : PRow := {}
  handles : List (Nat × HBits) := []
  strict : Bool := false
  inh : Bool := false
  mode : Bool := false
  pure : Bool := false
  plive : BitVec 8 := 0xFE
  voff : Int := 0
  rb : Int := 0
  swb : BitVec 3 := 0
  depth : Nat := 0
  res : Nat := 1
  spilld : Nat := 0
  wlim : Nat := 65536
  spillSize : BitVec 8 := 0
  spillBase : BitVec 56 := 0
  thnd : BitVec 56 := 0
  tcause : BitVec 16 := 0
  tpc : Word := 0
  tval : Word := 0
  tlanes : Word := 0
  srkey : Word := 0
  flnv : Word := 0
  fldz : Word := 0
  flof : Word := 0
  fluf : Word := 0
  flnx : Word := 0
  stcyc : Word := 0
  stitchNum : BitVec 32 := 0
  held : List PRow := []
  wants : List Nat := []
  wait : Option Wait := none
  arrived : Bool := false
  absent : List (Space × BitVec 56) := []
  taken : Option HeldReq := none
  saved : Nat := 0
  amoReply : Option AmoReply := none
  age : Option Word := none
  got : List Nat := []
  endWord : Option Word := none
  deriving DecidableEq, Repr, Inhabited

/-- A captured engine command (R179, R187): parcels, captured scalar, handle and, for matrix commands, the second
handle (R233), captured lx (R232) and the issuing stitch's s1, s2 (R212). `blocked` are the band rows it waits to write, and `taken`
is the request of the row that is due, while a home holds it (R173, R261). `out` are the band rows that an
`mdrain` has computed and not yet delivered (R172). `tokSince` is the cycle since which its
start waits for its token (R193, R196), `coll` the die and number of the collective a `reshard` names (R179, R357). -/
structure Cmd where
  parcels : Word := 0
  scalar : Word := 0
  rows : Nat := 0
  started : Bool := false
  tokenTaken : Bool := false
  seq : BitVec 16 := 0
  handle : HBits := 0
  handle2 : HBits := 0
  lx : PRow := {}
  s1 : BitVec 32 := 0
  s2 : BitVec 32 := 0
  strand : Nat := 0
  status : BitVec 8 := 0
  poison : Bool := false
  count : Nat := 0
  done : Bool := false
  issued : Word := 0
  blocked : List Nat := []
  taken : Option HeldReq := none
  out : List (Nat × PRow) := []
  tokSince : Option Word := none
  coll : Option (Nat × Nat) := none
  deriving DecidableEq, Repr, Inhabited

/-- A command's engine state: queue of captured commands, completion queue, held entries with the tokens they post. -/
structure Engine where
  nextSeq : BitVec 16 := 0
  queue : List Cmd := []
  running : List Cmd := []
  comp : List Word := []
  heldEntries : List (Word × Option (BitVec 3)) := []
  deriving DecidableEq, Repr, Inhabited

/-- A token queue (R176). -/
structure TokQ where
  count : Nat := 0
  ovf : Bool := false
  deriving DecidableEq, Repr, Inhabited

/-- Identity of a launch: die of the record, record number, launch count (R82). -/
structure LaunchId where
  die : Nat := 0
  record : Nat := 0
  launch : Nat := 0
  deriving DecidableEq, Repr, Inhabited

/-- The stitch a core runs (R216-R222). -/
structure Stitch where
  id : LaunchId := {}
  lin : BitVec 32 := 0
  part : Nat := 0
  pos : Nat := 0
  tenant : Nat := 0
  t0 : Nat := 1
  t1 : Nat := 1
  sections : BitVec 3 := 0
  outSlot : Option Nat := none
  outHandle : HBits := 0
  budget : Nat := 0
  stageQ : Nat := 65536
  restartable : Bool := true
  early : Bool := false
  rings : List (Nat × Nat) := []
  failed : Bool := false
  dkey : Word := 0
  dsalt : Word := 0
  dkeep : BitVec 32 := 0
  dscale : BitVec 32 := 0
  prick : BitVec 56 := 0
  resumed : Bool := false
  deriving DecidableEq, Repr, Inhabited

/-- A stopped clock enable: by a tenant limit (R368: code 1 skein, 2 matching table) or a late reply (R314). -/
structure Freeze where
  limit : Nat := 0
  late : Nat := 0
  since : Word := 0
  deriving DecidableEq, Repr, Inhabited

/-- One core (R101, R144, R169, R172-R180). -/
structure Core where
  part : BitVec 24 := 0
  portmap : BitVec 8 := 0x94
  partNext : Option (BitVec 24) := none
  portNext : Option (BitVec 8) := none
  vfile : List (Nat × PRow) := []
  band : List (Nat × PRow) := []
  full : BitVec 512 := 0
  reserved : List (Nat × Nat) := []
  tok : List (Nat × TokQ) := []
  wptr : List (Nat × Word) := []
  eng : List (Nat × Engine) := []
  bankloss : List (Nat × BitVec 32) := []
  stitch : Option Stitch := none
  prev : Option LaunchId := none
  freeze : Option Freeze := none
  stopReq : Bool := false
  deriving DecidableEq, Repr, Inhabited

/-- The array's lease (R209, R210). `reload` is the save it was reloaded from, cluster and slot, and how many of its commands
have still to finish (R215). -/
structure Lease where
  core : Nat := 0
  byCycles : Bool := false
  left : Nat := 0
  granted : Word := 0
  ending : Bool := false
  expired : Bool := false
  reload : Option (Nat × Nat × Nat) := none
  deriving DecidableEq, Repr, Inhabited

/-- A lease request (R209); a resumed stitch's names the cluster and slot that hold its save, with what the slot's
command records have no place for, and whether it had been unleased (R214, R215, R228). -/
structure LeaseReq where
  core : Nat := 0
  strand : Nat := 0
  byCycles : Bool := false
  budget : Nat := 0
  at_ : Word := 0
  resume : Option (Nat × Nat) := none
  kept : List Cmd := []
  ending : Bool := false
  deriving DecidableEq, Repr, Inhabited

/-- The update of an Accrue entry (R42, R45): an AF128 pair (q, bound increment; none saturates the bound), or an
operation number of R351 on a width in bits. -/
inductive AccOp where
  | af (q : Int) (inc : Option Nat)
  | int (op width : Nat) (x : BitVec 64)
  deriving DecidableEq, Repr, Inhabited

/-- An Accrue update on its way (R221): the stitch it belongs to, its handle and element address. -/
structure AccEntry where
  id : LaunchId := {}
  lin : BitVec 32 := 0
  core : Nat := 0
  tenant : Nat := 0
  handle : HBits := 0
  va : BitVec 56 := 0
  op : AccOp := .af 0 none
  poison : Bool := false
  prior : Bool := false
  deriving DecidableEq, Repr, Inhabited

/-- The accumulators and flags of an array (R201, R230). -/
structure ArrayState where
  acc : List (Nat × BitVec 32) := []
  tc : Bool := false
  kcur : BitVec 32 := 0
  aflags : BitVec 5 := 0
  poison : Bool := false
  dkey : Word := 0
  dsalt : Word := 0
  dkeep : BitVec 32 := 0
  dscale : BitVec 32 := 0
  deriving DecidableEq, Repr, Inhabited

/-- One cluster (R201-R224). `turn` is the core whose scatter queue is served next (R221). -/
structure Cluster where
  arr : ArrayState := {}
  lease : Option Lease := none
  requests : List LeaseReq := []
  lastGrant : Option (Nat × LaunchId × BitVec 32) := none
  queue : List Cmd := []
  running : Option Cmd := none
  window : List AccEntry := []
  staging : List AccEntry := []
  turn : Nat := 0
  rtop : BitVec 6 := 43
  disc : BitVec 16 := 0
  grants : BitVec 16 := 0
  early : BitVec 16 := 0
  deriving DecidableEq, Repr, Inhabited

/-- One TLB entry: whether it serves the host window, its space, page and leaf (R251, R253). -/
structure TlbEntry where
  host : Bool := false
  space : Space := .fixed
  psize : BitVec 2 := 0
  page : BitVec 56 := 0
  leaf : Word := 0
  deriving DecidableEq, Repr, Inhabited

/-- One byte written at a place: `full`, or one nibble alone (R280). -/
inductive Part where
  | full | low | high
  deriving DecidableEq, Repr, Inhabited

/-- What a skein entry performs (R270): the cells of a store, and the 256-byte blocks it poisons or leaves clean, as offsets
from the entry's address; an atomic's strand and ticket, which the strand that waits for it holds too. -/
inductive SkeinOp where
  | store (cells : List (Nat × Byte × Part)) (pblocks : List Nat) (clean : List Nat := [])
  | accrue (e : AccEntry)
  | amo (strand : Nat) (ticket : Word) (op : Nat) (f : AmoF) (x y : Word)
  deriving DecidableEq, Repr, Inhabited

/-- A skein entry: space, address, issuing launch and tenant, handle, operation. -/
structure SkeinEntry where
  space : Space := .loose
  va : BitVec 56 := 0
  id : LaunchId := {}
  tenant : Nat := 0
  handle : HBits := 0
  op : SkeinOp := .store [] []
  deriving DecidableEq, Repr, Inhabited

/-- A job (R307). -/
structure Job where
  count : BitVec 32 := 0
  tenant : BitVec 7 := 0
  deriving DecidableEq, Repr, Inhabited

/-- A pre-empted or discarded position that waits to run again (R186, R220). -/
structure Suspended where
  part : Nat := 0
  pos : Nat := 0
  saved : Bool := false
  stitch : Stitch := {}
  lease : Option (Nat × Nat × Bool × Nat) := none
  leaseEnding : Bool := false
  kept : List Cmd := []
  cmds : List (Nat × List Cmd) := []
  heldEntries : List (Nat × List (Word × Option (BitVec 3))) := []
  ended : List (Nat × Word) := []
  stcyc : Word := 0
  deriving DecidableEq, Repr, Inhabited

/-- What the queue manager keeps of a record beside its bytes (R219, R223, R300, R309, R310). `barSize` is the barrier's size, `pure`
says that the task is pure and `declares` that it has an output slot, as dispatch read them from the pricking. -/
structure RecX where
  launch : Nat := 0
  order : Nat := 0
  readyAt : Word := 0
  next : Nat := 0
  total : Nat := 0
  done : List (Nat × Nat) := []
  retired : Nat := 0
  orWord : BitVec 32 := 0
  barCount : Nat := 0
  barPhase : Nat := 0
  suspended : List Suspended := []
  pendAcc : Nat := 0
  pendParties : Nat := 0
  recasting : Bool := false
  key : BitVec 128 := 0
  outHandle : HBits := 0
  declares : Bool := false
  pure : Bool := false
  barSize : Nat := 0
  finished : Bool := false
  deriving DecidableEq, Repr, Inhabited

/-- The forward and the job decrement of a record that has reached Done or Failed, while the consumer's arm is held (R304, R328): FWD and
JOB as they stood, and the bound output handle. -/
structure Forward where
  record : Nat := 0
  fwd : Nat := 0
  job : Nat × Nat := (0, 0)
  out : Option HBits := none
  deriving DecidableEq, Repr, Inhabited

/-- A Sampler entry (R318); the list is kept least recently used first. -/
structure SamplerEntry where
  tenant : Nat := 0
  key : BitVec 128 := 0
  result : HBits := 0
  deriving DecidableEq, Repr, Inhabited

/-- A matching-table entry (R312). -/
structure MatchEntry where
  tag : BitVec 32 := 0
  expect : Nat := 0
  count : Nat := 0
  record : Nat := 0
  tenant : Nat := 0
  deriving DecidableEq, Repr, Inhabited

/-- A posted `rgn.parties` (R293). -/
structure Parties where
  id : LaunchId := {}
  tenant : Nat := 0
  handle : HBits := 0
  n : BitVec 12 := 0
  deriving DecidableEq, Repr, Inhabited

/-- What the home remembers of a region's recasts (R260, R264): the generation of the last converting recast, the
generations of the recasts that poisoned a block with their bolts [lo, hi), whether arrivals are pending, and a party
count that applies next. -/
structure RgnX where
  convGen : BitVec 16 := 0
  poisoned : List (Nat × Nat × Nat) := []
  need : Nat := 0
  alone : Option LaunchId := none
  ringPoison : Bool := false
  ended : Bool := false
  deriving DecidableEq, Repr, Inhabited

/-- A tile-completion tracker entry (R354): collective and tile number, the size of the tile and the count, in bits. -/
structure Track where
  num : BitVec 16 := 0
  tile : Nat := 0
  size : Nat := 0
  count : Nat := 0
  deriving DecidableEq, Repr, Inhabited

/-- An outstanding collective at a member (R357, R358): whether its engine has started its command, `tiles` that may be sent, `unsent`
messages on their way, the elements `left` that each member still contributes, `wrote` bits written; `srcFail` and `dstFail` say that
a row of the source or of the destination has failed, and with which cause (R184). `tookTiles` and `tookMessages` are the tiles it reads
and the messages it performs whose requests a home holds (R261). -/
structure Coll where
  num : BitVec 16 := 0
  core : Nat := 0
  strand : Nat := 0
  seq : BitVec 16 := 0
  id : LaunchId := {}
  lin : BitVec 32 := 0
  tenant : Nat := 0
  check : BitVec 32 := 0
  src : HBits := 0
  dst : HBits := 0
  desc : List Byte := []
  tiles : List Nat := []
  started : Bool := true
  unsent : Nat := 0
  left : List (Nat × Nat) := []
  srcFail : BitVec 8 := 0
  dstFail : BitVec 8 := 0
  tookTiles : List (Nat × HeldReq) := []
  tookMessages : List (Message × HeldReq) := []
  wrote : Nat := 0
  status : BitVec 8 := 0
  poison : Bool := false
  deriving DecidableEq, Repr, Inhabited

/-- A migration request (R328, R329). -/
structure MigReq where
  host : Bool := false
  va : BitVec 56 := 0
  cmd : Word := 0
  deriving DecidableEq, Repr, Inhabited

/-- One copy of the migration registers (R329). -/
structure MigRegs where
  va : BitVec 56 := 0
  cmd : Word := 0
  res : Word := 0
  deriving DecidableEq, Repr, Inhabited

/-- A host submission ring (R331-R333): control, last kick, error, the kick being handled (last slot), and the first read of the
current slot. -/
structure HostRing where
  en : Bool := false
  tenant : BitVec 7 := 0
  next : BitVec 32 := 0
  kick : BitVec 32 := 0
  err : Word := 0
  upto : Option (BitVec 32) := none
  firstRead : Option Word := none
  deriving DecidableEq, Repr, Inhabited

/-- A replica of one bolt of a Fixed run in the replica store of a die, or in the vault replica area of one of its clusters
(R206, R245): the home and region, the bolt's first address, the generation of the run it copies, and the copy. -/
structure Replica where
  cluster : Option Nat := none
  home : Nat := 0
  region : Nat := 0
  tenant : Nat := 0
  va : BitVec 56 := 0
  gen : Nat := 0
  cells : List Host.Cell := []
  poison : List (Nat × Bool) := []
  deriving DecidableEq, Repr, Inhabited

/-- A notification to the die's firmware (R114, R253, R271, R272, R381). -/
inductive Notice where
  | system (strand : Nat) (cause : BitVec 16)
  | badEntry (va : BitVec 56)
  | skeinLevel
  | discarded (id : LaunchId) (va : BitVec 56) (cause : BitVec 8)
  | dispatch (record : Nat) (status sub : BitVec 8)
  | interrupt (core : Nat)
  deriving DecidableEq, Repr, Inhabited

/-- One die. Region descriptors, launch records, page tables and rings are bytes of memory. -/
structure Die where
  raf : List (Nat × Word) := []
  hostRaf : List (Nat × Word) := []
  rgnBase : Word := 0
  skHigh : BitVec 16 := 0
  skThr : BitVec 15 := 12288
  tlbInv : Word := 0
  tlb : List TlbEntry := []
  tlbSeq : Nat := 0
  skein : List SkeinEntry := []
  released : List AccEntry := []
  parties : List Parties := []
  bounds : List (Nat × BitVec 32) := []
  rgnx : List (Nat × RgnX) := []
  replicas : List Replica := []
  recBase : Word := 0
  dmode : Word := 0
  squota : List (Nat × Nat) := []
  hits : BitVec 32 := 0
  sampler : List SamplerEntry := []
  matching : List MatchEntry := []
  jobs : List (Nat × Job) := []
  recx : List (Nat × RecX) := []
  forwards : List Forward := []
  readySeq : Nat := 0
  rrTenant : Nat := 0
  migFw : MigRegs := {}
  migHost : MigRegs := {}
  migQueue : List MigReq := []
  epochs : List (Nat × BitVec 8) := []
  hsqBase : Word := 0
  hostRings : List (Nat × HostRing) := []
  tlimMt : List (Nat × Nat) := []
  tlimSk : List (Nat × Nat) := []
  frz : List (Nat × Nat) := []
  tkey : List (Nat × BitVec 256) := []
  module_ : BitVec 11 := 0
  portUp : BitVec 32 := 0
  portEn : BitVec 32 := 0
  tracks : List Track := []
  colls : List Coll := []
  collNext : BitVec 16 := 0
  collWords : List (Nat × Word) := []
  fabCan : BitVec 16 := 0
  throttled : Bool := false
  notices : List Notice := []
  deriving DecidableEq, Repr, Inhabited

/-- BOOTST.STATE (R363). -/
inductive BootState where
  | dark | receiving | verifying | running | rejected
  deriving DecidableEq, Repr, Inhabited

/-- How a mailbox command completed (R363). -/
inductive MailCode where
  | success | busy | unsupported
  deriving DecidableEq, Repr, Inhabited

/-- The host edge and bring-up state of die 0 (R361-R366, R369); `sentAt` is the cycle in which die 0 forwarded the image, `identity`
the public identity key. -/
structure Boot where
  state : BootState := .dark
  err : BitVec 8 := 0
  rej : BitVec 24 := 0
  svn : BitVec 32 := 0
  hdmDrop : BitVec 16 := 0
  hdmOpen : List (Nat × Word) := []
  image : List Byte := []
  imageDigest : BitVec 384 := 0
  sentAt : Word := 0
  identity : List Byte := []
  reports : List (Nat × BitVec 8) := []
  linkRate : Nat := 0
  linkWidth : Nat := 0
  mailbox : List Byte := []
  mailboxCode : MailCode := .success
  hostRead : List Byte := []
  hostReadPoison : Bool := false
  irqs : Nat := 0
  deriving DecidableEq, Repr, Inhabited

/-- Which agent moves next (log entry 3). -/
inductive Turn where
  | strand (n : Nat)
  | event (i : Instr)
  deriving DecidableEq, Repr

/-- The machine. Strand n is ((die * 16 + cluster) * 8 + core) * 3 + number (R3); core n is (die * 16 + cluster) * 8 +
core; cluster n is die * 16 + cluster. `cur`, `agenda` and `freeCtr` are the model's own (log entries 3, 4). -/
structure State where
  cycle : Word
  cur : Nat
  agenda : List Turn
  freeCtr : Nat
  boot : Boot
  mem : List Host.Cell
  poison : List (Nat × Bool)
  strands : List (Nat × Strand)
  cores : List (Nat × Core)
  clusters : List (Nat × Cluster)
  dies : List (Nat × Die)
  messages : List Message
  deriving DecidableEq, Repr

/-- The machine right after power-on (R363 state Dark): nothing in memory, every register at the value of R81, R101,
R178, R224, R252, R274, R323 or 0 (log entries 1, 2). -/
def State.reset : State where
  cycle := 0
  cur := 0
  agenda := []
  freeCtr := 0
  boot := {}
  mem := []
  poison := []
  strands := []
  cores := []
  clusters := []
  dies := []
  messages := []

end Sys2Proof.Machine
end

