-- ==== Sys2Proof/Machine/Table.lean ====
section
/-! DEFINITION. Tables: association lists with strictly rising keys and no entry equal to the default. Memory is one,
with default byte 0 (log entry 2). -/

namespace Sys2Proof.Machine

/-- The entry of a key, or the default. -/
def tget {α : Type} (d : α) : List (Nat × α) → Nat → α
  | [], _ => d
  | (j, v) :: r, k => if j = k then v else tget d r k

/-- The table without a key. -/
def tdel {α : Type} : List (Nat × α) → Nat → List (Nat × α)
  | [], _ => []
  | (j, v) :: r, k => if j = k then tdel r k else (j, v) :: tdel r k

/-- The table with an entry put before the first greater key. -/
def tput {α : Type} : List (Nat × α) → Nat → α → List (Nat × α)
  | [], k, v => [(k, v)]
  | (j, w) :: r, k, v => if k < j then (k, v) :: (j, w) :: r else (j, w) :: tput r k v

/-- The table with a key set: writing the default removes the entry. -/
def tset {α : Type} [DecidableEq α] (d : α) (t : List (Nat × α)) (k : Nat) (v : α) : List (Nat × α) :=
  if v = d then tdel t k else tput (tdel t k) k v

/-- Every key of a table exceeds `k`. -/
def keysAbove {α : Type} (k : Nat) (t : List (Nat × α)) : Prop := ∀ e ∈ t, k < e.1

/-- The canonical form: keys strictly rising, no default entry. -/
def tableWf {α : Type} [DecidableEq α] (d : α) : List (Nat × α) → Bool
  | [] => true
  | (_, v) :: [] => decide (v ≠ d)
  | (j, v) :: (k, w) :: r => decide (v ≠ d) && decide (j < k) && tableWf d ((k, w) :: r)

/-- The canonical form of memory. -/
def Memory.wf (m : List Host.Cell) : Bool := tableWf 0 m

end Sys2Proof.Machine
end

