-- ==== Sys2Proof/Machine/Regs.lean ====
section
/-! DEFINITION. Reading and writing the state of strands, cores, clusters and dies: the one home of every register
(R98-R107, R169-R178). -/

namespace Sys2Proof.Machine
open Sys2Proof

/-- Core of a strand (R3). -/
def coreOf (n : Nat) : Nat := n / 3
/-- Number of a strand in its core: 0 L, 1 C, 2 S (R101). -/
def numOf (n : Nat) : Nat := n % 3
/-- Cluster of a core. -/
def clusterOf (k : Nat) : Nat := k / 8
/-- Die of a core. -/
def dieOfCore (k : Nat) : Nat := k / 128
/-- Die of a strand. -/
def dieOfStrand (n : Nat) : Nat := n / 384

/-- Whether a core is its die's steward core: core 7 of cluster 15 (R367). -/
def isSteward (c : Nat) : Bool := c % 128 == 127

/-- A strand. -/
def State.strand (s : State) (n : Nat) : Strand := tget {} s.strands n
/-- A core. -/
def State.core (s : State) (n : Nat) : Core := tget {} s.cores n
/-- A cluster. -/
def State.cluster (s : State) (n : Nat) : Cluster := tget {} s.clusters n
/-- A die. -/
def State.die (s : State) (n : Nat) : Die := tget {} s.dies n

/-- Replace a strand. -/
def State.setStrand (s : State) (n : Nat) (x : Strand) : State := { s with strands := tset {} s.strands n x }
/-- Replace a core. -/
def State.setCore (s : State) (n : Nat) (x : Core) : State := { s with cores := tset {} s.cores n x }
/-- Replace a cluster. -/
def State.setCluster (s : State) (n : Nat) (x : Cluster) : State := { s with clusters := tset {} s.clusters n x }
/-- Replace a die. -/
def State.setDie (s : State) (n : Nat) (x : Die) : State := { s with dies := tset {} s.dies n x }

/-- The strand whose unit runs. -/
def State.me (s : State) : Strand := s.strand s.cur
/-- Replace it. -/
def State.setMe (s : State) (x : Strand) : State := s.setStrand s.cur x
/-- Number of its core. -/
def State.myCore (s : State) : Nat := coreOf s.cur
/-- Number of its cluster. -/
def State.myCluster (s : State) : Nat := clusterOf (coreOf s.cur)
/-- Number of its die. -/
def State.myDie (s : State) : Nat := dieOfStrand s.cur
/-- Its core. -/
def State.kore (s : State) : Core := s.core s.myCore
/-- Replace its core. -/
def State.setKore (s : State) (x : Core) : State := s.setCore s.myCore x

/-- Where a strand keeps scalar register r (R98, R107). -/
def sregKey (swb : BitVec 3) (r : BitVec 5) : Nat :=
  if r.toNat < 16 then r.toNat else 16 + 16 * swb.toNat + (r.toNat - 16)

/-- A scalar register: s0 reads as zero (R98). -/
def Strand.sget (x : Strand) (r : BitVec 5) : Word := if r = 0 then 0 else tget 0 x.sregs (sregKey x.swb r)
/-- Write a scalar register: s0 discards (R98). -/
def Strand.sset (x : Strand) (r : BitVec 5) (w : Word) : Strand :=
  if r = 0 then x else { x with sregs := tset 0 x.sregs (sregKey x.swb r) w }

/-- A scalar register of the running strand. -/
def State.sget (s : State) (r : BitVec 5) : Word := s.me.sget r
/-- Write one. -/
def State.sset (s : State) (r : BitVec 5) (w : Word) : State := s.setMe (s.me.sset r w)

/-- p0 (R98). -/
def Pred.ones : Pred := ⟨BitVec.allOnes 64, true⟩
/-- A predicate: p0 is constant (R98). -/
def Strand.pget (x : Strand) (p : BitVec 3) : Pred := if p = 0 then Pred.ones else tget {} x.preds p.toNat
/-- Write a predicate: p0 discards (R98). -/
def Strand.pset (x : Strand) (p : BitVec 3) (v : Pred) : Strand :=
  if p = 0 then x else { x with preds := tset {} x.preds p.toNat v }

/-- A handle register (R98). -/
def Strand.hget (x : Strand) (h : BitVec 4) : HBits := tget 0 x.handles h.toNat
/-- Write one. -/
def Strand.hset (x : Strand) (h : BitVec 4) (v : HBits) : Strand := { x with handles := tset 0 x.handles h.toNat v }

/-- Partition size of strand n of a core, in rows (R102). -/
def partSize (part : BitVec 24) (n : Nat) : Nat := 16 * bits part.toNat (8 * n) 8
/-- First private-file row of the partition of strand n (R102). -/
def partBase (part : BitVec 24) (n : Nat) : Nat :=
  match n with
  | 0 => 0
  | 1 => partSize part 0
  | _ => partSize part 0 + partSize part 1

/-- Private-file row of vk (R107). -/
def vrow (part : BitVec 24) (n : Nat) (voff : Int) (k : Nat) : Nat :=
  let ps := partSize part n
  partBase part n + (if ps = 0 then 0 else ((voff + k) % (ps : Int)).toNat)

/-- Private-file row of vk of the running strand. -/
def State.vkey (s : State) (k : Nat) : Nat := vrow s.kore.part (numOf s.cur) s.me.voff k

/-- The content of a row operand (R62, R98). -/
def State.rowGet (s : State) (r : Row) : PRow :=
  match r with
  | .v n => tget {} s.kore.vfile (s.vkey n.toNat)
  | .b n => tget {} s.kore.band n.toNat
  | .o n => tget {} s.me.orows n.toNat

/-- Write a row; a band row becomes full (R172) and gives up its reservation (R174). -/
def State.rowSet (s : State) (r : Row) (v : PRow) : State :=
  match r with
  | .v n => s.setKore { s.kore with vfile := tset {} s.kore.vfile (s.vkey n.toNat) v }
  | .b n => s.setKore { s.kore with
      band := tset {} s.kore.band n.toNat v
      full := s.kore.full ||| (1#512 <<< n.toNat)
      reserved := tdel s.kore.reserved n.toNat }
  | .o n => s.setMe { s.me with orows := tset {} s.me.orows n.toNat v }

/-- Whether a band row is full (R172). -/
def Core.isFull (k : Core) (b : Nat) : Bool := k.full.getLsbD b

/-- Row k of a run that begins at r (R86). -/
def Row.plus (r : Row) (k : Nat) : Row :=
  match r with
  | .v n => .v (n + BitVec.ofNat 8 k)
  | .b n => .b (n + BitVec.ofNat 9 k)
  | .o n => .o (n + BitVec.ofNat 3 k)

/-- Band row k of a ring that begins at b (R202). -/
def ringRow (b : BitVec 9) (k : Nat) : Nat := (b.toNat + k) % 512

/-- A fresh free value (log entry 4). -/
def State.free (s : State) : State := { s with freeCtr := s.freeCtr + 1 }

/-- A record field of 8 bytes replaced in part: bits [lo + n - 1 : lo] of w become v. -/
def putBits (w lo n v : Nat) : Nat := w - bits w lo n * 2 ^ lo + v % 2 ^ n * 2 ^ lo

/-- The program counter keeps bits [1:0] at 0 (R57): what a handler address or a saved resume PC gives it (log entry 45). -/
def alignPc (w : Word) : Word := w &&& ~~~(3#64)

/-- Whether the clock enable of a core is stopped: by a tenant limit until firmware decides (R368), or by a late reply for
as long as it is late, or until LATE (R314). -/
def State.frozen (s : State) (c : Nat) : Bool :=
  match (s.core c).freeze with
  | none => false
  | some f => f.limit != 0 || decide (65536 ≤ f.late) || decide ((s.cycle - f.since).toNat < f.late)

/-- The cycle at which the clock of a core stands: this one, unless the core is frozen (R314, R368). -/
def coreNow (s : State) (c : Nat) : Word := match (s.core c).freeze with
  | some f => if s.frozen c then f.since + BitVec.ofNat 64 (if f.limit = 0 then min f.late 65536 else 0) else s.cycle
  | none => s.cycle

/-- The lanes a guard enables, from the predicates' lane bits (R66). -/
def guardLanes (x : Strand) (g : Guard) : Word :=
  let a := (x.pget g.a).lanes
  let b := (x.pget g.b).lanes
  let c := (x.pget g.c).lanes
  let pick (i : Nat) : Word :=
    if g.tt.getLsbD i then
      (if i / 4 % 2 = 1 then a else ~~~a) &&& (if i / 2 % 2 = 1 then b else ~~~b) &&& (if i % 2 = 1 then c else ~~~c)
    else 0
  pick 0 ||| pick 1 ||| pick 2 ||| pick 3 ||| pick 4 ||| pick 5 ||| pick 6 ||| pick 7

/-- Whether a uniform instruction's guard passes (R66). -/
def guardU (x : Strand) (g : Guard) : Bool :=
  g.tt.getLsbD (4 * b2n (x.pget g.a).u + 2 * b2n (x.pget g.b).u + b2n (x.pget g.c).u)

/-- The prefixes of a unit, gathered (R68): rounding mode and key, arithmetic bits, extension payload. -/
structure Mods where
  mode : RMode := .rne
  key : Nat := 0
  sat : Bool := false
  ftz : Bool := false
  q : Bool := false
  ext : Option (BitVec 25) := none
  deriving DecidableEq, Repr, Inhabited

/-- Gather a prefix list. -/
def modsOf : List Pfx → Mods
  | [] => {}
  | .round m k :: ps => { modsOf ps with mode := m, key := k.toNat }
  | .arith s f q :: ps => { modsOf ps with sat := s, ftz := f, q := q }
  | .imm x :: ps => { modsOf ps with ext := some x }

/-- An immediate field of w bits, sign-extended, or widened by the extension prefix (R69). -/
def immVal (m : Mods) (w : Nat) (field : Nat) : Int :=
  match m.ext with
  | none => sext w field
  | some x => sext (25 + w) (x.toNat * 2 ^ w + field % 2 ^ w)

/-- The same as a 64-bit word. -/
def immWord (m : Mods) (w field : Nat) : Word := BitVec.ofInt 64 (immVal m w field)

/-- The lane set of a list of lane numbers. -/
def laneMask : List Nat → Word
  | [] => 0
  | l :: ls => (1#64 <<< l) ||| laneMask ls

end Sys2Proof.Machine
end

