-- ==== Sys2Proof/Machine/Memory.lean ====
section
/-! DEFINITION. Memory: physical places (R2, R206, R253), the poison of blocks (R31), and translation with its TLB and
walker (R250-R254, R326). -/

namespace Sys2Proof.Machine
open Sys2Proof

/-- The place of an HBM address of a die. Addresses wrap at 64 GiB, so that a table base beyond the stack (RGNBASE, RECBASE,
HSQBASE) reaches no other die (log entry 46). -/
def hbmKey (die a : Nat) : Nat := die * 2 ^ 36 + a % 2 ^ 36
/-- The place of a byte of a cluster's vault (clusters numbered over the package). -/
def vaultKey (cluster off : Nat) : Nat := 2 ^ 41 + cluster * 2 ^ 26 + off
/-- The place of a host physical address. -/
def hostKey (a : Nat) : Nat := 2 ^ 57 + a

/-- Bytes of HBM of a die (R361): 48 GiB. -/
def hbmSize : Nat := 48 * 2 ^ 30
/-- Bytes of a vault that an address can reach (R206): the staging and lease-save areas above 43 MiB are the hardware's. -/
def vaultSize : Nat := 0x2B00000

/-- Whether the link runs CXL.cache and CXL.mem (R361). -/
def memOpen (s : State) : Bool := s.boot.linkWidth != 0 && decide (64 ≤ s.boot.linkRate)

/-- One byte. -/
def State.byte (s : State) (k : Nat) : Byte := tget 0 s.mem k
/-- Write one byte. -/
def State.setByte (s : State) (k : Nat) (b : Byte) : State := { s with mem := tset 0 s.mem k b }
/-- The poison bit of the 256-byte block of a place (R31). -/
def State.blockPoison (s : State) (k : Nat) : Bool := tget false s.poison (k / 256)
/-- Set the poison bit of a block. -/
def State.setBlockPoison (s : State) (k : Nat) (p : Bool) : State := { s with poison := tset false s.poison (k / 256) p }

/-- n bytes from a place. -/
def State.bytes (s : State) (k : Nat) : Nat → List Byte
  | 0 => []
  | n + 1 => s.byte k :: s.bytes (k + 1) n

/-- Write bytes from a place. -/
def State.setBytes (s : State) (k : Nat) : List Byte → State
  | [] => s
  | b :: bs => (s.setByte k b).setBytes (k + 1) bs

/-- A little-endian number of n bytes (R9). -/
def State.num (s : State) (k n : Nat) : Nat := natOfBytes (s.bytes k n)
/-- Write one. -/
def State.setNum (s : State) (k n v : Nat) : State := s.setBytes k (bytesOf n v)

/-- A row of 256 bytes with its block poison. -/
def State.rowAt (s : State) (k : Nat) : PRow := ⟨BitVec.ofNat 2048 (s.num k 256), s.blockPoison k⟩
/-- Write a whole block with its poison (a clean whole block clears it, R280). -/
def State.setRowAt (s : State) (k : Nat) (r : PRow) : State := (s.setNum k 256 r.bits.toNat).setBlockPoison k r.poison

/-- Owner die of an address (R250). -/
def vaDie (va : BitVec 56) : Nat := bits va.toNat 51 5
/-- Offset of an address. -/
def vaOff (va : BitVec 56) : Nat := bits va.toNat 0 51
/-- Home of an address: die 0 is the home of the host window (R326). -/
def homeOf (va : BitVec 56) : Nat := if vaDie va = 31 then 0 else vaDie va

/-- SPACE code (R244). -/
def spaceCode : Space → Nat
  | .fixed => 0
  | .stream => 1
  | .accrue => 2
  | .loose => 3

/-- The space of a code. -/
def spaceOf (c : Nat) : Space :=
  match c % 4 with
  | 0 => .fixed
  | 1 => .stream
  | 2 => .accrue
  | _ => .loose

/-- Page offset bits by PSIZE (R253). -/
def pageBits (p : Nat) : Nat :=
  match p % 4 with
  | 0 => 16
  | 1 => 21
  | 2 => 29
  | _ => 34

/-- Index fields (low bit, width) of each level, root first (R253). -/
def walkLevels (p : Nat) : List (Nat × Nat) :=
  match p % 4 with
  | 0 => [(43, 3), (34, 9), (25, 9), (16, 9)]
  | 1 => [(39, 7), (30, 9), (21, 9)]
  | 2 => [(38, 8), (29, 9)]
  | _ => [(43, 3), (34, 9)]

/-- What a walk finds. -/
inductive Walked where
  | leaf (w : Word)
  | absent
  | bad
  | nowhere (key : Nat)
  deriving DecidableEq, Repr, Inhabited

/-- The must-be-zero bits of an entry (R253); `last` when it is a leaf. -/
def entryBad (last : Bool) (e : Nat) : Bool :=
  bits e 56 8 != 0 || bits e 5 7 != 0 || (last && bit e 4 && bits e 30 26 != 0)

/-- The walk over the remaining levels (R253). A node beyond the die's 48 GiB is no storage (log entry 7); an entry with P = 0 is not present,
whatever else is set in it (log entry 64). -/
def walkFrom (s : State) (die node off : Nat) : List (Nat × Nat) → Walked
  | [] => .absent
  | (lo, n) :: rest =>
    let e := s.num (hbmKey die (node + 8 * bits off lo n)) 8
    if hbmSize ≤ node then .nowhere (hbmKey die node)
    else if !bit e 0 then .absent
    else if entryBad rest.isEmpty e then .bad
    else if rest.isEmpty then .leaf (BitVec.ofNat 64 e)
    else walkFrom s die (bits e 12 44 * 2 ^ 12) off rest

/-- Place of the leaf entry of an offset, when every level above is present (R269, R328). -/
def leafKey (s : State) (die node off : Nat) : List (Nat × Nat) → Option Nat
  | [] => none
  | [(lo, n)] => some (hbmKey die (node + 8 * bits off lo n))
  | (lo, n) :: rest =>
    let e := s.num (hbmKey die (node + 8 * bits off lo n)) 8
    if bit e 0 && decide (node < hbmSize) && !entryBad false e then leafKey s die (bits e 12 44 * 2 ^ 12) off rest else none

/-- The attribute-file entry of a space and address (R252, R326). -/
def rafOf (s : State) (sp : Space) (va : BitVec 56) : Word :=
  let d := s.die (homeOf va)
  let k := 32 * spaceCode sp + bits (vaOff va) 46 5
  if vaDie va = 31 then tget 0 d.hostRaf k else tget 0 d.raf k

/-- The address of the page that holds an address. -/
def pageOf (p : Nat) (va : BitVec 56) : BitVec 56 := BitVec.ofNat 56 (va.toNat / 2 ^ pageBits p * 2 ^ pageBits p)

/-- The outcome of a translation; `held` is the arbiter's, where it holds the request before it is translated. -/
inductive Xlat where
  | ok (key : Nat)
  | absent
  | perm
  | nowhere (key : Nat)
  | held
  deriving DecidableEq, Repr, Inhabited

/-- The access a permission check is made for (R254). -/
structure Need where
  rd : Bool := false
  wr : Bool := false
  deriving DecidableEq, Repr, Inhabited

/-- The place a leaf gives an address, after the permission check (R253, R254, R326). A leaf with both HOST and VLT set names host memory
(log entry 80). -/
def leafPlace (va : BitVec 56) (p : Nat) (leaf : Nat) (need : Need) : Xlat :=
  let d := homeOf va
  let off := vaOff va % 2 ^ pageBits p
  if (need.rd && !bit leaf 1) || (need.wr && !bit leaf 2) then .perm
  else if vaDie va = 31 && !bit leaf 3 then .perm
  else if bit leaf 3 then .ok (hostKey (bits leaf 12 44 * 2 ^ 12 + off))
  else if bit leaf 4 then
    let o := bits leaf 12 14 * 2 ^ 12 + off
    if o < vaultSize then .ok (vaultKey (d * 16 + bits leaf 26 4) o) else .nowhere (vaultKey (d * 16 + bits leaf 26 4) o)
  else
    let a := bits leaf 12 44 * 2 ^ 12 + off
    if a < hbmSize then .ok (hbmKey d a) else .nowhere (hbmKey d a)

/-- Look a page up in the TLB of its home. -/
def tlbFind (host : Bool) (sp : Space) (va : BitVec 56) : List TlbEntry → Option TlbEntry
  | [] => none
  | e :: r =>
    if e.host = host ∧ e.space = sp ∧ pageOf e.psize.toNat va = e.page then some e else tlbFind host sp va r

/-- Entries of a TLB (R251). -/
def tlbSize : Nat := 65536

/-- Enter a translation; a full TLB drops an entry of the implementation's choice (log entry 12). -/
def tlbFill (d : Nat) (x : Die) (e : TlbEntry) : Die :=
  let old := if x.tlb.length < tlbSize then x.tlb else x.tlb.eraseIdx (Config.tlbVictim d x.tlbSeq % x.tlb.length)
  { x with tlb := old ++ [e], tlbSeq := x.tlbSeq + 1 }

/-- A host place while the link is closed is no more reached than a page that is not present (R361; log entry 47). -/
def reachable (s : State) (x : Xlat) : Xlat :=
  match x with
  | .ok k => if hostKey 0 ≤ k ∧ !memOpen s then .absent else .ok k
  | x => x

/-- Translate an address of a space at its home (R251-R254): VALID of the slice, then the TLB, then a walk. -/
def translate (s : State) (sp : Space) (va : BitVec 56) (need : Need) : State × Xlat :=
  let d := homeOf va
  let host := vaDie va == 31
  let raf := (rafOf s sp va).toNat
  if !bit raf 63 then (s, .perm)
  else
    match tlbFind host sp va (s.die d).tlb with
    | some e => (s, reachable s (leafPlace va e.psize.toNat e.leaf.toNat need))
    | none =>
      let p := bits raf 60 2
      match walkFrom s d (bits raf 12 44 * 2 ^ 12) (vaOff va) (walkLevels p) with
      | .absent => (s, .absent)
      | .nowhere k => (s, .nowhere k)
      | .bad => (s.setDie d { s.die d with notices := .badEntry va :: (s.die d).notices }, .perm)
      | .leaf w =>
        (s.setDie d (tlbFill d (s.die d) ⟨host, sp, BitVec.ofNat 2 p, pageOf p va, w⟩),
          reachable s (leafPlace va p w.toNat need))

/-- The page base an access falls in: by the attribute file's page size. -/
def pageAt (s : State) (sp : Space) (va : BitVec 56) : BitVec 56 := pageOf (bits (rafOf s sp va).toNat 60 2) va

/-- The space a migration request names. -/
def MigReq.space (q : MigReq) : Space := spaceOf (bits q.cmd.toNat 57 2)

/-- R328 step 2: whether the arbiter holds requests to an address: it lies in the page that the home's migration unit has
checked, the first of its queue. -/
def migHolds (s : State) (va : BitVec 56) : Bool :=
  match (s.die (homeOf va)).migQueue with
  | q :: _ => vaDie va == vaDie q.va && pageAt s q.space va == pageAt s q.space q.va
  | [] => false

end Sys2Proof.Machine
end

