-- ==== Sys2Proof/Machine/Skein.lean ====
section
/-! DEFINITION. The skein of a die (R270, R271, R274) and the freezing of a core at a tenant limit (R368). -/

namespace Sys2Proof.Machine
open Sys2Proof

/-- Whether the skein of an address's home holds entries for its page (R270). -/
def pendingPage (s : State) (sp : Space) (page : BitVec 56) : Bool :=
  (s.die (homeOf page)).skein.any (fun e => e.space == sp && pageAt s sp e.va == page)

/-- Skein capacity (R270). -/
def skeinSize : Nat := 16384

/-- Skein entries a tenant may hold on a die (R368). -/
def tlimSk (x : Die) (t : Nat) : Nat := tget 16384 x.tlimSk t
/-- Matching entries a tenant may hold on a die (R368). -/
def tlimMt (x : Die) (t : Nat) : Nat := tget 1024 x.tlimMt t

/-- Skein entries of a tenant. -/
def skeinOf (x : Die) (t : Nat) : Nat := (x.skein.filter (fun e => e.tenant == t)).length

/-- Add an entry to a skein, with HIGH and the notification at SKTHR (R271, R274). -/
def skeinAdd (s : State) (d : Nat) (e : SkeinEntry) : State :=
  let x := s.die d
  let n := x.skein.length + 1
  let x := { x with
    skein := x.skein ++ [e]
    skHigh := if x.skHigh.toNat < n then BitVec.ofNat 16 n else x.skHigh
    notices := if n = x.skThr.toNat then .skeinLevel :: x.notices else x.notices }
  s.setDie d x

/-- Freeze a core at a tenant limit of a die (R368): limit 1 skein, 2 matching table. -/
def freezeCore (s : State) (d c limit : Nat) : State :=
  let s := s.setCore c { s.core c with freeze := some { limit := limit, since := s.cycle } }
  s.setDie d { s.die d with frz := (s.die d).frz ++ [(c, limit)], notices := .interrupt c :: (s.die d).notices }

/-- Whether the skein of a die takes n more entries of a tenant: yes, no room (held, R271), or past the limit (R368). -/
inductive Room where
  | yes | full | limit
  deriving DecidableEq, Repr, Inhabited

/-- R271, R368: room for n entries of a request from a core; the requests of firmware itself, which the steward core runs, are
never held. -/
def skeinRoom (s : State) (d tenant core n : Nat) : Room :=
  let x := s.die d
  if n = 0 ∨ isSteward core then .yes
  else if tlimSk x tenant < skeinOf x tenant + n then .limit
  else if skeinSize < x.skein.length + n then .full
  else .yes

end Sys2Proof.Machine
end

