-- ==== Sys2Proof/Machine/Records.lean ====
section
/-! DEFINITION. Launch records, jobs and forwarding (R298-R307, R312): the bytes of a record and what its arbiter does
with them. -/

namespace Sys2Proof.Machine
open Sys2Proof

/-- Place of record n of a die (R298). -/
def recKey (s : State) (d n : Nat) : Nat := hbmKey d ((s.die d).recBase.toNat + 256 * n)
/-- An 8-byte field of a record. -/
def State.recWord (s : State) (d n off : Nat) : Nat := s.num (recKey s d n + off) 8
/-- Write one. -/
def State.setRecWord (s : State) (d n off v : Nat) : State := s.setNum (recKey s d n + off) 8 v

/-- STATE of a record: 0 Idle, 1 Patched, 2 Armed, 3 Ready, 4 Running, 5 Done, 6 Failed. -/
def State.recState (s : State) (d n : Nat) : Nat := bits (s.recWord d n 0) 0 3
/-- Replace bits [lo + w - 1 : lo] of a record field. -/
def State.setRecBits (s : State) (d n off lo w v : Nat) : State := s.setRecWord d n off (putBits (s.recWord d n off) lo w v)
/-- TENANT of a record. -/
def State.recTenant (s : State) (d n : Nat) : Nat := bits (s.recWord d n 0) 22 7

/-- What the queue manager keeps of a record. -/
def State.recx (s : State) (d n : Nat) : RecX := tget {} (s.die d).recx n
/-- Replace it. -/
def State.setRecx (s : State) (d n : Nat) (x : RecX) : State :=
  s.setDie d { s.die d with recx := tset {} (s.die d).recx n x }

/-- Read n bytes at a virtual address by the hardware itself, from the page of the first byte. -/
def hwRead (s : State) (sp : Space) (va : BitVec 56) (n : Nat) : State × Option (List Byte) :=
  match translate s sp va { rd := true } with
  | (s', .ok k) => (s', some (s'.bytes k n))
  | (s', _) => (s', none)

/-- An 8-byte word of a byte list. -/
def wordAt (bs : List Byte) (off : Nat) : Nat := natOfBytes ((bs.drop off).take 8)
/-- A 4-byte word of a byte list. -/
def word32At (bs : List Byte) (off : Nat) : Nat := natOfBytes ((bs.drop off).take 4)

/-- The pricking bytes of a record (R216); none where they cannot be read. -/
def recPricking (s : State) (d n : Nat) : State × Option (List Byte) :=
  hwRead s .fixed (BitVec.ofNat 56 (s.recWord d n 8)) 512

/-- A record becomes Ready: a new launch begins (R82, R300). -/
def makeReady (s : State) (d n : Nat) : State :=
  let x := s.recx d n
  let q := (s.die d).readySeq
  let s := s.setRecx d n { launch := x.launch + 1, order := q, readyAt := s.cycle }
  let s := s.setDie d { s.die d with readySeq := q + 1 }
  s.setRecBits d n 0 0 3 3

/-- One decrement of WAITC: an Armed record becomes Ready when it reaches 0 (R300, R312). -/
def decWait (s : State) (d n : Nat) : State :=
  let w := bits (s.recWord d n 0x10) 16 16
  let armed := s.recState d n == 2
  let s := s.setRecBits d n 0x10 16 16 (w - 1)
  if armed && decide (w ≤ 1) then makeReady s d n else s

/-- The job a record belongs to: home die and number. -/
def State.recJob (s : State) (d n : Nat) : Nat × Nat :=
  let w := s.recWord d n 0x10
  (bits w 44 5, bits w 32 12)

/-- A job. -/
def State.job (s : State) (d j : Nat) : Job := tget {} (s.die d).jobs j
/-- Replace it. -/
def State.setJob (s : State) (d j : Nat) (x : Job) : State := s.setDie d { s.die d with jobs := tset {} (s.die d).jobs j x }

/-- R300, R303, R307: `lrec.arm` of a record for a releasing party of some tenant; a refusal is its sub-code. -/
def armRecord (s : State) (tenant d n : Nat) : Except Nat State :=
  match s.recState d n with
  | 2 => .ok (decWait s d n)
  | 3 => .error 3
  | 4 => .error 3
  | 7 => .error 3
  | _ =>
    let (jd, j) := s.recJob d n
    let job := s.job jd j
    if job.tenant.toNat ≠ tenant then .error 2
    else if job.count = BitVec.allOnes 32 then .error 4
    else
      let s := s.setJob jd j { job with count := job.count + 1 }
      let (s, pk) := recPricking s d n
      let pure := match pk with
        | some bs => bit (wordAt bs 0) 12
        | none => false
      let w := s.recWord d n 0
      let w := putBits (putBits (putBits w 32 32 0) 9 1 0) 8 1 (b2n pure)
      let s := s.setRecWord d n 0 (putBits w 0 3 2)
      if bits (s.recWord d n 0x10) 16 16 = 0 then .ok (makeReady s d n) else .ok s

/-- Whether the migration unit holds the page of a record's pricking: the queue manager's read of it waits (R328). -/
def prickHeld (s : State) (d n : Nat) : Bool := migHolds s (BitVec.ofNat 56 (s.recWord d n 8))

/-- Whether an arm that R300 takes has to read the record's pricking, and its page moves (R299, R328). -/
def armHeld (s : State) (tenant d n : Nat) : Bool :=
  prickHeld s d n && s.recState d n != 2 && (match armRecord s tenant d n with
    | .ok _ => true
    | .error _ => false)

/-- R307: a record reaching Done or Failed decrements its job; a count of 0 wraps (log entry 86). -/
def jobDone (s : State) (job : Nat × Nat) : State :=
  let x := s.job job.1 job.2
  s.setJob job.1 job.2 { x with count := x.count - 1 }

/-- Consumer die and record of a FWD word. -/
def fwdTo (fwd : Nat) : Nat × Nat := (bits fwd 12 5, bits fwd 0 12)

/-- R304: the forward of a record that reached Done or Failed. An arm that R301 would refuse (the consumer's or its job's tenant, a
full job) moves nothing either (log entry 44). -/
def forwardRecord (s : State) (d : Nat) (f : Forward) : State :=
  let n := f.record
  if !bit f.fwd 63 then s
  else
    let (cd, c) := fwdTo f.fwd
    let slot := bits f.fwd 17 2
    let bind (s : State) : State :=
      match f.out with
      | none => s
      | some h =>
        let s := s.setNum (recKey s cd c + 0x40 + 32 * slot) 32 h.toNat
        s.setRecBits cd c 0x28 (4 * slot) 4 0xF
    let refusedBit (s : State) : State := s.setRecBits d n 0 63 1 1
    if s.recTenant cd c ≠ s.recTenant d n then refusedBit s
    else match s.recState cd c with
    | 3 => refusedBit s
    | 4 => refusedBit s
    | _ =>
      match armRecord (bind s) (s.recTenant d n) cd c with
      | .ok s' => s'
      | .error _ => refusedBit s

/-- R300: a record that has reached Done or Failed forwards and decrements its job, in this order; both wait while the consumer's arm is
held (R328). -/
def endForward (s : State) (d : Nat) (f : Forward) : State :=
  let (cd, c) := fwdTo f.fwd
  if bit f.fwd 63 && s.recTenant cd c == s.recTenant d f.record && armHeld s (s.recTenant d f.record) cd c then
    s.setDie d { s.die d with forwards := (s.die d).forwards ++ [f] }
  else jobDone (forwardRecord s d f) f.job

/-- The end of a record, `out` its bound output handle if it declares one. -/
def endRecord (s : State) (d n : Nat) (out : Option HBits) : State := endForward s d ⟨n, s.recWord d n 0x20, s.recJob d n, out⟩

/-- The forwards that were held proceed, but for those that are held still (R328 step 4). -/
def heldForwards (s : State) : State :=
  s.dies.foldl (fun (s : State) (e : Nat × Die) =>
    e.2.forwards.foldl (fun s f => endForward s e.1 f) (s.setDie e.1 { s.die e.1 with forwards := [] })) s

/-- The record's declared output slot, from its pricking (R216). -/
def pricksOut (bs : List Byte) : Option Nat := if bit (wordAt bs 0x68) 3 then some (bits (wordAt bs 0x68) 0 3) else none

/-- Handle slot k of a record as it stands at stitch start: overridden quarters from the record (R299). -/
def slotHandle (s : State) (d n : Nat) (bs : List Byte) (k : Nat) : HBits :=
  let base := natOfBytes ((bs.drop (0xA0 + 32 * k)).take 32)
  if 4 ≤ k then BitVec.ofNat 256 base
  else
    let ovr := bits (s.recWord d n 0x28) (4 * k) 4
    let q (i : Nat) : Nat :=
      if bit ovr i then s.num (recKey s d n + 0x40 + 32 * k + 8 * i) 8 else bits base (64 * i) 64
    BitVec.ofNat 256 (q 0 + 2 ^ 64 * q 1 + 2 ^ 128 * q 2 + 2 ^ 192 * q 3)

/-- The declared output slot of a record, as it stands. -/
def recOut (s : State) (d n : Nat) : State × Option HBits :=
  match recPricking s d n with
  | (s, some bs) => (s, (pricksOut bs).map (slotHandle s d n bs))
  | (s, none) => (s, none)

/-- The declared output slot of a record that runs, as dispatch found it. -/
def RecX.out (x : RecX) : Option HBits := if x.declares then some x.outHandle else none

/-- Ask the cores that run a record to stop their strands at the next unit boundary, and drop the staged entries of
its stitches (R300). -/
def stopStitches (s : State) (id : LaunchId) : State :=
  let hit (k : Core) : Bool := match k.stitch with
    | some t => t.id == id
    | none => false
  { s with
    cores := s.cores.map (fun e => if hit e.2 then (e.1, { e.2 with stopReq := true }) else e)
    clusters := s.clusters.map (fun e => (e.1, { e.2 with
      window := e.2.window.filter (fun a => a.id != id)
      staging := e.2.staging.filter (fun a => a.id != id) })) }

/-- STITCH (R112). -/
def cSTITCH : BitVec 8 := 0x12

/-- A completion entry (R180). -/
def entryWord (seq : BitVec 16) (status : BitVec 8) (poison : Bool) (e chan count : Nat) : Word :=
  BitVec.ofNat 64 (seq.toNat * 2 ^ 48 + status.toNat * 2 ^ 40 + b2n poison * 2 ^ 39 + e * 2 ^ 36 + chan * 2 ^ 32
    + min count (2 ^ 32 - 1))

/-- Record the word of a collective number. -/
def recordWord (x : Die) (n : BitVec 16) (w : Word) : Die :=
  { x with collWords := tput (tdel x.collWords n.toNat) n.toNat w }

/-- The collectives end whose commands the saved stitches of a launch still had to start (R179, R300; log entry 37). -/
def endSaved (s : State) (id : LaunchId) (xs : List Suspended) : State :=
  let gone (c : Coll) : Bool := c.id == id && !c.started && xs.any (fun u => u.saved && u.stitch.lin == c.lin)
  { s with dies := s.dies.map (fun e => (e.1, (e.2.colls.filter gone).foldl (fun x c =>
      recordWord { x with
        colls := x.colls.filter (fun q => q.num != c.num)
        tracks := x.tracks.filter (fun t => t.num != c.num) } c.num (entryWord c.seq cSTITCH true 3 0 0)) e.2)) }

/-- R310: a raised EPRIO ends when the record leaves Running. -/
def dropEprio (s : State) (d n : Nat) : State := s.setRecBits d n 0 10 6 (bits (s.recWord d n 0) 16 6)

/-- R300: a record becomes Failed with the cause of its first failure. A launch that is over changes nothing. -/
def failRecord (s : State) (id : LaunchId) (cause : BitVec 8) : State :=
  let d := id.die
  let n := id.record
  if (s.recx d n).launch ≠ id.launch then s
  else match s.recState d n with
    | 4 =>
      let s := (s.setRecBits d n 0 0 3 6).setRecBits d n 0 32 32 cause.toNat
      let s := stopStitches s id
      let s := endSaved s id (s.recx d n).suspended
      let s := s.setRecx d n { s.recx d n with suspended := [], recasting := false }
      dropEprio (endRecord s d n (s.recx d n).out) d n
    | 5 => (s.setRecBits d n 0 0 3 6).setRecBits d n 0 32 32 cause.toNat
    | _ => s

/-- R381: a dispatch check fails. -/
def failDispatch (s : State) (d n : Nat) (status sub : BitVec 8) : State :=
  let s := (s.setRecBits d n 0 0 3 6).setRecBits d n 0 32 32 status.toNat
  let s := s.setDie d { s.die d with notices := .dispatch n status sub :: (s.die d).notices }
  let (s, out) := recOut s d n
  endRecord s d n out

/-- R300: a record reaches Done with a STATUS word and a bound output handle; it forwards and decrements its job. Only one that leaves
Running, not one that the Sampler ends at dispatch, loses a raised EPRIO (R310). -/
def doneRecord (s : State) (d n : Nat) (status : BitVec 32) (reused : Bool) (out : Option HBits) : State :=
  let w := s.recWord d n 0
  let ran := bits w 0 3 == 4
  let w := putBits (putBits (putBits w 0 3 5) 9 1 (b2n reused)) 32 32 status.toNat
  let s := endRecord (s.setRecWord d n 0 w) d n out
  if ran then dropEprio s d n else s

/-- R312: bytes delivered under a tag count towards the entry of that tag; a full count frees the entry and decrements
the linked record's WAITC, in whatever state the record is. -/
def countTag (s : State) (d : Nat) (tag : BitVec 32) (n : Nat) : State :=
  let x := s.die d
  match x.matching.find? (fun e => e.tag == tag) with
  | none => s
  | some e =>
    if e.count + n < e.expect then
      s.setDie d { x with matching := x.matching.map (fun f => if f.tag == tag then { f with count := f.count + n } else f) }
    else
      let s := s.setDie d { x with matching := x.matching.filter (fun f => f.tag != tag) }
      decWait s d e.record

end Sys2Proof.Machine
end

