-- ==== Sys2Proof/Machine/Handle.lean ====
section
/-! DEFINITION. Handles and tiles (R195, R255, R256, R279). -/

namespace Sys2Proof.Machine
open Sys2Proof

/-- A field of a handle: bits [lo + n - 1 : lo] (R255). -/
def hfield (h : HBits) (lo n : Nat) : Nat := bits h.toNat lo n
/-- A handle with a field replaced. -/
def hput (h : HBits) (lo n v : Nat) : HBits := BitVec.ofNat 256 (putBits h.toNat lo n v)

/-- SPACE. -/
def hSpace (h : HBits) : Space := spaceOf (hfield h 0 2)
/-- GEN. -/
def hGen (h : HBits) : Nat := hfield h 2 16
/-- REGION. -/
def hRegion (h : HBits) : Nat := hfield h 18 18
/-- BASE. -/
def hBase (h : HBits) : BitVec 56 := BitVec.ofNat 56 (hfield h 36 56)
/-- FMT code. -/
def hFmtCode (h : HBits) : Nat := hfield h 92 6
/-- BLOCK code. -/
def hBlock (h : HBits) : Nat := hfield h 98 4
/-- RANK. -/
def hRank (h : HBits) : Nat := hfield h 102 4
/-- Extent of dimension d, 0 standing for 65,536 and dimensions at or above RANK for 1 (R255, R279). -/
def hExt (h : HBits) (d : Nat) : Nat :=
  if hRank h ≤ d then 1
  else
    let x := hfield h (106 + 16 * d) 16
    if x = 0 then 65536 else x
/-- Stride of dimension d in elements; dimension 0 has stride 1 (R195). -/
def hStride (h : HBits) (d : Nat) : Nat := if d = 0 then 1 else hfield h (170 + 20 * (d - 1)) 20
/-- AFLSB, signed (R41). -/
def hAflsb (h : HBits) : Int := sext 12 (hfield h 230 12)
/-- SCALEH. -/
def hScale (h : HBits) : BitVec 4 := BitVec.ofNat 4 (hfield h 242 4)
/-- FLAGS.DV. -/
def hDv (h : HBits) : Bool := bit h.toNat 255
/-- FLAGS.VL. -/
def hVl (h : HBits) : Bool := bit h.toNat 254

/-- The format of a handle (R19). -/
def hFmt (h : HBits) : Option Fmt := Fmt.ofCode (hFmtCode h)
/-- Element width in bits of a handle's format; 0 for a reserved code. -/
def hWidth (h : HBits) : Nat := match hFmt h with
  | some f => f.width
  | none => 0

/-- R256 step 1: a reserved FLAGS bit, BLOCK or FMT value, or RANK. -/
def hLegal (h : HBits) : Bool :=
  hfield h 246 7 == 0 && decide (hBlock h ≤ 6) && (hFmt h).isSome && decide (1 ≤ hRank h) && decide (hRank h ≤ 4)

/-- The number of elements of a tile (R279). -/
def hCount (h : HBits) : Nat := hExt h 0 * hExt h 1 * hExt h 2 * hExt h 3

/-- The element offset from BASE of element number e, in elements (R195, R279). -/
def elemOffset (h : HBits) (e : Nat) : Nat :=
  let x0 := hExt h 0
  let x1 := hExt h 1
  let x2 := hExt h 2
  e % x0 + e / x0 % x1 * hStride h 1 + e / (x0 * x1) % x2 * hStride h 2 + e / (x0 * x1 * x2) * hStride h 3

/-- The address of an element of w bits at element offset o: its byte, and whether it is the high nibble (R20). -/
def offsetAddr (h : HBits) (w o : Nat) : BitVec 56 × Bool := (hBase h + BitVec.ofNat 56 (o * w / 8), w == 4 && o % 2 == 1)

/-- The address of element number e at width w bits. -/
def elemAddr (h : HBits) (w e : Nat) : BitVec 56 × Bool := offsetAddr h w (elemOffset h e)

/-- A die field of 24-30 (R250, R256). -/
def reservedDie (va : BitVec 56) : Bool := decide (24 ≤ vaDie va) && decide (vaDie va ≤ 30)

/-- R256 step 2: SPACE differs from the space the opcode has, if it has one. -/
def spaceWrong (h : HBits) (sp : Option Space) : Bool := match sp with
  | some sp => hSpace h != sp
  | none => false

/-- R256 step 3, R250, R326: a reserved die, or a Stream or Accrue access to the host window. -/
def dieWrong (h : HBits) (sp : Option Space) : Bool :=
  reservedDie (hBase h) || (vaDie (hBase h) == 31 && (sp == some .stream || sp == some .accrue))

/-- Element width in bits of a memory instruction (R86). -/
def ewBits : EW → Nat
  | .w4 => 4
  | .w8 => 8
  | .w16 => 16
  | .w32 => 32

/-- R276 step 2: elements of w bits fit the handle's format. -/
def widthFits (h : HBits) (w : Nat) : Bool :=
  hWidth h == w || (w == 32 && (hFmt h == some .int64 || hFmt h == some .af128))

/-- Whether an atomic's width fits the handle's format (R276, R288). -/
def amoFits (h : HBits) (f : AmoF) : Bool := if f.w64 then hWidth h == 64 else widthFits h 32

/-- Numbers from 0 up to n - 1. -/
def upto : Nat → List Nat
  | 0 => []
  | n + 1 => upto n ++ [n]

/-- Poison at its home every block of a run of n bytes, in the space of a skein entry. On a page that is not present, or has entries
pending, the poison enters the skein as a store that writes no byte, and is performed with the page's other entries (R270, R315; log
entry 58). -/
def poisonRun (s : State) (e : SkeinEntry) (va : BitVec 56) (n : Nat) : State :=
  (upto ((va.toNat % 256 + n + 255) / 256)).foldl (fun s i =>
    let b := va + BitVec.ofNat 56 (256 * i)
    match translate s e.space b {} with
    | (s, x) =>
      if x == .absent || pendingPage s e.space (pageAt s e.space b) then
        skeinAdd s (homeOf b) { e with va := BitVec.ofNat 56 (b.toNat / 256 * 256), op := .store [] [0] }
      else match x with
        | .ok k => s.setBlockPoison k true
        | _ => s) s

/-- Poison every block under the extent of a stitch's output handle (R315). -/
def poisonExtent (s : State) (t : Stitch) : State :=
  let h := t.outHandle
  let e : SkeinEntry := { space := hSpace h, id := t.id, tenant := t.tenant, handle := h }
  (upto (hExt h 1 * hExt h 2 * hExt h 3)).foldl (fun s i =>
    poisonRun s e (elemAddr h (hWidth h) (i * hExt h 0)).1 ((hExt h 0 * hWidth h + 7) / 8)) s

end Sys2Proof.Machine
end

