-- ==== Sys2Proof/Machine/Ops.lean ====
section
/-! DEFINITION. The shared operations: taking a trap and returning from one (R112-R115), waits and their expiry (R55,
R113, R175), fetching parcels, the checks of a transfer (R72), and running one unit (R66, R67, R71, R74). -/

namespace Sys2Proof.Machine
open Sys2Proof

/-- A trap: cause code, sub-code, TVAL and TLANES (R112). -/
structure TrapInfo where
  cause : BitVec 8
  sub : BitVec 8 := 0
  tval : Word := 0
  lanes : Word := 0
  deriving DecidableEq, Repr, Inhabited

/-- Cause codes (R112). -/
def cILL : BitVec 8 := 0x01
def cORPHAN : BitVec 8 := 0x02
def cPFXKIND : BitVec 8 := 0x03
def cLANDING : BitVec 8 := 0x04
def cALIGN : BitVec 8 := 0x05
def cPORT : BitVec 8 := 0x06
def cPRIV : BitVec 8 := 0x07
def cWINDOW : BitVec 8 := 0x08
def cWAIT : BitVec 8 := 0x09
def cROLE : BitVec 8 := 0x0A
def cABSENT : BitVec 8 := 0x0B
def cPERM : BitVec 8 := 0x0C
def cPURITY : BitVec 8 := 0x0D
def cMXCOMBO : BitVec 8 := 0x0E
def cLEASE : BitVec 8 := 0x0F
def cPOISON : BitVec 8 := 0x10
def cLATE : BitVec 8 := 0x11
def cSTALEPKT : BitVec 8 := 0x13
def cSOFT : BitVec 8 := 0x15

/-- The system class (R112, R114): it always fails the stitch and notifies firmware. -/
def systemClass (c : BitVec 8) : Bool := c == cPURITY || c == cLATE || c == cSTITCH

/-- The trap registers after a trap of a strand (R114 step 2). -/
def Strand.setTrap (x : Strand) (t : TrapInfo) : Strand :=
  { x with tcause := BitVec.ofNat 16 (t.sub.toNat * 256 + t.cause.toNat), tpc := x.pc, tval := t.tval, tlanes := t.lanes }

/-- What a unit keeps while it waits: nothing of it remains. -/
def Strand.unitOver (x : Strand) : Strand :=
  { x with wait := none, held := [], wants := [], absent := [], amoReply := none, taken := none, saved := 0, age := none, got := [] }

/-- A unit is abandoned: its wait, captured rows, reservations and lease request go (R114 step 1, R174, R186, R227). -/
def abandonUnit (s : State) (n : Nat) : State :=
  let s := s.setStrand n (s.strand n).unitOver
  let c := coreOf n
  let k := s.core c
  let s := s.setCore c { k with reserved := k.reserved.filter (fun e => e.2 != n) }
  let cl := s.cluster (clusterOf c)
  if cl.requests = [] then s
  else s.setCluster (clusterOf c) { cl with requests := cl.requests.filter (fun q => q.strand != n || q.resume.isSome) }

/-- Stop the three strands of a core: the stitch has failed (R114 step 4). -/
def stopCore (s : State) (c : Nat) : State :=
  (upto 3).foldl (fun s i =>
    let n := 3 * c + i
    let s := abandonUnit s n
    let x := s.strand n
    if x.phase = .running then s.setStrand n { x with phase := .stopped } else s) s

/-- R114 step 4, R315: the stitch of a strand fails with a cause. -/
def failStitch (s : State) (n : Nat) (cause : BitVec 8) : State :=
  let c := coreOf n
  let s := stopCore s c
  match (s.core c).stitch with
  | none => s
  | some t =>
    let s := s.setCore c { s.core c with stitch := some { t with failed := true } }
    let s := if cause = cPURITY ∧ t.outSlot.isSome then poisonExtent s t else s
    failRecord s t.id cause

/-- R114: deliver a trap to a strand. A user-class cause with a handler, outside a handler, continues at THND with INH
set; anything else fails the stitch; the system class also notifies firmware. -/
def deliverTrap (s : State) (n : Nat) (t : TrapInfo) : State :=
  let s := abandonUnit s n
  let x := (s.strand n).setTrap t
  if !systemClass t.cause && x.thnd != 0 && !x.inh then
    s.setStrand n { x with inh := true, pc := alignPc (x.thnd.setWidth 64) }
  else
    let s := s.setStrand n x
    let s := failStitch s n t.cause
    if systemClass t.cause then
      let d := dieOfStrand n
      s.setDie d { s.die d with notices := .system n x.tcause :: (s.die d).notices }
    else s

/-- R115: what `eret` does with INH = 1: INH falls and the strand continues at TPC. -/
def Strand.returnFromTrap (x : Strand) : Strand := { x with inh := false, pc := x.tpc }

/-- How a meaning ends without completing: a trap, a wait, or a stop. The state holds what was performed. -/
inductive Halt where
  | trap (s : State) (t : TrapInfo)
  | wait (s : State) (k : WaitKind) (lim : Option Nat)
  | stop (f : Fault)

/-- Where a completed unit goes: past itself, to an address, or nowhere (the meaning moved the strand itself). -/
inductive Go where
  | fall
  | jump (pc : Word)
  | stay

/-- What a meaning's body answers. -/
abbrev Body := Except Halt (State × Go)

/-- One cycle passes (log entry 6). -/
def State.tick (s : State) : State := { s with cycle := s.cycle + 1 }

/-- A trap raised before anything was performed. -/
def raise {α : Type} (s : State) (cause : BitVec 8) (tval : Word := 0) (sub : BitVec 8 := 0) (lanes : Word := 0) :
    Except Halt α := .error (.trap s ⟨cause, sub, tval, lanes⟩)

/-- The parcels of an instruction as TVAL gives them (R73). -/
def parcelsWord (i : Instr) : Word := tvalOf (encodeCore i)

/-- Bytes of a unit, prefixes included. -/
def unitLen (i : Instr) : Nat := 4 * (encode i).length

/-- ILL with the instruction's parcels (R73). -/
def ill {α : Type} (s : State) (i : Instr) : Except Halt α := raise s cILL (parcelsWord i)

/-- The ports (R167). -/
inductive Port where
  | m | x | t | w
  deriving DecidableEq, Repr, Inhabited

/-- Number of a port in PORTMAP and TVAL (R101, R112). -/
def Port.num : Port → Nat
  | .m => 0
  | .x => 1
  | .t => 2
  | .w => 3

/-- Owner of a port (R101). -/
def portOwner (map : BitVec 8) (p : Port) : Nat := bits map.toNat (2 * p.num) 2

/-- PRIV in user mode (R73, R112). -/
def privCheck (i : Instr) (s : State) : Option TrapInfo :=
  if s.me.mode then none else some { cause := cPRIV, tval := parcelsWord i }

/-- No check before the guard. -/
def noCheck (_ : State) : Option TrapInfo := none

/-- A completed unit: the strand moves on, and nothing of its waits remains. -/
def completeUnit (i : Instr) (s : State) (g : Go) : State :=
  let x := s.me
  let pc := match g with
    | .fall => x.pc + BitVec.ofNat 64 (unitLen i)
    | .jump t => t
    | .stay => x.pc
  s.setMe { x.unitOver with pc := pc }

/-- Band waits of one unit are one wait (R175); any other wait is its own. -/
def sameWait (a b : WaitKind) : Bool :=
  match a, b with
  | .bandFull _, .bandEmpty _ => true
  | .bandEmpty _, .bandFull _ => true
  | .bandFull _, .bandFull _ => true
  | .bandEmpty _, .bandEmpty _ => true
  | a, b => a == b

/-- R55, R175: a unit that cannot proceed. A limit of 0 tests once, so the wait expires at once; otherwise the unit keeps
its place, and since the first cycle it could not proceed in. -/
def beginWait (s : State) (k : WaitKind) (lim : Option Nat) : State :=
  let since := match s.me.wait with
    | some w => if sameWait w.kind k then w.since else s.cycle
    | none => s.cycle
  s.setMe { s.me with wait := some ⟨k, since, lim⟩ }

/-- The address field of a `recast.wait`, `sts` or `lds` wait at the home is read by `waitTval` below; this gives the
region descriptor's place (R257). -/
def rgnKey (s : State) (d r : Nat) : Nat := hbmKey d ((s.die d).rgnBase.toNat + 256 * r)
/-- An 8-byte field of a descriptor. -/
def State.rgnWord (s : State) (d r off : Nat) : Nat := s.num (rgnKey s d r + off) 8
/-- Write one. -/
def State.setRgnWord (s : State) (d r off v : Nat) : State := s.setNum (rgnKey s d r + off) 8 v

/-- Number of runs of a region (R257). -/
def rgnRuns (s : State) (d r : Nat) : Nat := bits (s.rgnWord d r 8) 60 4 + 1
/-- Run i of a region: first bolt, role, generation (R257). -/
def rgnRun (s : State) (d r i : Nat) : Nat × Space × Nat :=
  let w := s.rgnWord d r (0x40 + 8 * i)
  (bits w 0 32, spaceOf (bits w 32 2), bits w 34 16)
/-- The runs, in ascending order (R258). -/
def rgnRunList (s : State) (d r : Nat) : List (Nat × Space × Nat) := (upto (rgnRuns s d r)).map (rgnRun s d r)
/-- BASE of a region as an offset, its BOLTS, its STATE (R257). -/
def rgnBase (s : State) (d r : Nat) : Nat := bits (s.rgnWord d r 0) 16 35 * 2 ^ 16
def rgnBolts (s : State) (d r : Nat) : Nat := bits (s.rgnWord d r 8) 0 32
def rgnState (s : State) (d r : Nat) : Nat := bits (s.rgnWord d r 0) 61 2

/-- The run that holds a bolt. -/
def runAt (rs : List (Nat × Space × Nat)) (b : Nat) : Option (Nat × Space × Nat) :=
  (rs.filter (fun e => e.1 ≤ b)).getLast?

/-- The die field of the addresses of region r at home d: descriptors 258,048 up of die 0 are the host window's (R326). -/
def rgnDie (d r : Nat) : Nat := if d = 0 ∧ 258048 ≤ r then 31 else d

/-- Address of the pointer block of a Stream region's word w (W, R, C, WROW, RROW, producer, consumer) (R246). -/
def ringPtrVa (s : State) (d r w : Nat) : BitVec 56 :=
  let z := 256 * bits (s.rgnWord d r 0x38) 0 16
  let n := bits (s.rgnWord d r 0x38) 16 16
  BitVec.ofNat 56 (rgnDie d r * 2 ^ 51 + rgnBase s d r + n * z + 16 * n + 8 * w)

/-- A word of the pointer block; 0 where it cannot be reached. -/
def ringPtr (s : State) (d r w : Nat) : Nat :=
  match (translate s .stream (ringPtrVa s d r w) {}).2 with
  | .ok k => s.num k 8
  | _ => 0

/-- Engine state of a core. -/
def Core.engine (k : Core) (e : Nat) : Engine := tget {} k.eng e
/-- Replace it. -/
def Core.setEngine (k : Core) (e : Nat) (x : Engine) : Core := { k with eng := tset {} k.eng e x }

/-- The record a wait names: die and number (R298). -/
def nameDie (w : Word) : Nat := bits w.toNat 12 5
def nameNum (w : Word) : Nat := bits w.toNat 0 12

/-- Commands queued for an engine of a core; the array keeps engine 1's (R178, R210). -/
def queuedFor (s : State) (c e : Nat) : Nat :=
  if e = 1 then
    let cl := s.cluster (clusterOf c)
    (cl.queue.filter (fun q => coreOf q.strand == c)).length
  else ((s.core c).engine e).queue.length

/-- End bolt of run i of a list. -/
def runEnd (rs : List (Nat × Space × Nat)) (bolts i : Nat) : Nat := match rs[i + 1]? with
  | some e => e.1
  | none => bolts

/-- The runs that touch bolts [lo, hi). -/
def runsOver (rs : List (Nat × Space × Nat)) (bolts lo hi : Nat) : List (Nat × Space × Nat) :=
  (rs.zipIdx.filter (fun e => decide (e.1.1 < hi) && decide (lo < runEnd rs bolts e.2))).map (·.1)

/-- The last byte a handle's extent spans, as an offset (R264): a Stream handle gives slot size in bytes and slot count (R255). -/
def extentEnd (h : HBits) : Nat :=
  if hSpace h = .stream then vaOff (hBase h) + hExt h 0 * hExt h 1 - 1
  else
  let o := (hExt h 0 - 1) + (hExt h 1 - 1) * hStride h 1 + (hExt h 2 - 1) * hStride h 2 + (hExt h 3 - 1) * hStride h 3
  vaOff (hBase h) + ((o + 1) * hWidth h + 7) / 8 - 1

/-- The runs that a handle's extent touches. -/
def extentRuns (s : State) (hb : HBits) : List (Nat × Space × Nat) :=
  let d := homeOf (hBase hb)
  let r := hRegion hb
  let base := rgnBase s d r
  runsOver (rgnRunList s d r) (rgnBolts s d r) ((vaOff (hBase hb) - base) / 65536) ((extentEnd hb - base) / 65536 + 1)

/-- The recast a descriptor's pending field names, while an arrival is counted or the recast runs: its bolts (R257, R264). -/
def recastRange (s : State) (d r : Nat) : Option (Nat × Nat) :=
  let p := s.rgnWord d r 0x10
  if rgnState s d r = 2 ∨ bits p 0 12 ≠ 0 then
    some (if bits p 48 13 = 0 then (0, rgnBolts s d r) else (bits p 16 32, bits p 16 32 + bits p 48 13))
  else none

/-- The runs under a handle's extent that fail a condition of R264: a recast of them is pending or in progress, their role is
not the handle's SPACE, or their GEN is below the handle's. -/
def waitingRuns (s : State) (hb : HBits) : List (Nat × Space × Nat) :=
  let d := homeOf (hBase hb)
  let r := hRegion hb
  let base := rgnBase s d r
  let rs := rgnRunList s d r
  let lo := (vaOff (hBase hb) - base) / 65536
  let hi := (extentEnd hb - base) / 65536 + 1
  let busy : List (Nat × Space × Nat) := match recastRange s d r with
    | some (a, b) => runsOver rs (rgnBolts s d r) (max a lo) (min b hi)
    | none => []
  (extentRuns s hb).filter (fun e => e.2.1 != hSpace hb || decide (e.2.2 < hGen hb) || busy.contains e)

/-- TVAL of a WAIT trap of strand n (R113, R179, R199, R235, R242, R305, R308, R354, R357, R359). -/
def waitTval (s : State) (n : Nat) : WaitKind → Word
  | .bandFull r => BitVec.ofNat 64 (r + 2 ^ 9 * b2n ((s.core (coreOf n)).isFull r) + 2 ^ 10)
  | .bandEmpty r => BitVec.ofNat 64 (r + 2 ^ 9 * b2n ((s.core (coreOf n)).isFull r))
  | .cmdq e => BitVec.ofNat 64 (5 * 2 ^ 60 + e * 2 ^ 56 + 16)
  | .tok q m => BitVec.ofNat 64 (1 * 2 ^ 60 + q * 2 ^ 56 + (tget {} (s.core (coreOf n)).tok q).count * 2 ^ 28 + m)
  | .cpwait ch t =>
    BitVec.ofNat 64 (2 * 2 ^ 60 + ch * 2 ^ 56 + (tget 0 (s.core (coreOf n)).wptr ch).toNat % 2 ^ 28 * 2 ^ 28
      + t.toNat % 2 ^ 28)
  | .sts h hb =>
    let d := homeOf (hBase hb)
    BitVec.ofNat 64 (3 * 2 ^ 60 + h.toNat * 2 ^ 56 + ringPtr s d (hRegion hb) 0 % 2 ^ 28 * 2 ^ 28
      + ringPtr s d (hRegion hb) 2 % 2 ^ 28)
  | .lds h hb =>
    let d := homeOf (hBase hb)
    BitVec.ofNat 64 (3 * 2 ^ 60 + h.toNat * 2 ^ 56 + ringPtr s d (hRegion hb) 0 % 2 ^ 28 * 2 ^ 28
      + ringPtr s d (hRegion hb) 1 % 2 ^ 28)
  | .recast h hb =>
    let g := match (waitingRuns s hb ++ extentRuns s hb).head? with
      | some e => e.2.2
      | none => 0
    BitVec.ofNat 64 (4 * 2 ^ 60 + h.toNat * 2 ^ 56 + g * 2 ^ 28 + hGen hb)
  | .cbar => match (s.core (coreOf n)).stitch with
    | some t => BitVec.ofNat 64 (5 * 2 ^ 60 + (s.recx t.id.die t.id.record).barCount % 2 ^ 56)
    | none => BitVec.ofNat 64 (5 * 2 ^ 60)
  | .cqpop e => BitVec.ofNat 64 (5 * 2 ^ 60 + e * 2 ^ 56 + queuedFor s (coreOf n) e)
  | .lrec w => BitVec.ofNat 64 (5 * 2 ^ 60 + w.toNat % 2 ^ 56)
  | .job w => BitVec.ofNat 64 (5 * 2 ^ 60 + (s.job (nameDie w) (nameNum w)).count.toNat)
  | .cwait w => BitVec.ofNat 64 (5 * 2 ^ 60 + 3 * 2 ^ 56 + w.toNat % 2 ^ 56)
  | .trackers _ => BitVec.ofNat 64 (5 * 2 ^ 60 + 3 * 2 ^ 56 + (s.die (dieOfStrand n)).tracks.length)
  | .collectives => BitVec.ofNat 64 (5 * 2 ^ 60 + 3 * 2 ^ 56 + 64)
  | .mrestore => BitVec.ofNat 64 (5 * 2 ^ 60 + 1 * 2 ^ 56 + queuedFor s (coreOf n) 1)
  | .lease => 0
  | .arrive => 0
  | .held => 0
  | .amo => 0

/-- R242: an arrival at the cluster barrier is withdrawn when its wait ends without completing. -/
def withdrawArrival (s : State) (n : Nat) : State :=
  let x := s.strand n
  if !x.arrived then s
  else
    let s := s.setStrand n { x with arrived := false }
    match (s.core (coreOf n)).stitch with
    | none => s
    | some t =>
      let r := s.recx t.id.die t.id.record
      s.setRecx t.id.die t.id.record { r with barCount := r.barCount - 1 }

/-- R55: the wait of strand n expires with WAIT. -/
def expireWait (s : State) (n : Nat) (k : WaitKind) : State :=
  let s := withdrawArrival s n
  deliverTrap s n { cause := cWAIT, tval := waitTval s n k }

/-- What a body's answer makes of the machine: one cycle passes in every case. -/
def settle (i : Instr) (s0 : State) (r : Body) : Host.Outcome State Fault Refusal :=
  match r with
  | .ok (s, g) => .next (completeUnit i s g).tick
  | .error (.trap s t) => .next (deliverTrap s s0.cur t).tick
  | .error (.wait s k lim) =>
    if lim = some 0 then .next (expireWait s s0.cur k).tick else .next (beginWait s k lim).tick
  | .error (.stop f) => .fault f

end Sys2Proof.Machine

/-- The guard of an instruction (R66): a short one is unguarded. -/
def Sys2Proof.Instr.guard (i : Sys2Proof.Instr) : Sys2Proof.Guard :=
  match i.hdr with
  | some u => u.g
  | none => Sys2Proof.Guard.none

namespace Sys2Proof.Machine
open Sys2Proof

/-- Whether the first of the checks of R256 and R276 step 2 that a handle fails is an ILL, the format fitting or not. -/
def handleIll (x : Strand) (h : BitVec 4) (sp : Option Space) (fits : HBits → Bool) : Bool :=
  let hb := x.hget h
  !hLegal hb || (!spaceWrong hb sp && !dieWrong hb sp && !fits hb)

/-- Every format fits. -/
def anyFits (_ : HBits) : Bool := true

/-- The formats that fit a handle (R283). -/
def fmtFits (fs : List Fmt) (h : HBits) : Bool := fs.any (fun f => hFmt h == some f)

/-- Whether an instruction, issued by a strand, raises ILL for what its operands hold: the handle it uses (R81, R256, R276), or the
row code of `vget` and `vput` (R165). -/
def operandIll (i : Instr) (x : Strand) : Bool :=
  let loose : Option Space := some .loose
  let acc (h : BitVec 4) (fs : List Fmt) : Bool := handleIll x h (some .accrue) (fmtFits fs)
  match i with
  | .ldf _ ew _ _ h _ | .ldfg _ ew _ _ h _ => handleIll x h (some .fixed) (widthFits · (ewBits ew))
  | .ldl _ ew _ _ h _ | .ldlg _ ew _ _ h _ | .stl _ ew _ _ h _ | .stls _ ew _ _ h _ =>
    handleIll x h loose (widthFits · (ewBits ew))
  | .lds _ _ _ h _ | .sts _ _ h _ | .stsEos _ h _ | .sptrW _ _ h | .sptrR _ _ h | .sptrC _ _ h =>
    handleIll x h (some .stream) anyFits
  | .hview _ _ h _ _ => handleIll x h none anyFits
  | .accAddI32 _ _ h _ | .accAnd _ _ h _ | .accOr _ _ h _ | .accXor _ _ h _ => acc h [.int32, .u32]
  | .accAddI64 _ _ h _ => acc h [.int64]
  | .accAddAf _ _ _ h _ => acc h [.af128]
  | .accMinI32 _ _ h _ | .accMaxI32 _ _ h _ => acc h [.int32]
  | .amoSwap _ f _ h _ | .amoCas _ f _ h _ | .amoAdd _ f _ h _ | .amoMin _ f _ h _ | .amoMax _ f _ h _ | .amoAnd _ f _ h _
  | .amoOr _ f _ h _ => handleIll x h loose (amoFits · f)
  | .saccAdd _ _ h _ _ _ | .saccMin _ _ h _ _ _ | .saccMax _ _ h _ _ _ | .saccAnd _ _ h _ _ _ | .saccOr _ _ h _ _ _
  | .saccXor _ _ h _ _ _ => handleIll x h none anyFits
  | .cpin _ _ _ h _ _ _ | .cpout _ _ _ h _ _ _ | .msave _ h | .mrestore _ h | .rgnParties _ h _
  | .recastArrive _ _ _ _ h _ _ | .recastWait _ h _ => handleIll x h none anyFits
  | .reshard _ _ h => handleIll x h loose anyFits
  | .mma _ sc _ _ _ _ _ _ h _ => !hLegal (x.hget h) || (sc != .none && !hLegal (x.hget (hScale (x.hget h))))
  | .mdrain _ _ res _ wh h _ => (res || wh) && !hLegal (x.hget h)
  | .vget _ _ a => decide (0x308 < (x.sget a).toNat)
  | .vput _ _ a => decide (0x307 < (x.sget a).toNat)
  | _ => false

/-- Whether an instruction is per-lane (R103), of those that `operandIll` tells apart. -/
def laneGuarded (i : Instr) : Bool :=
  match i with
  | .ldf .. | .ldfg .. | .ldl .. | .ldlg .. | .stl .. | .stls .. | .accAddI32 .. | .accAddI64 .. | .accAddAf .. | .accMinI32 ..
  | .accMaxI32 .. | .accAnd .. | .accOr .. | .accXor .. | .vget .. | .vput .. => true
  | _ => false

/-- Whether a strand that issues an instruction meets that ILL: the guard lets it issue (R67, R276). -/
def issuesIll (i : Instr) (x : Strand) : Bool :=
  (if laneGuarded i then guardLanes x i.guard != 0 else guardU x i.guard) && operandIll i x

/-- PORT when the strand does not own the port (R112, R167), unless the instruction meets an ILL, which is raised first (R74, R81). -/
def portCheck (p : Port) (i : Instr) (s : State) : Option TrapInfo :=
  if portOwner s.kore.portmap p = numOf s.cur then none
  else if issuesIll i s.me then some { cause := cILL, tval := parcelsWord i }
  else some { cause := cPORT, tval := BitVec.ofNat 64 (p.num + 2 ^ 32 * (encodeCore i).headD 0) }

/-- Run a uniform instruction: the checks that ignore the guard (R67), then the guard over U bits (R66), then the
meaning. `off` is what a false guard does: nothing, but for `.unc` compares (R106). -/
def uniformOr (i : Instr) (pre : State → Option TrapInfo) (off : State → State) (body : State → Body) (s : State) :
    Host.Outcome State Fault Refusal :=
  match pre s with
  | some t => settle i s (.error (.trap s t))
  | none =>
    if guardU s.me i.guard then settle i s (body s) else settle i s (.ok (off s, .fall))

/-- A uniform instruction that does nothing under a false guard (R103, R104). -/
def uniform (i : Instr) (pre : State → Option TrapInfo) (body : State → Body) (s : State) :
    Host.Outcome State Fault Refusal := uniformOr i pre id body s

/-- Run a per-lane instruction (R103): with no enabled lane it does nothing (R104). -/
def perLane (i : Instr) (pre : State → Option TrapInfo) (body : Word → State → Body) (s : State) :
    Host.Outcome State Fault Refusal :=
  match pre s with
  | some t => settle i s (.error (.trap s t))
  | none =>
    let lanes := guardLanes s.me i.guard
    if lanes = 0 then settle i s (.ok (s, .fall)) else settle i s (body lanes s)

/-! Fetching (R57, R73). -/

/-- Whether an address lies in the strand's code region. -/
def inCode (x : Strand) (a : Nat) : Bool :=
  decide (x.codeBase.toNat ≤ a) && decide (a + 4 ≤ x.codeBase.toNat + x.codeLen)

/-- A parcel at an address of the code region, through translation (log entry 16). -/
def fetchParcel (s : State) (a : Nat) : State × Except Xlat Nat :=
  if migHolds s (BitVec.ofNat 56 a) then (s, .error .held)
  else
    match translate s .fixed (BitVec.ofNat 56 a) { rd := true } with
    | (s, .ok k) => (s, .ok (s.num k 4))
    | (s, e) => (s, .error e)

/-- The checks of a taken transfer (R72): ALIGN, then LANDING; a target outside the code region is not checked. -/
def checkTarget (s : State) (t : Word) : Except Halt State :=
  if t.toNat % 4 ≠ 0 then raise s cALIGN t
  else if inCode s.me t.toNat then
    match fetchParcel s t.toNat with
    | (s, .ok p) => if p % 4 = 3 ∨ !bit p 2 then raise s cLANDING t else .ok s
    | (s, .error .absent) => .error (.wait s .held none)
    | (s, .error .held) => .error (.wait s .held none)
    | (s, .error .perm) => raise s cPERM t
    | (_, .error (.nowhere k)) => .error (.stop (.noStorage k))
    | (s, .error (.ok _)) => .ok s
  else .ok s

/-- The target of a displacement in parcels from the unit's own address (R64). -/
def branchTarget (s : State) (disp : Int) : Word := s.me.pc + BitVec.ofInt 64 (4 * disp)

/-- Whether the running stitch belongs to a pure task (R56, R101). -/
def State.isPure (s : State) : Bool := s.me.pure

/-- PURITY with a sub-code (R315). -/
def purity {α : Type} (s : State) (sub : Nat) : Except Halt α := raise s cPURITY (BitVec.ofNat 64 sub) (BitVec.ofNat 8 sub)

/-- The tenant of the running strand's record. -/
def State.myTenant (s : State) : Nat := match s.kore.stitch with
  | some t => t.tenant
  | none => 0
/-- The launch it belongs to. -/
def State.myLaunch (s : State) : LaunchId := match s.kore.stitch with
  | some t => t.id
  | none => {}

end Sys2Proof.Machine
end

