-- ==== Sys2Proof/Machine/Flags.lean ====
section
/-! DEFINITION. The sticky flag words (R29, R134) and the rounding context of a unit (R28, R30, R134). -/

namespace Sys2Proof.Machine
open Sys2Proof

/-- Set the flag bits of the lanes of `m` for the conditions that hold (R29). -/
def Strand.orFlags (x : Strand) (m : Word) (f : Flags) : Strand :=
  { x with
    flnv := if f.nv then x.flnv ||| m else x.flnv
    fldz := if f.dz then x.fldz ||| m else x.fldz
    flof := if f.ov then x.flof ||| m else x.flof
    fluf := if f.uf then x.fluf ||| m else x.fluf
    flnx := if f.nx then x.flnx ||| m else x.flnx }

/-- The five words a list of (lane, conditions) sets. -/
def laneFlags : List (Nat × Flags) → Word × Word × Word × Word × Word
  | [] => (0, 0, 0, 0, 0)
  | (l, f) :: r =>
    let (a, b, c, d, e) := laneFlags r
    let m : Word := 1#64 <<< l
    (if f.nv then a ||| m else a, if f.dz then b ||| m else b, if f.ov then c ||| m else c,
      if f.uf then d ||| m else d, if f.nx then e ||| m else e)

/-- Set the flags of many lanes; `.q` suppresses it (R29, R30). -/
def Strand.setLaneFlags (x : Strand) (q : Bool) (fs : List (Nat × Flags)) : Strand :=
  if q then x
  else
    let (a, b, c, d, e) := laneFlags fs
    { x with flnv := x.flnv ||| a, fldz := x.fldz ||| b, flof := x.flof ||| c, fluf := x.fluf ||| d, flnx := x.flnx ||| e }

/-- The draw of a scalar float instruction (R134). -/
def scalarDraw (x : Strand) (m : Mods) (d : BitVec 5) : Nat :=
  rsrDraw (x.stitchNum.toNat * 2 ^ 32 + (0x320 + d.toNat) * 2 ^ 16) x.srkey.toNat m.key

/-- The draw of element i of a vector destination row with operand code d (R28, R149). -/
def vectorDraw (x : Strand) (m : Mods) (d i : Nat) : Nat :=
  rsrDraw (x.stitchNum.toNat * 2 ^ 32 + d * 2 ^ 16 + i) x.srkey.toNat m.key

/-- The rounding context of a unit with a draw. -/
def rctx (m : Mods) (draw : Nat) : RCtx := ⟨m.mode, draw, m.sat, m.ftz⟩

end Sys2Proof.Machine
end

