-- ==== Sys2Proof/Machine/Scalar.lean ====
section
/-! DEFINITION. Scalar integer and FP32 instructions (R129-R138). -/

namespace Sys2Proof.Machine
open Sys2Proof

/-- S[D] := f(S[A], S[B]) (R129). -/
def sreg3 (f : Word → Word → Word) (d a b : BitVec 5) (s : State) : Body :=
  .ok (s.sset d (f (s.sget a) (s.sget b)), .fall)

/-- S[D] := f(S[A], imm) (R129, R131). -/
def sregImm (f : Word → Word → Word) (d a : BitVec 5) (imm : Word) (s : State) : Body :=
  .ok (s.sset d (f (s.sget a) imm), .fall)

/-- The exact signed result, clamped under SAT (R132). -/
def satWord (sat : Bool) (x : Int) : Word :=
  BitVec.ofInt 64 (if sat then clampInt (-(2 ^ 63 : Int)) (2 ^ 63 - 1) x else x)

/-- `add` (R129, R132). -/
def addW (sat : Bool) (a b : Word) : Word := satWord sat (a.toInt + b.toInt)
/-- `sub` (R129, R132). -/
def subW (sat : Bool) (a b : Word) : Word := satWord sat (a.toInt - b.toInt)
/-- `mul` (R129, R132). -/
def mulW (sat : Bool) (a b : Word) : Word := satWord sat (a.toInt * b.toInt)
/-- `shl` by b[5:0] (R129, R132). -/
def shlW (sat : Bool) (a b : Word) : Word := satWord sat (a.toInt * (2 ^ (b.toNat % 64) : Nat))
/-- `mulh` (R129). -/
def mulhW (a b : Word) : Word := BitVec.ofInt 64 (a.toInt * b.toInt / (2 ^ 64 : Nat))
/-- `mulhu` (R129). -/
def mulhuW (a b : Word) : Word := BitVec.ofNat 64 (a.toNat * b.toNat / 2 ^ 64)
/-- `div` (R129, R130): toward zero; by zero gives 0. -/
def divW (a b : Word) : Word := if b = 0 then 0 else BitVec.ofInt 64 (a.toInt.tdiv b.toInt)
/-- `divu` (R129, R130). -/
def divuW (a b : Word) : Word := if b = 0 then 0 else BitVec.ofNat 64 (a.toNat / b.toNat)
/-- `rem` (R129, R130): takes the sign of a; by zero gives a. -/
def remW (a b : Word) : Word := if b = 0 then a else BitVec.ofInt 64 (a.toInt.tmod b.toInt)
/-- `remu` (R129, R130). -/
def remuW (a b : Word) : Word := if b = 0 then a else BitVec.ofNat 64 (a.toNat % b.toNat)
/-- `and`. -/
def andW (a b : Word) : Word := a &&& b
/-- `or`. -/
def orW (a b : Word) : Word := a ||| b
/-- `xor`. -/
def xorW (a b : Word) : Word := a ^^^ b
/-- `shr` by b[5:0] (R129). -/
def shrW (a b : Word) : Word := a >>> (b.toNat % 64)
/-- `sar` by b[5:0] (R129). -/
def sarW (a b : Word) : Word := a.sshiftRight (b.toNat % 64)
/-- `min`, signed (R129). -/
def minW (a b : Word) : Word := if b.toInt < a.toInt then b else a
/-- `max`, signed (R129). -/
def maxW (a b : Word) : Word := if a.toInt < b.toInt then b else a
/-- `minu` (R129). -/
def minuW (a b : Word) : Word := if b.toNat < a.toNat then b else a
/-- `maxu` (R129). -/
def maxuW (a b : Word) : Word := if a.toNat < b.toNat then b else a

/-- `add`, short register form (R129, R130). -/
def execAddSr (u : Hdr) (d a b : BitVec 5) (s : State) : Host.Outcome State Fault Refusal :=
  uniform (.addSr u d a b) noCheck (sreg3 (addW false) d a b) s

/-- `sub`, short register form (R129, R130). -/
def execSubSr (u : Hdr) (d a b : BitVec 5) (s : State) : Host.Outcome State Fault Refusal :=
  uniform (.subSr u d a b) noCheck (sreg3 (subW false) d a b) s

/-- `mul`, short register form (R129, R130). -/
def execMulSr (u : Hdr) (d a b : BitVec 5) (s : State) : Host.Outcome State Fault Refusal :=
  uniform (.mulSr u d a b) noCheck (sreg3 (mulW false) d a b) s

/-- `mulh`, short register form (R129, R130). -/
def execMulhSr (u : Hdr) (d a b : BitVec 5) (s : State) : Host.Outcome State Fault Refusal :=
  uniform (.mulhSr u d a b) noCheck (sreg3 mulhW d a b) s

/-- `mulhu`, short register form (R129, R130). -/
def execMulhuSr (u : Hdr) (d a b : BitVec 5) (s : State) : Host.Outcome State Fault Refusal :=
  uniform (.mulhuSr u d a b) noCheck (sreg3 mulhuW d a b) s

/-- `div`, short register form (R129, R130). -/
def execDivSr (u : Hdr) (d a b : BitVec 5) (s : State) : Host.Outcome State Fault Refusal :=
  uniform (.divSr u d a b) noCheck (sreg3 divW d a b) s

/-- `divu`, short register form (R129, R130). -/
def execDivuSr (u : Hdr) (d a b : BitVec 5) (s : State) : Host.Outcome State Fault Refusal :=
  uniform (.divuSr u d a b) noCheck (sreg3 divuW d a b) s

/-- `rem`, short register form (R129, R130). -/
def execRemSr (u : Hdr) (d a b : BitVec 5) (s : State) : Host.Outcome State Fault Refusal :=
  uniform (.remSr u d a b) noCheck (sreg3 remW d a b) s

/-- `remu`, short register form (R129, R130). -/
def execRemuSr (u : Hdr) (d a b : BitVec 5) (s : State) : Host.Outcome State Fault Refusal :=
  uniform (.remuSr u d a b) noCheck (sreg3 remuW d a b) s

/-- `and`, short register form (R129, R130). -/
def execAndSr (u : Hdr) (d a b : BitVec 5) (s : State) : Host.Outcome State Fault Refusal :=
  uniform (.andSr u d a b) noCheck (sreg3 andW d a b) s

/-- `or`, short register form (R129, R130). -/
def execOrSr (u : Hdr) (d a b : BitVec 5) (s : State) : Host.Outcome State Fault Refusal :=
  uniform (.orSr u d a b) noCheck (sreg3 orW d a b) s

/-- `xor`, short register form (R129, R130). -/
def execXorSr (u : Hdr) (d a b : BitVec 5) (s : State) : Host.Outcome State Fault Refusal :=
  uniform (.xorSr u d a b) noCheck (sreg3 xorW d a b) s

/-- `shl`, short register form (R129, R130). -/
def execShlSr (u : Hdr) (d a b : BitVec 5) (s : State) : Host.Outcome State Fault Refusal :=
  uniform (.shlSr u d a b) noCheck (sreg3 (shlW false) d a b) s

/-- `shr`, short register form (R129, R130). -/
def execShrSr (u : Hdr) (d a b : BitVec 5) (s : State) : Host.Outcome State Fault Refusal :=
  uniform (.shrSr u d a b) noCheck (sreg3 shrW d a b) s

/-- `sar`, short register form (R129, R130). -/
def execSarSr (u : Hdr) (d a b : BitVec 5) (s : State) : Host.Outcome State Fault Refusal :=
  uniform (.sarSr u d a b) noCheck (sreg3 sarW d a b) s

/-- `min`, short register form (R129, R130). -/
def execMinSr (u : Hdr) (d a b : BitVec 5) (s : State) : Host.Outcome State Fault Refusal :=
  uniform (.minSr u d a b) noCheck (sreg3 minW d a b) s

/-- `max`, short register form (R129, R130). -/
def execMaxSr (u : Hdr) (d a b : BitVec 5) (s : State) : Host.Outcome State Fault Refusal :=
  uniform (.maxSr u d a b) noCheck (sreg3 maxW d a b) s

/-- `minu`, short register form (R129, R130). -/
def execMinuSr (u : Hdr) (d a b : BitVec 5) (s : State) : Host.Outcome State Fault Refusal :=
  uniform (.minuSr u d a b) noCheck (sreg3 minuW d a b) s

/-- `maxu`, short register form (R129, R130). -/
def execMaxuSr (u : Hdr) (d a b : BitVec 5) (s : State) : Host.Outcome State Fault Refusal :=
  uniform (.maxuSr u d a b) noCheck (sreg3 maxuW d a b) s

/-- `add`, short immediate form (R131). -/
def execAddSi (u : Hdr) (d a : BitVec 5) (imm : BitVec 14) (s : State) : Host.Outcome State Fault Refusal :=
  uniform (.addSi u d a imm) noCheck (sregImm (addW false) d a (immWord (modsOf u.pfx) 14 imm.toNat)) s

/-- `sub`, short immediate form (R131). -/
def execSubSi (u : Hdr) (d a : BitVec 5) (imm : BitVec 14) (s : State) : Host.Outcome State Fault Refusal :=
  uniform (.subSi u d a imm) noCheck (sregImm (subW false) d a (immWord (modsOf u.pfx) 14 imm.toNat)) s

/-- `and`, short immediate form (R131). -/
def execAndSi (u : Hdr) (d a : BitVec 5) (imm : BitVec 14) (s : State) : Host.Outcome State Fault Refusal :=
  uniform (.andSi u d a imm) noCheck (sregImm andW d a (immWord (modsOf u.pfx) 14 imm.toNat)) s

/-- `or`, short immediate form (R131). -/
def execOrSi (u : Hdr) (d a : BitVec 5) (imm : BitVec 14) (s : State) : Host.Outcome State Fault Refusal :=
  uniform (.orSi u d a imm) noCheck (sregImm orW d a (immWord (modsOf u.pfx) 14 imm.toNat)) s

/-- `xor`, short immediate form (R131). -/
def execXorSi (u : Hdr) (d a : BitVec 5) (imm : BitVec 14) (s : State) : Host.Outcome State Fault Refusal :=
  uniform (.xorSi u d a imm) noCheck (sregImm xorW d a (immWord (modsOf u.pfx) 14 imm.toNat)) s

/-- `shl`, short immediate form (R131). -/
def execShlSi (u : Hdr) (d a : BitVec 5) (n : BitVec 6) (s : State) : Host.Outcome State Fault Refusal :=
  uniform (.shlSi u d a n) noCheck (sregImm (shlW false) d a (n.setWidth 64)) s

/-- `shr`, short immediate form (R131). -/
def execShrSi (u : Hdr) (d a : BitVec 5) (n : BitVec 6) (s : State) : Host.Outcome State Fault Refusal :=
  uniform (.shrSi u d a n) noCheck (sregImm shrW d a (n.setWidth 64)) s

/-- `sar`, short immediate form (R131). -/
def execSarSi (u : Hdr) (d a : BitVec 5) (n : BitVec 6) (s : State) : Host.Outcome State Fault Refusal :=
  uniform (.sarSi u d a n) noCheck (sregImm sarW d a (n.setWidth 64)) s

/-- `add`, long register form (R129, R130, R132). -/
def execAddLs (u : Hdr) (d a b : BitVec 5) (s : State) : Host.Outcome State Fault Refusal :=
  uniform (.addLs u d a b) noCheck (sreg3 (addW (modsOf u.pfx).sat) d a b) s

/-- `sub`, long register form (R129, R130, R132). -/
def execSubLs (u : Hdr) (d a b : BitVec 5) (s : State) : Host.Outcome State Fault Refusal :=
  uniform (.subLs u d a b) noCheck (sreg3 (subW (modsOf u.pfx).sat) d a b) s

/-- `mul`, long register form (R129, R130, R132). -/
def execMulLs (u : Hdr) (d a b : BitVec 5) (s : State) : Host.Outcome State Fault Refusal :=
  uniform (.mulLs u d a b) noCheck (sreg3 (mulW (modsOf u.pfx).sat) d a b) s

/-- `mulh`, long register form (R129, R130, R132). -/
def execMulhLs (u : Hdr) (d a b : BitVec 5) (s : State) : Host.Outcome State Fault Refusal :=
  uniform (.mulhLs u d a b) noCheck (sreg3 mulhW d a b) s

/-- `mulhu`, long register form (R129, R130, R132). -/
def execMulhuLs (u : Hdr) (d a b : BitVec 5) (s : State) : Host.Outcome State Fault Refusal :=
  uniform (.mulhuLs u d a b) noCheck (sreg3 mulhuW d a b) s

/-- `div`, long register form (R129, R130, R132). -/
def execDivLs (u : Hdr) (d a b : BitVec 5) (s : State) : Host.Outcome State Fault Refusal :=
  uniform (.divLs u d a b) noCheck (sreg3 divW d a b) s

/-- `divu`, long register form (R129, R130, R132). -/
def execDivuLs (u : Hdr) (d a b : BitVec 5) (s : State) : Host.Outcome State Fault Refusal :=
  uniform (.divuLs u d a b) noCheck (sreg3 divuW d a b) s

/-- `rem`, long register form (R129, R130, R132). -/
def execRemLs (u : Hdr) (d a b : BitVec 5) (s : State) : Host.Outcome State Fault Refusal :=
  uniform (.remLs u d a b) noCheck (sreg3 remW d a b) s

/-- `remu`, long register form (R129, R130, R132). -/
def execRemuLs (u : Hdr) (d a b : BitVec 5) (s : State) : Host.Outcome State Fault Refusal :=
  uniform (.remuLs u d a b) noCheck (sreg3 remuW d a b) s

/-- `and`, long register form (R129, R130, R132). -/
def execAndLs (u : Hdr) (d a b : BitVec 5) (s : State) : Host.Outcome State Fault Refusal :=
  uniform (.andLs u d a b) noCheck (sreg3 andW d a b) s

/-- `or`, long register form (R129, R130, R132). -/
def execOrLs (u : Hdr) (d a b : BitVec 5) (s : State) : Host.Outcome State Fault Refusal :=
  uniform (.orLs u d a b) noCheck (sreg3 orW d a b) s

/-- `xor`, long register form (R129, R130, R132). -/
def execXorLs (u : Hdr) (d a b : BitVec 5) (s : State) : Host.Outcome State Fault Refusal :=
  uniform (.xorLs u d a b) noCheck (sreg3 xorW d a b) s

/-- `shl`, long register form (R129, R130, R132). -/
def execShlLs (u : Hdr) (d a b : BitVec 5) (s : State) : Host.Outcome State Fault Refusal :=
  uniform (.shlLs u d a b) noCheck (sreg3 (shlW (modsOf u.pfx).sat) d a b) s

/-- `shr`, long register form (R129, R130, R132). -/
def execShrLs (u : Hdr) (d a b : BitVec 5) (s : State) : Host.Outcome State Fault Refusal :=
  uniform (.shrLs u d a b) noCheck (sreg3 shrW d a b) s

/-- `sar`, long register form (R129, R130, R132). -/
def execSarLs (u : Hdr) (d a b : BitVec 5) (s : State) : Host.Outcome State Fault Refusal :=
  uniform (.sarLs u d a b) noCheck (sreg3 sarW d a b) s

/-- `min`, long register form (R129, R130, R132). -/
def execMinLs (u : Hdr) (d a b : BitVec 5) (s : State) : Host.Outcome State Fault Refusal :=
  uniform (.minLs u d a b) noCheck (sreg3 minW d a b) s

/-- `max`, long register form (R129, R130, R132). -/
def execMaxLs (u : Hdr) (d a b : BitVec 5) (s : State) : Host.Outcome State Fault Refusal :=
  uniform (.maxLs u d a b) noCheck (sreg3 maxW d a b) s

/-- `minu`, long register form (R129, R130, R132). -/
def execMinuLs (u : Hdr) (d a b : BitVec 5) (s : State) : Host.Outcome State Fault Refusal :=
  uniform (.minuLs u d a b) noCheck (sreg3 minuW d a b) s

/-- `maxu`, long register form (R129, R130, R132). -/
def execMaxuLs (u : Hdr) (d a b : BitVec 5) (s : State) : Host.Outcome State Fault Refusal :=
  uniform (.maxuLs u d a b) noCheck (sreg3 maxuW d a b) s

/-- `add`, long immediate form (R131, R132). -/
def execAddLi (u : Hdr) (d a : BitVec 5) (imm : BitVec 22) (s : State) : Host.Outcome State Fault Refusal :=
  uniform (.addLi u d a imm) noCheck (sregImm (addW (modsOf u.pfx).sat) d a (immWord (modsOf u.pfx) 22 imm.toNat)) s

/-- `sub`, long immediate form (R131, R132). -/
def execSubLi (u : Hdr) (d a : BitVec 5) (imm : BitVec 22) (s : State) : Host.Outcome State Fault Refusal :=
  uniform (.subLi u d a imm) noCheck (sregImm (subW (modsOf u.pfx).sat) d a (immWord (modsOf u.pfx) 22 imm.toNat)) s

/-- `mul`, long immediate form (R131, R132). -/
def execMulLi (u : Hdr) (d a : BitVec 5) (imm : BitVec 22) (s : State) : Host.Outcome State Fault Refusal :=
  uniform (.mulLi u d a imm) noCheck (sregImm (mulW (modsOf u.pfx).sat) d a (immWord (modsOf u.pfx) 22 imm.toNat)) s

/-- `and`, long immediate form (R131, R132). -/
def execAndLi (u : Hdr) (d a : BitVec 5) (imm : BitVec 22) (s : State) : Host.Outcome State Fault Refusal :=
  uniform (.andLi u d a imm) noCheck (sregImm andW d a (immWord (modsOf u.pfx) 22 imm.toNat)) s

/-- `or`, long immediate form (R131, R132). -/
def execOrLi (u : Hdr) (d a : BitVec 5) (imm : BitVec 22) (s : State) : Host.Outcome State Fault Refusal :=
  uniform (.orLi u d a imm) noCheck (sregImm orW d a (immWord (modsOf u.pfx) 22 imm.toNat)) s

/-- `xor`, long immediate form (R131, R132). -/
def execXorLi (u : Hdr) (d a : BitVec 5) (imm : BitVec 22) (s : State) : Host.Outcome State Fault Refusal :=
  uniform (.xorLi u d a imm) noCheck (sregImm xorW d a (immWord (modsOf u.pfx) 22 imm.toNat)) s

/-- `min`, long immediate form (R131, R132). -/
def execMinLi (u : Hdr) (d a : BitVec 5) (imm : BitVec 22) (s : State) : Host.Outcome State Fault Refusal :=
  uniform (.minLi u d a imm) noCheck (sregImm minW d a (immWord (modsOf u.pfx) 22 imm.toNat)) s

/-- `max`, long immediate form (R131, R132). -/
def execMaxLi (u : Hdr) (d a : BitVec 5) (imm : BitVec 22) (s : State) : Host.Outcome State Fault Refusal :=
  uniform (.maxLi u d a imm) noCheck (sregImm maxW d a (immWord (modsOf u.pfx) 22 imm.toNat)) s

/-- `minu`, long immediate form (R131, R132). -/
def execMinuLi (u : Hdr) (d a : BitVec 5) (imm : BitVec 22) (s : State) : Host.Outcome State Fault Refusal :=
  uniform (.minuLi u d a imm) noCheck (sregImm minuW d a (immWord (modsOf u.pfx) 22 imm.toNat)) s

/-- `maxu`, long immediate form (R131, R132). -/
def execMaxuLi (u : Hdr) (d a : BitVec 5) (imm : BitVec 22) (s : State) : Host.Outcome State Fault Refusal :=
  uniform (.maxuLi u d a imm) noCheck (sregImm maxuW d a (immWord (modsOf u.pfx) 22 imm.toNat)) s

/-- `shl`, long immediate form (R131, R132). -/
def execShlLi (u : Hdr) (d a : BitVec 5) (n : BitVec 6) (s : State) : Host.Outcome State Fault Refusal :=
  uniform (.shlLi u d a n) noCheck (sregImm (shlW (modsOf u.pfx).sat) d a (n.setWidth 64)) s

/-- `shr`, long immediate form (R131, R132). -/
def execShrLi (u : Hdr) (d a : BitVec 5) (n : BitVec 6) (s : State) : Host.Outcome State Fault Refusal :=
  uniform (.shrLi u d a n) noCheck (sregImm shrW d a (n.setWidth 64)) s

/-- `sar`, long immediate form (R131, R132). -/
def execSarLi (u : Hdr) (d a : BitVec 5) (n : BitVec 6) (s : State) : Host.Outcome State Fault Refusal :=
  uniform (.sarLi u d a n) noCheck (sregImm sarW d a (n.setWidth 64)) s

/-- `nop` (R133). -/
def execNop (u : Hdr) (s : State) : Host.Outcome State Fault Refusal :=
  uniform (.nop u) noCheck (fun s => .ok (s, .fall)) s

/-- `movi`, short form (R133). -/
def execMoviSi (u : Hdr) (d : BitVec 5) (imm : BitVec 14) (s : State) : Host.Outcome State Fault Refusal :=
  uniform (.moviSi u d imm) noCheck (fun s => .ok (s.sset d (immWord (modsOf u.pfx) 14 imm.toNat), .fall)) s

/-- `movi`, long form (R133). -/
def execMoviLi (u : Hdr) (d : BitVec 5) (imm : BitVec 22) (s : State) : Host.Outcome State Fault Refusal :=
  uniform (.moviLi u d imm) noCheck (fun s => .ok (s.sset d (immWord (modsOf u.pfx) 22 imm.toNat), .fall)) s

/-! Compares (R106, R138). -/

/-- The scalar rule of R106: 64 lanes and U taken together. -/
def scalarCompare (form : CForm) (c : Bool) (pe pd : BitVec 3) (x : Strand) : Strand :=
  let all (b : Bool) : Pred := if b then Pred.ones else {}
  match form with
  | .plain | .unc => (x.pset pd (all c)).pset pe (all (!c))
  | .and => if c then x else (x.pset pd (all false)).pset pe (all true)
  | .or => if c then (x.pset pd (all true)).pset pe (all false) else x

/-- A false guard: `.unc` alone acts, clearing both destinations (R106). -/
def scalarUnc (form : CForm) (pe pd : BitVec 3) (s : State) : State :=
  if form = .unc then s.setMe ((s.me.pset pd {}).pset pe {}) else s

/-- A scalar compare whose condition is c. -/
def compareBody (form : CForm) (c : State → Bool) (pe pd : BitVec 3) (s : State) : Body :=
  .ok (s.setMe (scalarCompare form (c s) pe pd s.me), .fall)

/-- `cmp`, signed (R138). -/
def execCmp (u : Hdr) (form : CForm) (cond : Cond) (pe pd : BitVec 3) (a b : BitVec 5) (s : State) :
    Host.Outcome State Fault Refusal :=
  uniformOr (.cmp u form cond pe pd a b) noCheck (scalarUnc form pe pd)
    (compareBody form (fun s => condInt cond (s.sget a).toInt (s.sget b).toInt) pe pd) s

/-- `cmpu`, unsigned (R138). -/
def execCmpu (u : Hdr) (form : CForm) (cond : Cond) (pe pd : BitVec 3) (a b : BitVec 5) (s : State) :
    Host.Outcome State Fault Refusal :=
  uniformOr (.cmpu u form cond pe pd a b) noCheck (scalarUnc form pe pd)
    (compareBody form (fun s => condInt cond (s.sget a).toNat (s.sget b).toNat) pe pd) s

/-- `cmpi`, signed (R138). -/
def execCmpi (u : Hdr) (form : CForm) (cond : Cond) (pe pd : BitVec 3) (a : BitVec 5) (imm : BitVec 9) (s : State) :
    Host.Outcome State Fault Refusal :=
  uniformOr (.cmpi u form cond pe pd a imm) noCheck (scalarUnc form pe pd)
    (compareBody form (fun s => condInt cond (s.sget a).toInt (immVal (modsOf u.pfx) 9 imm.toNat)) pe pd) s

/-- `cmpui`: the immediate sign-extended, then compared unsigned (R138). -/
def execCmpui (u : Hdr) (form : CForm) (cond : Cond) (pe pd : BitVec 3) (a : BitVec 5) (imm : BitVec 9) (s : State) :
    Host.Outcome State Fault Refusal :=
  uniformOr (.cmpui u form cond pe pd a imm) noCheck (scalarUnc form pe pd)
    (compareBody form (fun s => condInt cond (s.sget a).toNat (immWord (modsOf u.pfx) 9 imm.toNat).toNat) pe pd) s

/-- An integer immediate as a code of an element format: exact or rounded RNE and saturated, with no flag (R62). -/
def immCode (f : Fmt) (x : Int) : Nat :=
  if isIntFmt f then wrapInt (codeBits f) (clampInt (intRange f).1 (intRange f).2 x)
  else (roundFloat f { sat := true } (FVal.ofInt x)).code

/-- The FP32 operand of `fcmp` (R138). -/
def fcmpOperand (m : Mods) (b : SImm) (s : State) : Nat :=
  match b with
  | .scal r => (s.sget r).toNat % 2 ^ 32
  | .imm n => immCode .fp32 (immVal m 9 n.toNat)

/-- An FP32 operand, flushed under `.ftz` (R30). -/
def fval (ftz : Bool) (w : Nat) : FVal := if ftz then flushIn .fp32 (f32Val w) else f32Val w

/-- `fcmp` (R138). -/
def execFcmp (u : Hdr) (form : CForm) (cond : Cond) (pe pd : BitVec 3) (a : BitVec 5) (b : SImm) (s : State) :
    Host.Outcome State Fault Refusal :=
  uniformOr (.fcmp u form cond pe pd a b) noCheck (scalarUnc form pe pd)
    (compareBody form (fun s =>
      let m := modsOf u.pfx
      condVal cond (fval m.ftz (s.sget a).toNat) (fval m.ftz (fcmpOperand m b s))) pe pd) s

/-! Scalar FP32 (R134-R137). -/

/-- The FP32 value of a scalar. -/
def sfval (m : Mods) (s : State) (r : BitVec 5) : FVal := fval m.ftz (s.sget r).toNat

/-- Write a rounded result and its flags (R134). -/
def putFloat (m : Mods) (d : BitVec 5) (r : Rounded) (s : State) : State :=
  let x := s.me.sset d (BitVec.ofNat 64 r.code)
  s.setMe (if m.q then x else x.orFlags 1 r.fl)

/-- A float operation: an exact value with the conditions found before rounding (R135). -/
def floatBody (u : Hdr) (d : BitVec 5) (f : Mods → State → FVal × Flags) (s : State) : Body :=
  let m := modsOf u.pfx
  let (v, fl) := f m s
  let r := roundFloat .fp32 (rctx m (scalarDraw s.me m d)) v
  .ok (putFloat m d { r with fl := if fl.nv then nvFlag else r.fl.join fl } s, .fall)

/-- A sum with its invalid condition. -/
def sumFl (mode : RMode) (ts : List FVal) : FVal × Flags :=
  let (v, nv) := sumVal mode ts
  (v, if nv then nvFlag else {})

/-- A product with its invalid condition. -/
def mulFl (a b : FVal) : FVal × Flags :=
  let (v, nv) := mulVal a b
  (v, if nv then nvFlag else {})

/-- a × b + c (R135): 0 × ∞ is invalid even when c is NaN. -/
def fmaFl (mode : RMode) (a b c : FVal) : FVal × Flags :=
  let (p, nv) := mulVal a b
  let (v, nv') := sumVal mode [p, c]
  (v, if nv || nv' then nvFlag else {})

/-- `fadd` (R135). -/
def execFadd (u : Hdr) (d a b : BitVec 5) (s : State) : Host.Outcome State Fault Refusal :=
  uniform (.fadd u d a b) noCheck (floatBody u d (fun m s => sumFl m.mode [sfval m s a, sfval m s b])) s

/-- `fsub` (R135). -/
def execFsub (u : Hdr) (d a b : BitVec 5) (s : State) : Host.Outcome State Fault Refusal :=
  uniform (.fsub u d a b) noCheck (floatBody u d (fun m s => sumFl m.mode [sfval m s a, (sfval m s b).neg])) s

/-- `fmul` (R135). -/
def execFmul (u : Hdr) (d a b : BitVec 5) (s : State) : Host.Outcome State Fault Refusal :=
  uniform (.fmul u d a b) noCheck (floatBody u d (fun m s => mulFl (sfval m s a) (sfval m s b))) s

/-- `fdiv` (R135). -/
def execFdiv (u : Hdr) (d a b : BitVec 5) (s : State) : Host.Outcome State Fault Refusal :=
  uniform (.fdiv u d a b) noCheck (floatBody u d (fun m s => divVal (sfval m s a) (sfval m s b))) s

/-- `fsqrt` (R135). -/
def execFsqrt (u : Hdr) (d a : BitVec 5) (s : State) : Host.Outcome State Fault Refusal :=
  uniform (.fsqrt u d a) noCheck (floatBody u d (fun m s => sqrtVal (sfval m s a))) s

/-- `ffma` (R135). -/
def execFfma (u : Hdr) (d a b c : BitVec 5) (s : State) : Host.Outcome State Fault Refusal :=
  uniform (.ffma u d a b c) noCheck
    (floatBody u d (fun m s => fmaFl m.mode (sfval m s a) (sfval m s b) (sfval m s c))) s

/-- A code with a subnormal read as zero of its sign under `.ftz` (R30, R136). -/
def flushCode (f : Fmt) (ftz : Bool) (w : Nat) : Nat :=
  let x := w % 2 ^ codeBits f
  if ftz && flushIn f (decodeFmt f x).1 != (decodeFmt f x).1 then signBit f (bit x (codeBits f - 1)) else x

/-- The smaller (or larger) operand of R136, on codes. -/
def selectCode (f : Fmt) (ftz less : Bool) (a b : Nat) : Nat :=
  let a := flushCode f ftz a
  let b := flushCode f ftz b
  let va := (decodeFmt f a).1
  let vb := (decodeFmt f b).1
  if va.isNaN && vb.isNaN then canonNaN f
  else if va.isNaN then b
  else if vb.isNaN then a
  else if less then (if valLess vb va then b else a)
  else (if valLess va vb then b else a)

/-- `fabs` on a code (R136). -/
def absCode (f : Fmt) (ftz : Bool) (a : Nat) : Nat :=
  let a := flushCode f ftz a
  if (decodeFmt f a).1.isNaN then canonNaN f else a % 2 ^ (codeBits f - 1)

/-- `fneg` on a code (R136). -/
def negCode (f : Fmt) (ftz : Bool) (a : Nat) : Nat :=
  let a := flushCode f ftz a
  if (decodeFmt f a).1.isNaN then canonNaN f else a ^^^ 2 ^ (codeBits f - 1)

/-- A flagless FP32 operation on codes (R136). -/
def codeBody (d : BitVec 5) (f : State → Nat) (s : State) : Body := .ok (s.sset d (BitVec.ofNat 64 (f s)), .fall)

/-- `fmin` (R136). -/
def execFmin (u : Hdr) (d a b : BitVec 5) (s : State) : Host.Outcome State Fault Refusal :=
  uniform (.fmin u d a b) noCheck
    (codeBody d (fun s => selectCode .fp32 (modsOf u.pfx).ftz true (s.sget a).toNat (s.sget b).toNat)) s

/-- `fmax` (R136). -/
def execFmax (u : Hdr) (d a b : BitVec 5) (s : State) : Host.Outcome State Fault Refusal :=
  uniform (.fmax u d a b) noCheck
    (codeBody d (fun s => selectCode .fp32 (modsOf u.pfx).ftz false (s.sget a).toNat (s.sget b).toNat)) s

/-- `fabs` (R136). -/
def execFabs (u : Hdr) (d a : BitVec 5) (s : State) : Host.Outcome State Fault Refusal :=
  uniform (.fabs u d a) noCheck (codeBody d (fun s => absCode .fp32 (modsOf u.pfx).ftz (s.sget a).toNat)) s

/-- `fneg` (R136). -/
def execFneg (u : Hdr) (d a : BitVec 5) (s : State) : Host.Outcome State Fault Refusal :=
  uniform (.fneg u d a) noCheck (codeBody d (fun s => negCode .fp32 (modsOf u.pfx).ftz (s.sget a).toNat)) s

/-- `fcvti`: FP32 to a signed 64-bit integer (R137). -/
def execFcvti (u : Hdr) (d a : BitVec 5) (s : State) : Host.Outcome State Fault Refusal :=
  uniform (.fcvti u d a) noCheck (fun s =>
    let m := modsOf u.pfx
    .ok (putFloat m d (roundToInt .int64 (rctx m (scalarDraw s.me m d)) (sfval m s a)) s, .fall)) s

/-- `fcvtf`: a signed 64-bit integer to FP32 (R137). -/
def execFcvtf (u : Hdr) (d a : BitVec 5) (s : State) : Host.Outcome State Fault Refusal :=
  uniform (.fcvtf u d a) noCheck (fun s =>
    let m := modsOf u.pfx
    .ok (putFloat m d (roundFloat .fp32 (rctx m (scalarDraw s.me m d)) (FVal.ofInt (s.sget a).toInt)) s, .fall)) s

end Sys2Proof.Machine
end

