-- ==== Sys2Proof/Machine/Control.lean ====
section
/-! DEFINITION. Control transfer (R122-R128), frames and the spill engine (R107-R111), predicate moves (R139-R141). -/

namespace Sys2Proof.Machine
open Sys2Proof

/-- A taken transfer: the checks of R72, then an effect, then the target. -/
def transfer (t : Word) (effect : State → State) (s : State) : Body := do
  let s ← checkTarget s t
  .ok (effect s, .jump t)

/-- `br`, short form: always taken (R122). -/
def execBrSj (u : Hdr) (disp : BitVec 24) (s : State) : Host.Outcome State Fault Refusal :=
  uniform (.brSj u disp) noCheck (fun s => transfer (branchTarget s disp.toInt) id s) s

/-- `br`, long form (R122). -/
def execBrLb (u : Hdr) (disp : BitVec 32) (s : State) : Host.Outcome State Fault Refusal :=
  uniform (.brLb u disp) noCheck (fun s => transfer (branchTarget s disp.toInt) id s) s

/-- `loop` (R123). -/
def execLoop (u : Hdr) (a : BitVec 5) (disp : BitVec 22) (s : State) : Host.Outcome State Fault Refusal :=
  uniform (.loop u a disp) noCheck (fun s =>
    let n := s.sget a - 1
    if n = 0 then .ok (s.sset a 0, .fall) else transfer (branchTarget s disp.toInt) (fun s => s.sset a n) s) s

/-! Chunks of 128 bytes, the granule of spill records (R110). -/

/-- One chunk of a spill record: its address, its bytes, and the poison its block takes where a row begins here. -/
structure Chunk where
  va : BitVec 56
  bytes : List Byte
  poison : Option Bool := none
  deriving DecidableEq, Repr, Inhabited

/-- The outcome of an access to n chunks from an address: the first that is not performed, or `ok`. A load is held behind
pending entries of its page (R270), and any access behind a page's move (R328). -/
def chunksReach (s : State) (need : Need) (va : BitVec 56) : Nat → State × Xlat
  | 0 => (s, .ok 0)
  | n + 1 =>
    match translate s .loose va need with
    | (s, .ok k) =>
      if migHolds s va || (need.rd && pendingPage s .loose (pageAt s .loose va)) then (s, .held)
      else if n = 0 then (s, .ok k) else chunksReach s need (va + 128) n
    | (s, e) => (s, e)

/-- Write a chunk whose page is reached: at its place, or into the skein behind the page's pending entries (R270). -/
def putChunk (s : State) (c : Chunk) : State :=
  match translate s .loose c.va { wr := true } with
  | (s, .ok k) =>
    if pendingPage s .loose (pageAt s .loose c.va) then
      skeinAdd s (homeOf c.va) { va := c.va, id := s.myLaunch, tenant := s.myTenant
                                 op := .store (c.bytes.zipIdx.map (fun e => (e.2, e.1, Part.full)))
                                   (if c.poison = some true then [0] else []) (if c.poison = some false then [0] else []) }
    else
      let s := s.setBytes k c.bytes
      match c.poison with
      | some p => s.setBlockPoison k p
      | none => s
  | (s, _) => s

/-- n bytes at chunks of 128 whose pages are reached. -/
def getChunks (s : State) (va : BitVec 56) : Nat → List Byte
  | 0 => []
  | n + 1 =>
    match (translate s .loose va { rd := true }).2 with
    | .ok k => s.bytes k 128 ++ getChunks s (va + 128) n
    | _ => getChunks s (va + 128) n

/-- The poison of the block that holds an address, where it is reached. -/
def vaPoison (s : State) (va : BitVec 56) : Bool :=
  match (translate s .loose va { rd := true }).2 with
  | .ok k => s.blockPoison k
  | _ => false

/-- The chunks of a record (R110): each row as two, the first carrying its poison bit, then the scalar window. The block of a
row is the one its first byte lies in (log entry 48). -/
def recordChunks (va : BitVec 56) : List PRow → List Byte → List Chunk
  | [], tail => [{ va := va, bytes := tail }]
  | r :: rs, tail =>
    let bs := bytesOf 256 r.bits.toNat
    { va := va, bytes := bs.take 128, poison := some r.poison } :: { va := va + 128, bytes := bs.drop 128 } ::
      recordChunks (va + 256) rs tail

/-! Frames (R107-R111). -/

/-- Partition size of the running strand. -/
def State.ps (s : State) : Nat := partSize s.kore.part (numOf s.cur)
/-- Partition base of the running strand. -/
def State.pb (s : State) : Nat := partBase s.kore.part (numOf s.cur)

/-- A private row by row offset (R107). -/
def State.partRow (s : State) (off : Int) : PRow := tget {} s.kore.vfile (vrow s.kore.part (numOf s.cur) off 0)
/-- Write one. -/
def State.setPartRow (s : State) (off : Int) (v : PRow) : State :=
  s.setKore { s.kore with vfile := tset {} s.kore.vfile (vrow s.kore.part (numOf s.cur) off 0) v }

/-- The physical scalar window `back` calls below the current one (R108, R109). -/
def windowBack (x : Strand) (back : Nat) : BitVec 3 := x.swb - BitVec.ofNat 3 back
/-- Scalar s(16 + i) of a physical window. -/
def Strand.wget (x : Strand) (w : BitVec 3) (i : Nat) : Word := tget 0 x.sregs (16 + 16 * w.toNat + i)
/-- Write one. -/
def Strand.wset (x : Strand) (w : BitVec 3) (i : Nat) (v : Word) : Strand :=
  { x with sregs := tset 0 x.sregs (16 + 16 * w.toNat + i) v }

/-- F of resident frame k (0 the oldest): 16 × FRM of the link word of the frame above it (R110). -/
def frameRows (x : Strand) (k : Nat) : Nat := 16 * bits (x.wget (windowBack x (x.res - 2 - k)) 0).toNat 58 6

/-- The number of oldest frames to spill, and their sizes, so that `need - RB'` fits PS and at most 8 frames stay. -/
def spillList (x : Strand) (ps : Nat) (need : Int) : Nat → Nat → Int → List Nat
  | 0, _, _ => []
  | fuel + 1, k, rb =>
    if need - rb ≤ ps ∧ x.res - k + 1 ≤ 8 then []
    else
      let f := frameRows x k
      f :: spillList x ps need fuel (k + 1) (rb + f)

/-- WINDOW with its TVAL (R111). -/
def window {α : Type} (s : State) (sub : Nat) : Except Halt α :=
  raise s cWINDOW (BitVec.ofNat 64 (s.me.spilld * 2 ^ 32 + sub)) (BitVec.ofNat 8 sub)

/-- Spill the oldest resident frame of F rows (R110). The whole record is checked before any of it is written: no frame is
half-spilled. A pure task spills and refills like any other (R56, R315; log entry 76). -/
def spillFrame (s : State) (f : Nat) : Except Halt State :=
  let x := s.me
  let va := x.spillBase + BitVec.ofNat 56 x.spilld
  let rows := (upto f).map (fun (i : Nat) => s.partRow (x.rb + i))
  let w := windowBack x (x.res - 1)
  let chunks := recordChunks va rows ((upto 16).map (fun i => bytesOf 8 (x.wget w i).toNat)).flatten
  match chunksReach s { wr := true } va chunks.length with
  | (_, .nowhere k) => .error (.stop (.noStorage k))
  | (s, .held) => .error (.wait s .held none)
  | (s, .ok _) =>
    let entries := (chunks.filter (fun c => pendingPage s .loose (pageAt s .loose c.va))).length
    match skeinRoom s (homeOf va) s.myTenant s.myCore entries with
    | .limit => .error (.wait (freezeCore s (homeOf va) s.myCore 1) .held none)
    | .full => .error (.wait s .held none)
    | .yes =>
      let s := chunks.foldl putChunk s
      let y := s.me
      .ok (s.setMe { y with spilld := y.spilld + 256 * f + 128, rb := y.rb + f, res := y.res - 1 })
  | (s, _) => window s 6

/-- Spill frames, oldest first; a failure leaves the frames already moved (R110). -/
def spillFrames (s : State) : List Nat → Except Halt State
  | [] => .ok s
  | f :: fs => do
    let s ← spillFrame s f
    spillFrames s fs

/-- R108: the effect of a call with frame field `frm` to a target, after the checks of R72. -/
def callBody (t : Word) (frm : Nat) (len : Nat) (s : State) : Body := do
  let s ← checkTarget s t
  let x := s.me
  let f := 16 * frm
  let ps := s.ps
  if x.depth = 65535 then window s 3
  else if ps < f + 256 then window s 2
  else
    let fs := spillList x ps (x.voff + f + 256) (x.res - 1) 0 x.rb
    if x.spillSize.toNat * 65536 < x.spilld + (fs.map (fun f => f * 256 + 128)).sum then window s 1
    else do
      let s ← spillFrames s fs
      let x := s.me
      let ret := x.pc + BitVec.ofNat 64 len
      let w := x.swb + 1
      let y := { x with voff := x.voff + f, swb := w, depth := x.depth + 1, res := x.res + 1 }
      let y := (upto 16).foldl (fun (y : Strand) i => y.wset w i 0) y
      .ok (s.setMe (y.wset w 0 (BitVec.ofNat 64 (frm * 2 ^ 58) ||| ret)), .jump t)

/-- `call` (R124, R108). -/
def execCall (u : Hdr) (disp : BitVec 22) (frm : BitVec 6) (s : State) : Host.Outcome State Fault Refusal :=
  uniform (.call u disp frm) noCheck
    (fun s => callBody (branchTarget s disp.toInt) frm.toNat (unitLen (.call u disp frm)) s) s

/-- `callr` (R124, R108). -/
def execCallr (u : Hdr) (a : BitVec 5) (frm : BitVec 6) (s : State) : Host.Outcome State Fault Refusal :=
  uniform (.callr u a frm) noCheck (fun s => callBody (s.sget a) frm.toNat (unitLen (.callr u a frm)) s) s

/-- `jr` (R125). -/
def execJr (u : Hdr) (a : BitVec 5) (s : State) : Host.Outcome State Fault Refusal :=
  uniform (.jr u a) noCheck (fun s => transfer (s.sget a) id s) s

/-- The state after a refill of F rows from a record at an address that can be read (R109, R110). -/
def refilled (s : State) (f : Nat) (va : BitVec 56) : State :=
  let bs := getChunks s va (2 * f + 1)
  let base := s.me.voff - f
  let t := (upto f).foldl (fun (t : State) (i : Nat) => t.setPartRow (base + i)
    ⟨BitVec.ofNat 2048 (natOfBytes ((bs.drop (256 * i)).take 256)), vaPoison s (va + BitVec.ofNat 56 (256 * i))⟩) s
  let w := windowBack s.me 1
  let y := (upto 16).foldl (fun (y : Strand) i => y.wset w i (BitVec.ofNat 64 (wordAt bs (256 * f + 8 * i)))) t.me
  t.setMe { y with spilld := y.spilld - (256 * f + 128), rb := base }

/-- Refill the caller's frame of F rows from the top record (R109, R110). A record that the stack does not hold is a
failed access (log entry 17). -/
def refillFrame (s : State) (f : Nat) : Except Halt State :=
  let x := s.me
  let n := 256 * f + 128
  let va := x.spillBase + BitVec.ofNat 56 (x.spilld - n)
  if x.spilld < n then window s 6
  else
    match chunksReach s { rd := true } va (2 * f + 1) with
    | (_, .nowhere k) => .error (.stop (.noStorage k))
    | (s, .held) => .error (.wait s .held none)
    | (s, .ok _) => .ok (refilled s f va)
    | (s, _) => window s 6

/-- R109: the effect of `ret`. -/
def retBody (s : State) : Body :=
  let x := s.me
  if x.depth = 0 then window s 4
  else
    let link := (x.wget x.swb 0).toNat
    let frm := bits link 58 6
    let f := 16 * frm
    if 32 < frm ∨ bits link 56 2 ≠ 0 then window s 5
    else if link % 4 ≠ 0 then raise s cALIGN (BitVec.ofNat 64 (bits link 0 56))
    else do
      let s ← if x.res = 1 then refillFrame s f else .ok (s.setMe { s.me with res := s.me.res - 1 })
      let y := s.me
      .ok (s.setMe { y with voff := y.voff - f, swb := y.swb - 1, depth := y.depth - 1 },
        .jump (BitVec.ofNat 64 (bits link 0 56)))

/-- `ret` (R109, R126). -/
def execRet (u : Hdr) (s : State) : Host.Outcome State Fault Refusal := uniform (.ret u) noCheck retBody s

/-- `trap` (R127). -/
def execTrap (u : Hdr) (code : BitVec 12) (s : State) : Host.Outcome State Fault Refusal :=
  uniform (.trap u code) noCheck (fun s => raise s cSOFT (code.setWidth 64)) s

/-- `eret` (R115, R128): ILL with INH = 0 whatever the guard; a misaligned TPC raises ALIGN. -/
def execEret (u : Hdr) (s : State) : Host.Outcome State Fault Refusal :=
  uniform (.eret u) (fun s => if s.me.inh then none else some { cause := cILL, tval := parcelsWord (.eret u) })
    (fun s =>
      if s.me.tpc.toNat % 4 ≠ 0 then raise s cALIGN s.me.tpc
      else .ok (s.setMe s.me.returnFromTrap, .stay)) s

/-! Predicates (R139-R141). -/

/-- One lane word of a truth table over three lane words. -/
def tableLanes (tt : BitVec 8) (a b c : Word) : Word :=
  let pick (i : Nat) : Word :=
    if tt.getLsbD i then
      (if i / 4 % 2 = 1 then a else ~~~a) &&& (if i / 2 % 2 = 1 then b else ~~~b) &&& (if i % 2 = 1 then c else ~~~c)
    else 0
  pick 0 ||| pick 1 ||| pick 2 ||| pick 3 ||| pick 4 ||| pick 5 ||| pick 6 ||| pick 7

/-- `pcomb` (R139). -/
def execPcomb (u : Hdr) (d a b c : BitVec 3) (tt : BitVec 8) (s : State) : Host.Outcome State Fault Refusal :=
  uniform (.pcomb u d a b c tt) noCheck (fun s =>
    let x := s.me
    let (pa, pb, pc) := (x.pget a, x.pget b, x.pget c)
    .ok (s.setMe (x.pset d ⟨tableLanes tt pa.lanes pb.lanes pc.lanes,
      tt.getLsbD (4 * b2n pa.u + 2 * b2n pb.u + b2n pc.u)⟩), .fall)) s

/-- The number of 1 bits of a word. -/
def popcount (w : Word) : Nat := ((upto 64).filter (fun i => w.getLsbD i)).length

/-- `pcount` (R140). -/
def execPcount (u : Hdr) (d : BitVec 5) (a : BitVec 3) (s : State) : Host.Outcome State Fault Refusal :=
  uniform (.pcount u d a) noCheck (fun s => .ok (s.sset d (BitVec.ofNat 64 (popcount (s.me.pget a).lanes)), .fall)) s

/-- `pfirst` (R140). -/
def execPfirst (u : Hdr) (d : BitVec 5) (a : BitVec 3) (s : State) : Host.Outcome State Fault Refusal :=
  uniform (.pfirst u d a) noCheck (fun s =>
    .ok (s.sset d (BitVec.ofNat 64 (((upto 64).find? (fun i => (s.me.pget a).lanes.getLsbD i)).getD 64)), .fall)) s

/-- `pget` (R140). -/
def execPget (u : Hdr) (d : BitVec 5) (a : BitVec 3) (s : State) : Host.Outcome State Fault Refusal :=
  uniform (.pget u d a) noCheck (fun s => .ok (s.sset d (s.me.pget a).lanes, .fall)) s

/-- `pset` (R140). -/
def execPset (u : Hdr) (d : BitVec 3) (a : BitVec 5) (s : State) : Host.Outcome State Fault Refusal :=
  uniform (.pset u d a) noCheck (fun s => .ok (s.setMe (s.me.pset d ⟨s.sget a, s.sget a != 0⟩), .fall)) s

/-- `plive` (R141): bit 0 is ignored. -/
def execPlive (u : Hdr) (mask : BitVec 8) (s : State) : Host.Outcome State Fault Refusal :=
  uniform (.plive u mask) noCheck (fun s => .ok (s.setMe { s.me with plive := mask &&& 0xFE }, .fall)) s

end Sys2Proof.Machine
end

