-- ==== Sys2Proof/Machine/Home.lean ====
section
/-! DEFINITION. The home of an address (R259, R268-R273, R279-R282): checks, pieces, the skein, loads and stores, and
the counting of tracked stores (R354). -/

namespace Sys2Proof.Machine
open Sys2Proof

/-- A tile as a vector access sees it: elements of w bits (R276 step 2, R279). -/
structure Tile where
  base : BitVec 56
  x0 : Nat
  x1 : Nat
  x2 : Nat
  x3 : Nat
  s1 : Nat
  s2 : Nat
  s3 : Nat
  w : Nat
  deriving DecidableEq, Repr, Inhabited

/-- The tile of a handle seen at w bits: INT64 and AF128 tiles are seen as 32-bit words when w is 32 (R276). -/
def tileOf (h : HBits) (w : Nat) : Tile :=
  let k := if w = 32 ∧ 32 < hWidth h then hWidth h / 32 else 1
  ⟨hBase h, hExt h 0 * k, hExt h 1, hExt h 2, hExt h 3, hStride h 1 * k, hStride h 2 * k, hStride h 3 * k, w⟩

/-- Number of elements. -/
def Tile.count (t : Tile) : Nat := t.x0 * t.x1 * t.x2 * t.x3
/-- Offset of element e from the base, in elements. -/
def Tile.offset (t : Tile) (e : Nat) : Nat :=
  e % t.x0 + e / t.x0 % t.x1 * t.s1 + e / (t.x0 * t.x1) % t.x2 * t.s2 + e / (t.x0 * t.x1 * t.x2) * t.s3
/-- Address of element e, and whether it is a high nibble. -/
def Tile.addr (t : Tile) (e : Nat) : BitVec 56 × Bool :=
  let o := t.offset e
  (t.base + BitVec.ofNat 56 (o * t.w / 8), t.w == 4 && o % 2 == 1)

/-- One element of an access: its index in the row, its lane, its address. -/
structure Elem where
  i : Nat
  lane : Nat
  va : BitVec 56
  hi : Bool
  deriving DecidableEq, Repr, Inhabited

/-- Bytes an element of w bits occupies. -/
def elemBytes (w : Nat) : Nat := (w + 7) / 8

/-- ROLE's TVAL (R112). -/
def roleTval (h : HBits) (role gen : Nat) : Word :=
  BitVec.ofNat 64 (hRegion h + hfield h 0 2 * 2 ^ 18 + role % 4 * 2 ^ 20 + hGen h * 2 ^ 24 + gen % 2 ^ 16 * 2 ^ 40)

/-- The home's verdict on a request (R259). -/
inductive Verdict where
  | ok
  | held
  | perm (lanes : List Nat)
  | role (tval : Word)
  deriving DecidableEq, Repr, Inhabited

/-- Bolt of the region that holds an address; none outside the region's span. -/
def boltOf (s : State) (d r : Nat) (va : BitVec 56) : Option Nat :=
  let base := rgnBase s d r
  let off := vaOff va
  if vaDie va = rgnDie d r ∧ base ≤ off ∧ (off - base) / 65536 < rgnBolts s d r then some ((off - base) / 65536) else none

/-- The bolts of a recast in progress (R257, R259). -/
def inRecast (s : State) (d r b : Nat) : Bool :=
  let p := s.rgnWord d r 0x10
  rgnState s d r == 2 && (bits p 48 13 == 0 || (decide (bits p 16 32 ≤ b) && decide (b < bits p 16 32 + bits p 48 13)))

/-- R259: the checks of a request by a tenant through a handle over the bytes [va, va + n) of some lanes. A recast of a bolt
it touches holds it, and so does the move of its page (R328); `ring` is a request that neither holds: one of the ring
itself, or one taken earlier. -/
def homeCheck (s : State) (tenant : Nat) (h : HBits) (ring : Bool) (n : Nat) (els : List (Nat × BitVec 56)) : Verdict :=
  let d := homeOf (hBase h)
  let r := hRegion h
  let st := rgnState s d r
  let bolts := els.map (fun e => (e.1, boltOf s d r e.2, boltOf s d r (e.2 + BitVec.ofNat 56 (n - 1))))
  let outside := (bolts.filter (fun e => e.2.1.isNone || e.2.2.isNone)).map (·.1)
  if r = 0 ∨ (st ≠ 1 ∧ st ≠ 2) then .perm (els.map (·.1))
  else if outside ≠ [] then .perm outside
  else if bits (s.rgnWord d r 0x18) 24 7 ≠ tenant then .perm (els.map (·.1))
  else
    let touched := bolts.flatMap (fun e => [e.2.1.getD 0, e.2.2.getD 0])
    if !ring && (touched.any (inRecast s d r) || els.any (fun e => migHolds s e.2)) then .held
    else
      let rs := rgnRunList s d r
      let bad := rs.filter (fun e =>
        (e.2.1 != hSpace h || e.2.2 != hGen h) && touched.any (fun b => runAt rs b == some e))
      match bad.head? with
      | some e => .role (roleTval h (spaceCode e.2.1) e.2.2)
      | none => .ok

/-- The request through a handle over some addresses, as its home holds it. -/
def heldReq (h : HBits) (sp : Space) (vas : List (BitVec 56)) : HeldReq :=
  ⟨homeOf (hBase h), hRegion h, sp, (vas.map (fun va => va.toNat / 65536)).eraseDups⟩

/-- The part of a request of many accesses that its home can have taken: what neither a recast nor a migration holds (R259, R328). -/
def heldArea (s : State) (h : HBits) (sp : Space) (vas : List (BitVec 56)) : HeldReq :=
  heldReq h sp (vas.filter (fun va => !migHolds s va &&
    !(boltOf s (homeOf (hBase h)) (hRegion h) va).any (inRecast s (homeOf (hBase h)) (hRegion h))))

/-- A home holds more of a request. -/
def HeldReq.join (t : HeldReq) (prior : Option HeldReq) : HeldReq :=
  { t with blocks := ((prior.map (·.blocks)).getD [] ++ t.blocks).eraseDups }

/-- Whether a request through a handle over some addresses is one that its home holds. -/
def HeldReq.covers (t : HeldReq) (h : HBits) (vas : List (BitVec 56)) : Bool :=
  t.home == homeOf (hBase h) && t.region == hRegion h && vas.all (fun va => t.blocks.contains (va.toNat / 65536))

/-- Whether the home of a handle has taken the running strand's request over some addresses: a recast that begins later waits for it,
and does not hold it (R259, R261). -/
def tookEarlier (s : State) (h : HBits) (vas : List (BitVec 56)) : Bool := s.me.taken.any (·.covers h vas)

/-- The home has taken the running strand's request and holds it. -/
def holdTaken (s : State) (h : HBits) (sp : Space) (vas : List (BitVec 56)) : State :=
  s.setMe { s.me with taken := some (heldReq h sp vas) }

/-- The home has taken Loose rows that go through no handle (R145, R146), beside what it holds of the request already, and holds them. -/
def holdRows (s : State) (vas : List (BitVec 56)) : State :=
  let t : HeldReq := ⟨homeOf (vas.headD 0), 0, .loose, (vas.map (fun va => va.toNat / 65536)).eraseDups⟩
  s.setMe { s.me with taken := some (t.join s.me.taken) }

/-- One more row of the running strand's `ctxsave` or `sts.eos` has been stored: a wait at a later row does not store it again. -/
def rowSaved (s : State) : State := s.setMe { s.me with saved := s.me.saved + 1 }

/-- Whether the unit of page migration holds a row: not one that the home took earlier (R328). -/
def rowMoves (s : State) (va : BitVec 56) : Bool :=
  migHolds s va && !s.me.taken.any (fun t => t.home == homeOf va && t.blocks.contains (va.toNat / 65536))

/-- Distinct pages of a list of addresses, in order of first use. -/
def pagesOf (s : State) (sp : Space) : List (BitVec 56) → List (BitVec 56)
  | [] => []
  | va :: vs => let p := pageAt s sp va; p :: (pagesOf s sp vs).filter (· != p)

/-- Translate each page once. -/
def translatePages (s : State) (sp : Space) (need : Need) : List (BitVec 56) → State × List (BitVec 56 × Xlat)
  | [] => (s, [])
  | p :: ps =>
    let (s, x) := translate s sp p need
    let (s, r) := translatePages s sp need ps
    (s, (p, x) :: r)

/-- What the page of an address gives it. -/
def placeIn (s : State) (sp : Space) (ps : List (BitVec 56 × Xlat)) (va : BitVec 56) : Xlat :=
  let p := pageAt s sp va
  match ps.find? (fun e => e.1 == p) with
  | some (_, .ok k) => .ok (k + (va.toNat - p.toNat))
  | some (_, x) => x
  | none => .perm

/-- Whether an address lies in an element of a tracked tile (R354): a tile is TROWS × 256 bytes in flat order. -/
def trackHit (x : Die) (va : BitVec 56) (t : Track) : Bool :=
  match x.colls.find? (fun c => c.num == t.num) with
  | none => false
  | some c =>
    let w := hWidth c.src
    let first := t.tile * (bits (natOfBytes (c.desc.take 8)) 24 8 * 2048) / w
    (upto (t.size / w)).any (fun i =>
      let a := (elemAddr c.src w (first + i)).1.toNat
      decide (a ≤ va.toNat) && decide (va.toNat < a + elemBytes w))

/-- R354: a store of n bits at an address of a tracked shard counts towards its tile. -/
def countTracked (s : State) (va : BitVec 56) (n : Nat) : State :=
  if s.dies.all (fun (e : Nat × Die) => e.2.tracks.isEmpty) then s
  else { s with dies := s.dies.map (fun (e : Nat × Die) => (e.1, { e.2 with tracks := e.2.tracks.map (fun (t : Track) =>
    if trackHit e.2 va t then { t with count := t.count + n } else t) })) }

/-- Whether an address lies in a tracked tile whose count has reached its size: stores to it wait until the tile has been
read, so that none of them is part of the transfer (R354). -/
def trackFull (s : State) (va : BitVec 56) : Bool :=
  s.dies.any (fun (e : Nat × Die) => e.2.tracks.any (fun t => decide (t.size ≤ t.count) && trackHit e.2 va t))

/-- Write a byte or a nibble of it. -/
def State.setPart (s : State) (k : Nat) (b : Byte) (p : Part) : State :=
  match p with
  | .full => s.setByte k b
  | .low => s.setByte k ((s.byte k &&& 0xF0) ||| (b &&& 0x0F))
  | .high => s.setByte k ((s.byte k &&& 0x0F) ||| (b &&& 0xF0))

/-- The nibbles of a byte that a cell writes, as two bits. -/
def Part.nibbles : Part → Nat
  | .low => 1
  | .high => 2
  | .full => 3

/-- R261, R321: drop, at every die, the entries that name a region. -/
def samplerInvalidate (s : State) (d r : Nat) : State :=
  { s with dies := s.dies.map (fun (e : Nat × Die) => (e.1, { e.2 with
      sampler := e.2.sampler.filter (fun f => !(homeOf (hBase f.result) == d && hRegion f.result == r)) })) }

/-- The region whose STATE byte lies at a place of HBM (R257). -/
def descOf (s : State) (k : Nat) : Option (Nat × Nat) :=
  let d := k / 2 ^ 36
  let base := (s.die d).rgnBase.toNat % 2 ^ 36
  let a := k % 2 ^ 36
  if k % 256 = 7 ∧ d < 24 ∧ base ≤ a ∧ a < base + 2 ^ 26 then some (d, (a - base) / 256) else none

/-- R321: firmware frees a region: no Sampler entry names it any more, and nothing is remembered of its recasts and bounds. -/
def forgetRegion (s : State) (d r : Nat) : State :=
  let s := samplerInvalidate s d r
  let x := s.die d
  s.setDie d { x with rgnx := tdel x.rgnx r, bounds := x.bounds.filter (fun e => e.1 / 2 ^ 47 != r) }

/-- R257, R321: what a write to some places, from s to t, does beside its bytes: it frees regions. -/
def freeRegions (s t : State) (ks : List Nat) : State :=
  (ks.filterMap (descOf s)).foldl (fun (t : State) e =>
    if rgnState s e.1 e.2 ≠ 0 ∧ rgnState t e.1 e.2 = 0 then forgetRegion t e.1 e.2 else t) t

/-- R31, R280: write cells and set the poison of the blocks: the listed blocks become poisoned, and another block that is
written whole, or is among `clean`, becomes clean. -/
def storeCells (s0 : State) (cells : List (Nat × Byte × Part)) (pblocks : List Nat) (clean : List Nat := []) : State :=
  let s := cells.foldl (fun (s : State) c => s.setPart c.1 c.2.1 c.2.2) s0
  let s := freeRegions s0 s (cells.map (·.1))
  let blocks := (cells.map (fun (c : Nat × Byte × Part) => c.1 / 256) ++ pblocks).eraseDups
  let whole (b : Nat) : Bool := cells.foldl (fun m c => if c.1 / 256 == b then m ||| c.2.2.nibbles <<< (2 * (c.1 % 256)) else m) 0
    == 2 ^ 512 - 1
  blocks.foldl (fun (s : State) b =>
    if pblocks.contains b then s.setBlockPoison (256 * b) true
    else if whole b || clean.contains b then s.setBlockPoison (256 * b) false else s) s

/-- The cells of an element value of w bits at a place. -/
def elemCells (k w : Nat) (hi : Bool) (x : Nat) : List (Nat × Byte × Part) :=
  if w = 4 then [(k, BitVec.ofNat 8 (x % 16 * 17), if hi then .high else .low)]
  else (bytesOf (elemBytes w) x).zipIdx.map (fun e => (k + e.2, e.1, .full))

/-- An element value of w bits at a place. -/
def readElem (s : State) (k w : Nat) (hi : Bool) : Nat :=
  if w = 4 then (if hi then (s.byte k).toNat / 16 else (s.byte k).toNat % 16) else s.num k (elemBytes w)

/-- Lowest lane among failed elements and the address of its first failing element, with the lane set (R112). -/
def failInfo (fs : List Elem) (cause : BitVec 8) : TrapInfo :=
  let low := fs.foldl (fun m e => if e.lane < m then e.lane else m) 64
  let va := match fs.find? (fun e => e.lane == low) with
    | some e => e.va
    | none => 0
  { cause := cause, tval := va.setWidth 64, lanes := laneMask (fs.map (·.lane)) }

/-- Where each element of an access lies: through translation, or in the issuing cluster's vault under `.here`. -/
inductive Reach where
  | pages (sp : Space) (ps : List (BitVec 56 × Xlat))
  | here (cluster : Nat) (base : BitVec 56)
  deriving Repr, Inhabited

/-- The place of an element. -/
def Reach.place (r : Reach) (s : State) (va : BitVec 56) : Xlat :=
  match r with
  | .pages sp ps => placeIn s sp ps va
  | .here c base => .ok (vaultKey c (bits base.toNat 0 26 + (va.toNat - base.toNat)))

/-- R203: whether the region of a handle is placed in the vault of a cluster, as its descriptor has it (log entry 9). -/
def placedHere (s : State) (cluster : Nat) (h : HBits) : Bool :=
  let d := cluster / 16
  let r := hRegion h
  (rgnState s d r == 1 || rgnState s d r == 2) && bits (s.rgnWord d r 0) 56 5 == cluster % 16 && r != 0 &&
    vaDie (hBase h) == d && rgnDie d r == d

/-- Whether the bytes [lo, hi) from BASE lie in the bolts of a region placed in the vault of a cluster (R203). -/
def inBolts (s : State) (cluster : Nat) (h : HBits) (lo hi : Nat) : Bool :=
  let base := rgnBase s (cluster / 16) (hRegion h)
  let at' := vaOff (hBase h)
  decide (base ≤ at' + lo) && decide (at' + hi ≤ base + 65536 * rgnBolts s (cluster / 16) (hRegion h))

/-- Whether the bytes up to hi from BASE lie in the region area of a cluster's vault (R206, R208). -/
def inArea (s : State) (cluster : Nat) (h : HBits) (hi : Nat) : Bool :=
  decide (bits (hBase h).toNat 0 26 + hi ≤ (s.cluster cluster).rtop.toNat * 2 ^ 20)

/-- R203, R208: the vault's tag store, read from the descriptors of the regions placed in it (log entry 9): PERM when
the region is not there, or the bytes [lo, hi) from BASE leave it; ROLE from the first differing run they touch. -/
def tagCheck (s : State) (cluster : Nat) (h : HBits) (lo hi : Nat) : Except (BitVec 8 × Word) Unit :=
  let d := cluster / 16
  let r := hRegion h
  let base := rgnBase s d r
  let at' := vaOff (hBase h)
  if !placedHere s cluster h || !inBolts s cluster h lo hi then .error (cPERM, (hBase h).setWidth 64)
  else
    let rs := rgnRunList s d r
    let first := (at' + lo - base) / 65536
    let last := (at' + hi - 1 - base) / 65536
    let bad := rs.filter (fun e => (e.2.1 != hSpace h || e.2.2 != hGen h) &&
      (decide (first ≤ e.1 ∧ e.1 ≤ last) || runAt rs first == some e))
    match bad.head? with
    | some e => .error (cROLE, roleTval h (spaceCode e.2.1) e.2.2)
    | none => .ok ()

/-- The tag store's ROLE for the first of some elements of n bytes that lies in a run of another role or generation (R208). -/
def hereRole (s : State) (h : HBits) (n : Nat) : List Elem → Option (BitVec 8 × Word)
  | [] => none
  | e :: es =>
    let o := e.va.toNat - (hBase h).toNat
    match tagCheck s s.myCluster h o (o + n) with
    | .error x => some x
    | .ok () => hereRole s h n es

/-- R208: the checks of `.here` against the issuing cluster's vault and its tag store, element by element: PERM names the elements
outside the region or the region area (log entry 9). -/
def hereCheck (s : State) (h : HBits) (n : Nat) (els : List Elem) : Except Halt Unit :=
  let inside (e : Elem) : Bool :=
    let o := e.va.toNat - (hBase h).toNat
    inBolts s s.myCluster h o (o + n) && inArea s s.myCluster h (o + n)
  if els = [] then .ok ()
  else if !hVl h || !placedHere s s.myCluster h then .error (.trap s (failInfo els cPERM))
  else if els.any (fun e => !inside e) then .error (.trap s (failInfo (els.filter (fun e => !inside e)) cPERM))
  else
    match hereRole s h n els with
    | some (c, tv) => raise s c tv
    | none =>
      if !tookEarlier s h (els.map (·.va)) && els.any (fun e => ((boltOf s s.myDie (hRegion h) e.va).any
          (inRecast s s.myDie (hRegion h)))) then .error (.wait s .held none)
      else .ok ()

/-- The home's checks of a vector access, then the translation of its pages. A held request leaves the strand waiting. -/
def openAccess (s : State) (h : HBits) (sp : Space) (need : Need) (hre : Bool) (n : Nat) (els : List Elem) :
    Except Halt (State × Reach) :=
  if hre then do
    hereCheck s h n els
    .ok (s, .here s.myCluster (hBase h))
  else if els = [] then .ok (s, .pages sp [])
  else
    match homeCheck s s.myTenant h (tookEarlier s h (els.map (·.va))) n (els.map (fun e => (e.lane, e.va))) with
    | .perm lanes => .error (.trap s (failInfo (els.filter (fun e => lanes.contains e.lane)) cPERM))
    | .role tv => raise s cROLE tv
    | .held => .error (.wait s .held none)
    | .ok =>
      let (s, ps) := translatePages s sp need (pagesOf s sp (els.map (·.va)))
      match ps.find? (fun e => match e.2 with
        | .nowhere _ => true
        | _ => false) with
      | some (_, .nowhere k) => .error (.stop (.noStorage k))
      | _ => .ok (s, .pages sp ps)

/-! Replicas of Fixed bolts (R245). -/

/-- The replicas of a run's generation that hold the bolt of an address. -/
def Replica.serves (e : Replica) (tenant : Nat) (h : HBits) (va : BitVec 56) : Bool :=
  e.home == homeOf (hBase h) && e.region == hRegion h && e.gen == hGen h && e.tenant == tenant &&
    va.toNat / 65536 == e.va.toNat / 65536

/-- R245: the first valid copy of a Fixed element: in the issuing cluster's replica area, then in the die's replica store. A
replica is valid while the holder die's directory, this list, holds it under the run's generation. -/
def replicaOf (s : State) (h : HBits) (va : BitVec 56) : Option Replica :=
  let rs := (s.die s.myDie).replicas
  let mine (c : Option Nat) (e : Replica) : Bool := e.cluster == c && e.serves s.myTenant h va
  (rs.find? (mine (some s.myCluster))).or (rs.find? (mine none))

/-- Byte i of a bolt's copy. -/
def Replica.byte (e : Replica) (i : Nat) : Byte := tget 0 e.cells i

/-- An element of w bits from a copy, with its block's poison. -/
def Replica.elem (e : Replica) (va : BitVec 56) (w : Nat) (hi : Bool) : Nat × Bool :=
  let o := va.toNat % 65536
  let v := natOfBytes ((upto (elemBytes w)).map (fun i => e.byte (o + i)))
  (if w = 4 then (if hi then v / 16 else v % 16) else v, tget false e.poison (o / 256))

/-- Bolts the replica area of a cluster's vault holds (R206). -/
def replicaRoom (x : Cluster) : Nat := 16 * (43 - x.rtop.toNat)

/-- The copy of a bolt's 65,536 bytes from a place on (R245). -/
def copyBolt (s : State) (k : Nat) : List Host.Cell × List (Nat × Bool) :=
  let inside (n lo i : Nat) : Bool := decide (lo ≤ i) && decide (i < lo + n)
  ((s.mem.filter (fun c => inside 65536 k c.1)).map (fun c => (c.1 - k, c.2)),
   (s.poison.filter (fun c => inside 256 (k / 256) c.1)).map (fun c => (c.1 - k / 256, c.2)))

/-- R245: firmware's policy may make a replica of the bolt that a Fixed read took from its home, in the issuing cluster's
replica area or in the die's store; no value read depends on it (log entry 13). The home notes the holder die (R257). -/
def makeReplica (s : State) (h : HBits) (va : BitVec 56) : State :=
  let home := homeOf (hBase h)
  let r := hRegion h
  let d := s.myDie
  let c := match Config.replicaPlace d r s.cycle.toNat with
    | true => some s.myCluster
    | false => none
  let x := s.die d
  let full := c.isSome && decide (replicaRoom (s.cluster s.myCluster) ≤ (x.replicas.filter (fun e => e.cluster == c)).length)
  let lo := BitVec.ofNat 56 (va.toNat / 65536 * 65536)
  match Config.replicaPolicy d r s.cycle.toNat, (translate s .fixed lo { rd := true }).2 with
  | true, .ok k =>
    if vaDie va = 31 ∨ full then s
    else
      let (cells, poison) := copyBolt s k
      let e : Replica := ⟨c, home, r, s.myTenant, lo, hGen h, cells, poison⟩
      let s := s.setDie d { x with replicas := x.replicas ++ [e] }
      s.setRgnWord home r 0x18 (putBits (s.rgnWord home r 0x18) d 1 1)
  | _, _ => s

/-- Load pieces from the home: each element's value, or the cause that failed its piece (R269, R270, R273). A page that is not
present, or has pending skein entries, holds the strand until firmware decides; a piece whose page was declared unmappable has
failed, whatever is mapped later. -/
def homeElems (s : State) (h : HBits) (sp : Space) (hre : Bool) (w : Nat) (els : List Elem) :
    Except Halt (State × List (Elem × Nat) × List Elem × List Elem × Bool) := do
  let (s, r) ← openAccess s h sp { rd := true } hre (elemBytes w) els
  let at' (e : Elem) : Xlat := r.place s e.va
  let absent := els.filter (fun e => s.me.absent.contains (sp, pageAt s sp e.va))
  let live := els.filter (fun e => !s.me.absent.contains (sp, pageAt s sp e.va))
  if live.any (fun e => at' e == .absent || pendingPage s sp (pageAt s sp e.va)) then
    .error (.wait (holdTaken s h sp (els.map (·.va))) .held none)
  else
    let got := live.filterMap (fun e => match at' e with
      | .ok k => some (e, readElem s k w e.hi)
      | _ => none)
    let poison := live.any (fun e => match at' e with
      | .ok k => s.blockPoison k
      | _ => false)
    .ok (s, got, absent, live.filter (fun e => at' e == .perm), poison)

/-- R245: an element that a valid replica serves never goes to the home. -/
def fromReplicas (s : State) (h : HBits) (w : Nat) (els : List Elem) : List (Elem × Nat × Bool) :=
  els.filterMap (fun e => (replicaOf s h e.va).map (fun c => (e, c.elem e.va w e.hi)))

/-- Load pieces: each element's value, or the cause that failed its piece. Fixed elements come from the first valid copy: the
cluster's replicas, the die's, the home (R245). -/
def loadElems (s : State) (h : HBits) (sp : Space) (hre : Bool) (w : Nat) (els : List Elem) :
    Except Halt (State × List (Elem × Nat) × List Elem × List Elem × Bool) := do
  let near : List (Elem × Nat × Bool) := if sp == .fixed && !hre then fromReplicas s h w els else []
  let far := els.filter (fun e => near.all (fun c => c.1 != e))
  let (s, got, absent, perm, poison) ← homeElems s h sp hre w far
  let s := match got with
    | e :: _ => if sp == .fixed && !hre then makeReplica s h e.1.va else s
    | [] => s
  .ok (s, near.map (fun (c : Elem × Nat × Bool) => (c.1, c.2.1)) ++ got, absent, perm, near.any (fun c => c.2.2) || poison)

/-- The pages whose store pieces enter the skein: those that are not present or have pending entries, whatever their leaf
allows (R270, R272). -/
def skeinPages (s : State) (sp : Space) (ps : List (BitVec 56 × Xlat)) : List (BitVec 56) :=
  (ps.filter (fun p => p.2 == .absent || pendingPage s sp p.1)).map (·.1)

/-- Put an element where its place falls in a list that is ordered by place. -/
def placeElem (place : Nat → Nat) (x : Elem × Nat) : List (Elem × Nat) → List (Elem × Nat)
  | [] => [x]
  | y :: ys => if place x.1.i ≤ place y.1.i then x :: y :: ys else y :: placeElem place x ys

/-- Elements in the order of their places. -/
def byPlace (place : Nat → Nat) : List (Elem × Nat) → List (Elem × Nat)
  | [] => []
  | x :: xs => placeElem place x (byPlace place xs)

/-- Whether the locations of elements rise, so that no two are the same. -/
def rising : List (Elem × Nat) → Bool
  | x :: y :: ys => (decide (x.1.va.toNat < y.1.va.toNat) || (x.1.va == y.1.va && !x.1.hi && y.1.hi)) && rising (y :: ys)
  | _ => true

/-- The order in which the elements of one access are performed, which R282 leaves open: any, where two may name one
location (log entry 4). -/
def anyOrder (s : State) (els : List (Elem × Nat)) : List (Elem × Nat) :=
  if rising els then els else byPlace (Config.elemPlace s.cycle.toNat s.cur) els

/-- Store pieces (R270, R273, R280): translated pieces are performed, absent ones enter the skein, forbidden ones
answer their elements. A store under `.here` enters the skein behind its page's pending entries too (R208, R282). Elements are
performed in ascending order when `ordered` (R281), else in an order left open (R282); `tracked` stores count towards the
tiles of a collective (R354). -/
def storeElems (s : State) (h : HBits) (sp : Space) (hre : Bool) (w : Nat) (ordered tracked : Bool) (poison : Elem → Bool)
    (els : List (Elem × Nat)) : Except Halt (State × List Elem) := do
  let (s, r) ← openAccess s h sp { wr := true } hre (elemBytes w) (els.map (·.1))
  let sk : List (BitVec 56) := match r with
    | .pages sp ps => skeinPages s sp ps
    | .here .. => (pagesOf s sp (els.map (fun (e : Elem × Nat) => e.1.va))).filter (pendingPage s sp)
  let d := homeOf (hBase h)
  let held : State := holdTaken s h sp (els.map (·.1.va))
  if els.any (fun e => trackFull s e.1.va) then .error (.wait held .held none)
  else match skeinRoom s d s.myTenant s.myCore sk.length with
  | .limit => .error (.wait (freezeCore held d s.myCore 1) .held none)
  | .full => .error (.wait held .held none)
  | .yes =>
    let logged (e : Elem) : Bool := sk.contains (pageAt s sp e.va)
    let turns := if ordered then els else anyOrder s els
    let cells := turns.flatMap (fun e => match r.place s e.1.va with
      | .ok k => if logged e.1 then [] else elemCells k w e.1.hi e.2
      | _ => [])
    let bad := (els.filter (fun e => r.place s e.1.va == .perm && !logged e.1)).map (·.1)
    let taken := els.filter (fun e => !bad.contains e.1)
    let pb := els.flatMap (fun e => if poison e.1 && !logged e.1 then
        (match r.place s e.1.va with
        | .ok k => [k / 256]
        | _ => [])
      else [])
    let s := storeCells s cells pb.eraseDups
    let s := sk.foldl (fun (s : State) p =>
      let mine := turns.filter (fun e => pageAt s sp e.1.va == p)
      let cs := mine.flatMap (fun e => elemCells (e.1.va.toNat - p.toNat) w e.1.hi e.2)
      skeinAdd s d {
        space := sp, va := p, id := s.myLaunch, tenant := s.myTenant, handle := h
        op := .store cs (mine.flatMap (fun e =>
          if poison e.1 then [(e.1.va.toNat - p.toNat) / 256] else [])).eraseDups }) s
    let s := if tracked then taken.foldl (fun (s : State) e => countTracked s e.1.va w) s else s
    .ok (s, bad)

/-- The trap of failed load pieces: PERM when both kinds fail (R269). -/
def pieceTrap (absent perm : List Elem) : Option TrapInfo :=
  if perm ≠ [] then some { failInfo (absent ++ perm) cPERM with }
  else if absent ≠ [] then some (failInfo absent cABSENT)
  else none

end Sys2Proof.Machine
end

