-- ==== Sys2Proof/Machine/System.lean ====
section
/-! DEFINITION. Feature words (R142, R374), system and core registers (R99-R101, R143, R144, R177, R178), and the context
save and restore (R117, R118, R145, R146). -/

namespace Sys2Proof.Machine
open Sys2Proof

/-- Feature words of this generation (R374). -/
def featureWord (n : Int) : Word :=
  if n = 0 then 0x0000001800010001
  else if n = 1 then 0x7FF
  else if n = 2 then 0x7FF
  else if n = 3 then 0x0000030810800200
  else if n = 4 then 0x4000200000300030
  else if n = 5 then 0x3FF3E
  else 0

/-- `feat` (R142). -/
def execFeat (u : Hdr) (d : BitVec 5) (imm : BitVec 22) (s : State) : Host.Outcome State Fault Refusal :=
  uniform (.feat u d imm) noCheck
    (fun s => .ok (s.sset d (featureWord (immVal (modsOf u.pfx) 22 imm.toNat)), .fall)) s

/-- STATUS of strand n (R101). -/
def statusWord (s : State) (n : Nat) : Word :=
  let x := s.strand n
  BitVec.ofNat 64 (b2n x.pure * 64 + numOf n * 16 + b2n (bit (s.die (dieOfStrand n)).dmode.toNat 63) * 8
    + b2n x.strict * 4 + b2n x.inh * 2 + b2n x.mode)

/-- WSTAT (R101). -/
def wstatWord (x : Strand) : Word := BitVec.ofNat 64 (x.spilld % 2 ^ 32 * 2 ^ 32 + x.depth * 2 ^ 16 + x.res)

/-- SPILLH (R101). -/
def spillhWord (x : Strand) : Word := BitVec.ofNat 64 (x.spillSize.toNat * 2 ^ 56 + x.spillBase.toNat)

/-- 64 bits of a 512-bit row set. -/
def rowSet64 (w : BitVec 512) (n : Nat) : Word := (w >>> (64 * n)).setWidth 64

/-- The poison bits of the band rows (R178). -/
def bandPoison (k : Core) : BitVec 512 :=
  k.band.foldl (fun (w : BitVec 512) e => if e.2.poison then w ||| (1#512 <<< e.1) else w) 0

/-- One byte per engine or queue, lowest first. -/
def byteFields (n : Nat) (f : Nat → Nat) : Word := BitVec.ofNat 64 (joinElems 8 ((upto n).map f))

/-- The value of a system or core register (R101, R178). -/
def sysRead (s : State) (r : SysReg) : Word :=
  let x := s.me
  let k := s.kore
  match r with
  | .status => statusWord s s.cur
  | .plive => (x.plive &&& 0xFE).setWidth 64
  | .vwb => BitVec.ofNat 64 (s.vkey 0 % 2048)
  | .swb => BitVec.ofNat 64 (16 * x.swb.toNat)
  | .part => k.part.setWidth 64
  | .portmap => k.portmap.setWidth 64
  | .wlim => BitVec.ofNat 64 x.wlim
  | .spillh => spillhWord x
  | .wstat => wstatWord x
  | .thnd => x.thnd.setWidth 64
  | .tcause => x.tcause.setWidth 64
  | .tpc => x.tpc
  | .tval => x.tval
  | .tlanes => x.tlanes
  | .srkey => x.srkey
  | .flnv => x.flnv
  | .fldz => x.fldz
  | .flof => x.flof
  | .fluf => x.fluf
  | .flnx => x.flnx
  | .cycle => s.cycle
  | .stcyc => s.cycle - x.stcyc
  | .wptr n => tget 0 k.wptr n.toNat
  | .tokq => byteFields 8 (fun q => let t := tget {} k.tok q; t.count + 64 * b2n t.ovf)
  | .cqocc => byteFields 4 (fun e => (k.engine e).comp.length)
  | .cmdocc => byteFields 4 (fun e => queuedFor s s.myCore e)
  | .corenum => BitVec.ofNat 64 (s.myDie * 2 ^ 11 + s.myCluster % 16 * 2 ^ 7 + s.myCore % 8)
  | .bankloss n => (tget 0 k.bankloss n.toNat).setWidth 64
  | .bfull n => rowSet64 k.full n.toNat
  | .bpsn n => rowSet64 (bandPoison k) n.toNat

/-- The registers whose `sysr` a pure task may not make (R101, R177). -/
def timingReg : SysReg → Bool
  | .cycle | .stcyc | .wptr _ | .tokq | .cqocc | .cmdocc | .corenum | .bankloss _ | .bfull _ | .bpsn _ => true
  | _ => false

/-- `sysr` (R143). -/
def execSysr (u : Hdr) (d : BitVec 5) (r : SysReg) (s : State) : Host.Outcome State Fault Refusal :=
  uniform (.sysr u d r) noCheck (fun s =>
    if s.isPure && timingReg r then purity s 4 else .ok (s.sset d (sysRead s r), .fall)) s

/-- The registers with PRIV fields (R143). -/
def privReg : SysReg → Bool
  | .vwb | .swb | .part | .portmap | .spillh | .thnd => true
  | _ => false

/-- The effect of `sysw` (R101, R143, R144, R178): read-only and reserved bits are ignored. SWB drops bits [3:0] of what is written;
VWB leaves the quotient of VOFF by PS, takes the row modulo PS, and changes nothing where PS = 0 (log entry 28). -/
def sysWrite (s : State) (r : SysReg) (w : Word) : State :=
  let x := s.me
  let k := s.kore
  match r with
  | .status => s.setMe { x with strict := w.getLsbD 2 }
  | .plive => s.setMe { x with plive := w.setWidth 8 &&& 0xFE }
  | .vwb =>
    let ps : Int := s.ps
    let row : Int := (bits w.toNat 0 11 : Nat)
    if ps = 0 then s else s.setMe { x with voff := x.voff - x.voff % ps + (row - s.pb) % ps }
  | .swb => s.setMe { x with swb := BitVec.ofNat 3 (bits w.toNat 4 3) }
  | .part => s.setKore { k with partNext := some (w.setWidth 24) }
  | .portmap => s.setKore { k with portNext := some (w.setWidth 8) }
  | .wlim => s.setMe { x with wlim := min (bits w.toNat 0 17) 65536 }
  | .spillh => s.setMe { x with spillSize := BitVec.ofNat 8 (bits w.toNat 56 8), spillBase := w.setWidth 56 }
  | .thnd => s.setMe { x with thnd := w.setWidth 56 }
  | .tpc => s.setMe { x with tpc := w }
  | .srkey => s.setMe { x with srkey := w }
  | .flnv => s.setMe { x with flnv := w }
  | .fldz => s.setMe { x with fldz := w }
  | .flof => s.setMe { x with flof := w }
  | .fluf => s.setMe { x with fluf := w }
  | .flnx => s.setMe { x with flnx := w }
  | .tokq => s.setKore { k with tok := k.tok.map (fun e =>
      (e.1, if w.getLsbD (8 * e.1 + 6) then { e.2 with ovf := false } else e.2)) |>.filter (fun e => e.2 != {}) }
  | .bankloss n => s.setKore { k with bankloss := tset 0 k.bankloss n.toNat (w.setWidth 32) }
  | .wstat | .tcause | .tval | .tlanes | .cycle | .stcyc | .wptr _ | .cqocc | .cmdocc | .corenum | .bfull _ | .bpsn _ => s

/-- `sysw` (R143): PRIV ignores the guard (R67). A larger write to WLIM stores 65,536 (R101). -/
def execSysw (u : Hdr) (r : SysReg) (a : BitVec 5) (s : State) : Host.Outcome State Fault Refusal :=
  uniform (.sysw u r a) (fun s => if privReg r then privCheck (.sysw u r a) s else none) (fun s =>
    if s.isPure && r == .srkey then purity s 5
    else if r == .wlim && decide (65536 < (s.sget a).toNat) then .ok (sysWrite s r 65536, .fall)
    else .ok (sysWrite s r (s.sget a), .fall)) s

/-! The save area (R117, R118). -/

/-- The packed slots of the live predicates (R118): 112 bytes. -/
def livePreds (x : Strand) : List Byte :=
  let live := (upto 8).filter (fun i => decide (0 < i) && x.plive.getLsbD i)
  let packed := live.flatMap (fun i =>
    let p := x.pget (BitVec.ofNat 3 i)
    bytesOf 8 p.lanes.toNat ++ bytesOf 8 (b2n p.u))
  (packed ++ List.replicate 112 0).take 112

/-- Zero bytes. -/
def zeros (n : Nat) : List Byte := List.replicate n 0

/-- Cut bytes into clean rows of 256. -/
def bytesRows : Nat → List Byte → List PRow
  | 0, _ => []
  | n + 1, bs => ⟨BitVec.ofNat 2048 (natOfBytes (bs.take 256)), false⟩ :: bytesRows n (bs.drop 256)

/-- The save area of strand n with a resume PC, as rows of 256 bytes (R117). -/
def saveRows (s : State) (n : Nat) (resume : Word) : List PRow :=
  let x := s.strand n
  let k := s.core (coreOf n)
  let ps := partSize k.part (numOf n)
  let md (v : Int) : Nat := if ps = 0 then 0 else (v % (ps : Int)).toNat
  let w (v : Nat) : List Byte := bytesOf 8 v
  let head :=
    w (1 + (x.plive &&& 0xFE).toNat * 2 ^ 8 + numOf n * 2 ^ 16 + ps / 16 * 2 ^ 24) ++ w resume.toNat
    ++ w (statusWord s n).toNat ++ w (wstatWord x).toNat
    ++ w (md x.voff + md x.rb * 2 ^ 16 + x.swb.toNat * 2 ^ 32) ++ w x.wlim ++ w x.srkey.toNat
    ++ w (spillhWord x).toNat ++ w x.thnd.toNat ++ w x.tcause.toNat ++ w x.tpc.toNat ++ w x.tval.toNat
    ++ w x.tlanes.toNat ++ w x.flnv.toNat ++ w x.fldz.toNat ++ w x.flof.toNat ++ w x.fluf.toNat ++ w x.flnx.toNat
    ++ zeros 112
    ++ ((upto 15).flatMap (fun i => w (x.sget (BitVec.ofNat 5 (i + 1))).toNat)) ++ zeros 8
    ++ livePreds x ++ zeros 16
    ++ ((upto 16).flatMap (fun i => bytesOf 32 (x.hget (BitVec.ofNat 4 i)).toNat))
    ++ ((upto 8).flatMap (fun v => (upto 16).flatMap (fun i => w (x.wget (BitVec.ofNat 3 v) i).toNat)))
  bytesRows 8 head ++ ((upto 8).map (fun i => tget {} x.orows i)) ++ [x.lx] ++ List.replicate 15 ({} : PRow)
    ++ ((upto ps).map (fun i => tget {} k.vfile (partBase k.part (numOf n) + i)))

/-- Loose stores of whole rows by the hardware for the running strand (R145): a page that is not present takes skein entries; a
forbidden page ends with its address. The rows that were stored before a wait are counted. -/
def storeRows (s : State) : BitVec 56 → List PRow → Except Halt State
  | _, [] => .ok s
  | va, r :: rs =>
    let logged := pendingPage s .loose (pageAt s .loose va)
    match if rowMoves s va then (s, .held) else translate s .loose va { wr := true } with
    | (_, .nowhere k) => .error (.stop (.noStorage k))
    | (s, .held) => .error (.wait s .held none)
    | (s, x) =>
      if x == .perm && !logged then .error (.trap s { cause := cPERM, tval := va.setWidth 64 })
      else if x == .absent || logged then
        let cells := (bytesOf 256 r.bits.toNat).zipIdx.map (fun e => (e.2, e.1, Part.full))
        let e : SkeinEntry :=
          { va := va, id := s.myLaunch, tenant := s.myTenant, op := .store cells (if r.poison then [0] else []) }
        match skeinRoom s (homeOf va) s.myTenant s.myCore 1 with
        | .limit => .error (.wait (freezeCore (holdRows s [va]) (homeOf va) s.myCore 1) .held none)
        | .full => .error (.wait (holdRows s [va]) .held none)
        | .yes => storeRows (rowSaved (skeinAdd s (homeOf va) e)) (va + 256) rs
      else
        match x with
        | .ok k => storeRows (rowSaved (s.setRowAt k r)) (va + 256) rs
        | _ => storeRows (rowSaved s) (va + 256) rs

/-- Loose reads of whole rows (R146): a page that is not present, or has pending entries, holds the strand until
firmware decides; one declared unmappable has failed. `area` is what a home then holds of the request. -/
def loadRows (s : State) (area : List (BitVec 56)) : BitVec 56 → Nat → Except Halt (State × List PRow)
  | _, 0 => .ok (s, [])
  | va, n + 1 =>
    if rowMoves s va then .error (.wait s .held none)
    else if s.me.absent.contains (.loose, pageAt s .loose va) then
      .error (.trap s { cause := cABSENT, tval := va.setWidth 64 })
    else if pendingPage s .loose (pageAt s .loose va) then .error (.wait (holdRows s area) .held none)
    else
      match translate s .loose va { rd := true } with
      | (_, .nowhere k) => .error (.stop (.noStorage k))
      | (s, .perm) => .error (.trap s { cause := cPERM, tval := va.setWidth 64 })
      | (s, .ok k) => do
        let (s, rs) ← loadRows s area (va + 256) n
        .ok (s, s.rowAt k :: rs)
      | (s, _) => .error (.wait (holdRows s area) .held none)

/-- The bytes of rows. -/
def rowsBytes (rs : List PRow) : List Byte := rs.flatMap (fun r => bytesOf 256 r.bits.toNat)

/-- The strand a save area holds, on a strand with partition size `ps`; STATUS.MODE, STRAND, PURE and FIXLAT stay those
of the restoring strand (R146). -/
def restoreStrand (x : Strand) (ps : Nat) (rows : List PRow) : Strand :=
  let bs := rowsBytes (rows.take 8)
  let w (off : Nat) : Nat := wordAt bs off
  let head := w 0
  let st := w 0x10
  let ws := w 0x18
  let v := bits (w 0x20) 0 11
  let r := bits (w 0x20) 16 11
  let back : Nat := if ps = 0 then 0 else (((v : Int) - r) % (ps : Int)).toNat
  let y : Strand := { x with
    pc := alignPc (BitVec.ofNat 64 (w 8))
    plive := BitVec.ofNat 8 (bits head 8 8) &&& 0xFE
    strict := bit st 2
    inh := bit st 1
    depth := bits ws 16 16
    res := bits ws 0 4
    spilld := bits ws 32 32
    voff := v
    rb := (v : Int) - back
    swb := BitVec.ofNat 3 (bits (w 0x20) 32 3)
    wlim := min (bits (w 0x28) 0 17) 65536
    srkey := BitVec.ofNat 64 (w 0x30)
    spillSize := BitVec.ofNat 8 (bits (w 0x38) 56 8)
    spillBase := BitVec.ofNat 56 (w 0x38)
    thnd := BitVec.ofNat 56 (w 0x40)
    tcause := BitVec.ofNat 16 (w 0x48)
    tpc := BitVec.ofNat 64 (w 0x50)
    tval := BitVec.ofNat 64 (w 0x58)
    tlanes := BitVec.ofNat 64 (w 0x60)
    flnv := BitVec.ofNat 64 (w 0x68)
    fldz := BitVec.ofNat 64 (w 0x70)
    flof := BitVec.ofNat 64 (w 0x78)
    fluf := BitVec.ofNat 64 (w 0x80)
    flnx := BitVec.ofNat 64 (w 0x88)
    lx := (rows.drop 16).headD {} }
  let y := (upto 15).foldl (fun (y : Strand) i => y.sset (BitVec.ofNat 5 (i + 1)) (BitVec.ofNat 64 (w (0x100 + 8 * i)))) y
  let live := (upto 8).filter (fun i => decide (0 < i) && bit head (8 + i))
  let y := { y with preds := [] }
  let y := live.zipIdx.foldl (fun (y : Strand) (e : Nat × Nat) =>
    y.pset (BitVec.ofNat 3 e.1) ⟨BitVec.ofNat 64 (w (0x180 + 16 * e.2)), bit (w (0x188 + 16 * e.2)) 0⟩) y
  let y := (upto 16).foldl (fun (y : Strand) i =>
    y.hset (BitVec.ofNat 4 i) (BitVec.ofNat 256 (natOfBytes ((bs.drop (0x200 + 32 * i)).take 32)))) y
  let y := (upto 8).foldl (fun (y : Strand) v => (upto 16).foldl (fun (y : Strand) i =>
    y.wset (BitVec.ofNat 3 v) i (BitVec.ofNat 64 (w (0x400 + 128 * v + 8 * i)))) y) y
  (upto 8).foldl (fun (y : Strand) i => { y with orows := tset {} y.orows i ((rows.drop (8 + i)).headD {}) }) y

/-- Put partition rows back at a core's partition base (R117). -/
def restorePart (k : Core) (n : Nat) (rows : List PRow) : Core :=
  rows.zipIdx.foldl (fun (k : Core) (e : PRow × Nat) =>
    { k with vfile := tset {} k.vfile (partBase k.part n + e.2) e.1 }) k

/-- Whether a save area's header fits a strand of partition size `ps` (R146). -/
def headerFits (ps : Nat) (rows : List PRow) : Bool :=
  let h := wordAt (rowsBytes (rows.take 1)) 0
  bits h 0 8 == 1 && bits h 24 8 == ps / 16

/-- `ctxsave` (R145): bits [63:56] of the address are ignored (log entry 19). A row that its home has taken is not stored again. -/
def execCtxsave (u : Hdr) (a : BitVec 5) (s : State) : Host.Outcome State Fault Refusal :=
  uniform (.ctxsave u a) (privCheck (.ctxsave u a)) (fun s =>
    let va := s.sget a
    if va.toNat % 256 ≠ 0 then raise s cALIGN va
    else do
      let s ← storeRows s (va.setWidth 56 + BitVec.ofNat 56 (256 * s.me.saved))
        ((saveRows s s.cur (s.me.pc + BitVec.ofNat 64 (unitLen (.ctxsave u a)))).drop s.me.saved)
      .ok (s, .fall)) s

/-- The addresses of n rows from one on that no migration holds. -/
def rowArea (s : State) (va : BitVec 56) (n : Nat) : List (BitVec 56) :=
  ((upto n).map (fun i => va + BitVec.ofNat 56 (256 * i))).filter (fun a => !migHolds s a)

/-- `ctxrestore` (R146): bits [63:56] of the address are ignored (log entry 19). -/
def execCtxrestore (u : Hdr) (a : BitVec 5) (s : State) : Host.Outcome State Fault Refusal :=
  uniform (.ctxrestore u a) (privCheck (.ctxrestore u a)) (fun s =>
    let va := s.sget a
    if va.toNat % 256 ≠ 0 then raise s cALIGN va
    else do
      let (s, rows) ← loadRows s (rowArea s (va.setWidth 56) (32 + s.ps)) (va.setWidth 56) (32 + s.ps)
      if !headerFits s.ps rows then window s 8
      else
        let k := restorePart s.kore (numOf s.cur) (rows.drop 32)
        .ok ((s.setKore k).setMe (restoreStrand s.me s.ps rows), .stay)) s

end Sys2Proof.Machine
end

