-- ==== Sys2Proof/Machine/Operands.lean ====
section
/-! DEFINITION. Vector operands and the order of reads and writes (R62, R104, R116, R148, R149, R172, R174). -/

namespace Sys2Proof.Machine
open Sys2Proof

/-- A row that an instruction reads. -/
inductive Ref where
  | row (r : Row)
  | lx
  deriving DecidableEq, Repr, Inhabited

/-- Operand code of a row read (R62). -/
def Ref.code : Ref → Nat
  | .row r => r.code
  | .lx => 0x308

/-- The row a source operand reads for row j of a run: broadcasts read none (R148). -/
def srcRef (a : VSrc) (j : Nat) : List Ref :=
  match a with
  | .row r => [.row (Row.plus r j)]
  | .lx => [.lx]
  | .scal _ => []
  | .imm _ => []

/-- The row a RowSrc reads. -/
def rowSrcRef : RowSrc → Ref
  | .row r => .row r
  | .lx => .lx

/-- Read the rows not yet held, in order: a band row is waited on until it is full (R104, R149). What was read stays
read while the unit waits. -/
def readRefs (s : State) : List Ref → List PRow → Except Halt (List PRow)
  | [], got => .ok got
  | .lx :: rs, got => readRefs s rs (got ++ [s.me.lx])
  | .row r :: rs, got =>
    match r with
    | .b n =>
      if s.kore.isFull n.toNat then readRefs s rs (got ++ [s.rowGet r])
      else .error (.wait (s.setMe { s.me with held := got }) (.bandFull n.toNat) (some s.me.wlim))
    | _ => readRefs s rs (got ++ [s.rowGet r])

/-- Step 1 of R149: every source row, those already held first. -/
def readSources (s : State) (refs : List Ref) : Except Halt (List PRow) :=
  readRefs s (refs.drop s.me.held.length) s.me.held

/-- R116: POISON in strict mode, with the operand code of the first poisoned source row. -/
def strictCheck (s : State) (lanes : Word) (refs : List Ref) (vals : List PRow) : Except Halt Unit :=
  if s.me.strict then
    match (refs.zip vals).find? (fun e => e.2.poison) with
    | some e => raise s cPOISON (BitVec.ofNat 64 e.1.code) 0 lanes
    | none => .ok ()
  else .ok ()

/-- Who reserved a band row (R174). -/
def reservedBy (k : Core) (b : Nat) : Option Nat := (k.reserved.find? (fun e => e.1 == b)).map (·.2)

/-- R173: whether an engine command of a core that was issued before `age` (or, where `tie`, in that cycle) waits to write a
band row: a copy-in or an `mdrain`. -/
def olderEngine (s : State) (c b : Nat) (age : Word) (tie : Bool) : Bool :=
  (((s.core c).engine 0).running ++ (s.cluster (clusterOf c)).running.toList.filter (fun q => coreOf q.strand == c)).any
    (fun q => q.blocked.contains b && (decide (q.issued < age) || (tie && q.issued == age)))

/-- The cycle in which the unit of strand n first issued: in which it lost a bank, began to wait, or this one (R171, R173). -/
def ageOf (s : State) (n : Nat) : Word := (s.strand n).age.getD (match (s.strand n).wait with
  | some w => w.since
  | none => s.cycle)

/-- R173: whether a strand of a core that first issued before `age` (or in that cycle, with a lower number than n) waits to
write a band row it has not reserved yet. -/
def olderStrand (s : State) (c b : Nat) (age : Word) (n : Nat) : Bool :=
  (upto 3).any (fun j =>
    let m := 3 * c + j
    (s.strand m).wait.isSome && (s.strand m).wants.contains b &&
      (decide (ageOf s m < age) || (ageOf s m == age && decide (m < n))))


/-- Whether strand n may take a band row as a destination: empty, reserved by no other, and wanted by no older writer (R172,
R173, R174). -/
def canTake (s : State) (n b : Nat) : Bool :=
  let c := coreOf n
  !(s.core c).isFull b && (match reservedBy (s.core c) b with
    | some m => m == n
    | none => !olderEngine s c b (ageOf s n) true && !olderStrand s c b (ageOf s n) n)

/-- The band rows among destinations. -/
def bandRows : List Row → List Nat
  | [] => []
  | .b n :: rs => n.toNat :: bandRows rs
  | _ :: rs => bandRows rs

/-- Reserve band rows for a strand. -/
def reserveRows (k : Core) (n : Nat) (bs : List Nat) : Core :=
  { k with reserved := bs.foldl (fun t b => tput (tdel t b) b n) k.reserved }

/-- Step 3 of R149, first part: every band destination is empty, or the unit waits for the lowest one not yet reserved, with
what it found empty reserved and what it read held (R174, R175). -/
def takeDests (s : State) (vals : List PRow) (dests : List Row) : Except Halt Unit :=
  let bs := bandRows dests
  match bs.filter (fun b => !canTake s s.cur b) with
  | [] => .ok ()
  | b :: rest =>
    let free := bs.filter (fun b => canTake s s.cur b)
    let s := s.setKore (reserveRows s.kore s.cur free)
    .error (.wait (s.setMe { s.me with held := vals, wants := b :: rest }) (.bandEmpty (rest.foldl min b)) (some s.me.wlim))

/-- Write destination rows in order; lx receives the last (R99, R149). -/
def writeRows (s : State) : List (Row × PRow) → State
  | [] => s
  | [(r, v)] => let s := s.rowSet r v; s.setMe { s.me with lx := v }
  | (r, v) :: rs => writeRows (s.rowSet r v) rs

/-- A destination row's new content and the poisoning condition raised in its enabled lanes (R32). -/
structure NewRow where
  row : Row
  bits : RowBits
  poison : Bool := false
  deriving Repr, Inhabited

/-- What a vector instruction computes from the rows it read: new rows and lane conditions. -/
structure VecOut where
  rows : List NewRow
  flags : List (Nat × Flags) := []
  deriving Repr, Inhabited

/-- R149: read, compute, write; poison as R32 gives; flags as R29 gives. -/
def vectorBody (q : Bool) (refs : List Ref) (dests : List Row) (f : List PRow → State → VecOut) (lanes : Word)
    (s : State) : Body := do
  let vals ← readSources s refs
  strictCheck s lanes refs vals
  takeDests s vals dests
  let o := f vals s
  let src := vals.any (·.poison)
  let partly := lanes != BitVec.allOnes 64
  let news := o.rows.map (fun n => (n.row, (⟨n.bits, src || n.poison || (partly && (s.rowGet n.row).poison)⟩ : PRow)))
  let s := writeRows s news
  .ok (s.setMe (s.me.setLaneFlags q o.flags), .fall)

/-- The elements a source operand supplies at width w: of its row, or a broadcast (R148). `imm` turns an immediate into
an element code. -/
def srcElems (s : State) (w : Nat) (imm : Nat → Nat) (a : VSrc) (row : PRow) : List Nat :=
  match a with
  | .row _ | .lx => rowElems w row.bits
  | .scal r => List.replicate (2048 / w) ((s.sget r).toNat % 2 ^ w)
  | .imm n => List.replicate (2048 / w) (imm n.toNat)

/-- Take the row an operand reads off the list of rows read. -/
def takeRow (a : VSrc) (vals : List PRow) : PRow × List PRow :=
  match a with
  | .row _ | .lx => (vals.headD {}, vals.drop 1)
  | _ => ({}, vals)

/-- An immediate operand as an element code of a format, extended by the prefix: B alone when both are immediates
(R62, R69). -/
def immElem (f : Fmt) (m : Mods) (n : Nat) : Nat := immCode f (immVal m 9 n)

/-- The immediate of an untyped instruction: a 32-bit two's-complement value (R148; DEDUCED: an extended immediate keeps its
low 32 bits, log entry 21). -/
def immRaw (m : Mods) (n : Nat) : Nat := wrapInt 32 (immVal m 9 n)

/-- Element results of one row from element `i` on: enabled lanes take f's result, the others keep the old element
(R151). The results are the codes, the lane conditions and whether an element poisons. -/
def mapElems (w : Nat) (lanes : Word) (f : Nat → Nat → Nat → Nat → Rounded) :
    Nat → List Nat → List Nat → List Nat → List Nat × List (Nat × Flags) × Bool
  | _, _, _, [] => ([], [], false)
  | i, as, bs, d :: ds =>
    let (cs, fs, p) := mapElems w lanes f (i + 1) (as.drop 1) (bs.drop 1) ds
    let lane := i * w / 32
    if lanes.getLsbD lane then
      let r := f i (as.headD 0) (bs.headD 0) d
      (r.code :: cs, if r.fl = {} then fs else (lane, r.fl) :: fs, r.poison || p)
    else (d :: cs, fs, p)

/-- Element i of a list. -/
def nth (xs : List Nat) (i : Nat) : Nat := xs.getD i 0

end Sys2Proof.Machine
end

