-- ==== Sys2Proof/Machine/Transcend.lean ====
section
/-! DEFINITION. `vexp2.f32` and `vlog2.f32` (R154): the exact function value rounded once. A fixed-point enclosure of
224 bits decides the rounding; where its two ends round differently the result is `Config.hardRound` (log entry 11). -/

namespace Sys2Proof.Machine
open Sys2Proof

/-- Fraction bits of the enclosures. -/
def fixBits : Nat := 224

/-- floor(ln 2 × 2^224). -/
def ln2Fix : Nat := 0xb17217f7d1cf79abc9e3b39803f2f6af40f343267298b62d8a0d175b

/-- Terms t, t x/k, t x²/(k(k+1)), … added up, truncated at each division. -/
def expSeries (x : Nat) : Nat → Nat → Nat → Nat → Nat
  | 0, _, _, acc => acc
  | n + 1, k, t, acc =>
    let t' := t * x / 2 ^ fixBits / k
    expSeries x n (k + 1) t' (acc + t')

/-- An enclosure of 2^f × 2^224 for f = x / 2^224 in [0, 1): the truncations of 60 terms stay below 2^10. -/
def exp2Fix (x : Nat) : Nat × Nat :=
  let y := x * ln2Fix / 2 ^ fixBits
  let s := expSeries y 60 1 (2 ^ fixBits) (2 ^ fixBits)
  (s - 2 ^ 10, s + 2 ^ 10)

/-- z + z³/3 + z⁵/5 + … , `w` the running odd power. -/
def atanhSeries (zz : Nat) : Nat → Nat → Nat → Nat → Nat
  | 0, _, _, acc => acc
  | n + 1, k, w, acc =>
    let w' := w * zz / 2 ^ fixBits
    atanhSeries zz n (k + 2) w' (acc + w' / k)

/-- An enclosure of log2(m / 2^23) × 2^224 for m in (2^23, 2^24): ln(m) = 2 atanh((m-1)/(m+1)). -/
def log2Fix (m : Nat) : Nat × Nat :=
  let z := (m - 2 ^ 23) * 2 ^ fixBits / (m + 2 ^ 23)
  let s := 2 * atanhSeries (z * z / 2 ^ fixBits) 75 3 z z
  let l := s * 2 ^ fixBits / ln2Fix
  (l - 2 ^ 10, l + 2 ^ 10)

/-- Round an enclosure: both ends alike, or the opaque choice for function number `fn` at operand `w`. -/
def roundEnclosure (fn : Nat) (w : BitVec 32) (c : RCtx) (lo hi : FVal) : Rounded :=
  let a := roundFloat .fp32 c lo
  let b := roundFloat .fp32 c hi
  if a = b then a
  else { a with code := (Config.hardRound fn w c.mode.code c.draw).toNat, fl := a.fl.join b.fl }

/-- R154: 2^a. -/
def exp2Rounded (c : RCtx) (w : Nat) : Rounded :=
  let v := f32Val w
  match (if c.ftz then flushIn .fp32 v else v) with
  | .nan s => roundFloat .fp32 c (.nan s)
  | .inf s => roundFloat .fp32 c (if s then .fin false 0 0 else .inf false)
  | .fin s m e =>
    if m = 0 then roundFloat .fp32 c (.fin false 1 0)
    else if dyLt 2000 0 m e then roundFloat .fp32 c (.fin false 1 (if s then -2000 else 2000))
    else
      -- a = n + f with n = floor(a); e ≥ -149, so a is a multiple of 2^-149
      let x : Int := if s then -((m * 2 ^ (e + 149).toNat : Nat) : Int) else ((m * 2 ^ (e + 149).toNat : Nat) : Int)
      let n : Int := x / (2 ^ 149 : Nat)
      let f : Nat := (x % (2 ^ 149 : Nat)).toNat
      if f = 0 then roundFloat .fp32 c (.fin false 1 n)
      else
        let (lo, hi) := exp2Fix (f * 2 ^ (fixBits - 149))
        roundEnclosure 0 (BitVec.ofNat 32 w) c (.fin false lo (n - fixBits)) (.fin false hi (n - fixBits))

/-- R154: log2 a. -/
def log2Rounded (c : RCtx) (w : Nat) : Rounded :=
  let v := f32Val w
  match (if c.ftz then flushIn .fp32 v else v) with
  | .nan s => roundFloat .fp32 c (.nan s)
  | .inf s => if s then (roundFloat .fp32 c (.nan false)).orNv true else roundFloat .fp32 c (.inf false)
  | .fin s m e =>
    if m = 0 then { roundFloat .fp32 c (.inf true) with fl := { dz := true } }
    else if s then (roundFloat .fp32 c (.nan false)).orNv true
    else
      let k := Nat.log2 m
      let n : Int := (k : Int) + e
      let m' := m * 2 ^ (23 - k)
      if m' = 2 ^ 23 then roundFloat .fp32 c (FVal.ofInt n)
      else
        let (lo, hi) := log2Fix m'
        let a : Int := n * (2 ^ fixBits : Nat) + lo
        let b : Int := n * (2 ^ fixBits : Nat) + hi
        roundEnclosure 1 (BitVec.ofNat 32 w) c (.fin (decide (a < 0)) a.natAbs (-(fixBits : Int)))
          (.fin (decide (b < 0)) b.natAbs (-(fixBits : Int)))

end Sys2Proof.Machine
end

