-- ==== Sys2Proof/Machine/Vector.lean ====
section
/-! DEFINITION. Vector instructions (R147-R165) and pair words (R48, R65, R95). -/

namespace Sys2Proof.Machine
open Sys2Proof

/-- Element width of a type (R148). -/
def vtyWidth : VTy → Nat
  | .i32 | .u32 | .f32 => 32
  | .f16 | .bf16 => 16
  | .i8 => 8

/-- Format of a type. -/
def vtyFmt : VTy → Fmt
  | .i32 => .int32
  | .u32 => .u32
  | .i8 => .int8
  | .f32 => .fp32
  | .f16 => .fp16
  | .bf16 => .bf16

/-- An element operation: destination code (R28), element index, elements a, b and the old d (R151). -/
abbrev ElemOp := Nat → Nat → Nat → Nat → Nat → Rounded

/-- The rows an element-wise run reads: per row A, then B, then the destination where it is a source (R149). -/
def runRefs (n : Nat) (d : Row) (srcs : List VSrc) (readsD : Bool) : List Ref :=
  (upto n).flatMap (fun j =>
    srcs.flatMap (fun a => srcRef a j) ++ (if readsD then [Ref.row (Row.plus d j)] else []))

/-- The destination rows of a run. -/
def runDests (n : Nat) (d : Row) : List Row := (upto n).map (Row.plus d)

/-- Compute the rows of a run from row j on (R151). -/
def runRows (w : Nat) (lanes : Word) (d : Row) (a b : VSrc) (readsD : Bool) (immA immB : Nat → Nat) (op : ElemOp)
    (s : State) : Nat → Nat → List PRow → VecOut
  | 0, _, _ => ⟨[], []⟩
  | n + 1, j, vals =>
    let (ra, vals) := takeRow a vals
    let (rb, vals) := takeRow b vals
    let r := Row.plus d j
    let (rd, vals) := if readsD then (vals.headD {}, vals.drop 1) else (s.rowGet r, vals)
    let (cs, fs, p) := mapElems w lanes (op r.code) 0 (srcElems s w immA a ra) (srcElems s w immB b rb)
      (rowElems w rd.bits)
    let rest := runRows w lanes d a b readsD immA immB op s n (j + 1) vals
    ⟨⟨r, rowOfElems w cs, p⟩ :: rest.rows, fs ++ rest.flags⟩

/-- An operand that reads nothing, for the instructions with no B. -/
def noSrc : VSrc := .imm 0

/-- Prefix bits as operand A sees them: the extension goes to B when both are immediates (R69). -/
def modsForA (m : Mods) (b : VSrc) : Mods := if b.isImm then { m with ext := none } else m

/-- An element-wise instruction over a run (R149, R151): `f` the code of an immediate, `m` the prefixes. -/
def elementwise (i : Instr) (m : Mods) (q : Bool) (w n : Nat) (f : Mods → Nat → Nat) (d : Row) (a b : VSrc) (twoSrc readsD : Bool)
    (op : Strand → ElemOp) (s : State) : Host.Outcome State Fault Refusal :=
  perLane i (portCheck .x i) (fun lanes =>
    vectorBody q (runRefs n d (if twoSrc then [a, b] else [a]) readsD) (runDests n d)
      (fun vals s => runRows w lanes d a b readsD (f (if twoSrc then modsForA m b else m)) (f m)
        (op s.me) s n 0 vals) lanes) s

/-- An exact integer result, clamped to the type's range under SAT (R152). -/
def intResult (f : Fmt) (sat : Bool) (x : Int) : Rounded :=
  let (lo, hi) := intRange f
  ⟨wrapInt (codeBits f) (if sat then clampInt lo hi x else x), {}, false⟩

/-- A code with no condition. -/
def plainCode (x : Nat) : Rounded := ⟨x, {}, false⟩

/-- An element's float value, flushed under `.ftz` (R30). -/
def elemVal (f : Fmt) (ftz : Bool) (x : Nat) : FVal :=
  let v := (decodeFmt f x).1
  if ftz then flushIn f v else v

/-- Round a float result with its earlier conditions (R153). -/
def finishFloat (f : Fmt) (x : Strand) (m : Mods) (dcode i : Nat) (r : FVal × Flags) : Rounded :=
  let y := roundFloat f (rctx m (if m.mode = .rsr then vectorDraw x m dcode i else 0)) r.1
  { y with fl := if r.2.nv then nvFlag else y.fl.join r.2 }

/-- A typed operation: an integer function and a float function of two values and the old element. -/
def typedOp (ty : VTy) (m : Mods) (fi : Int → Int → Int) (ff : RMode → FVal → FVal → FVal × Flags) (x : Strand) : ElemOp :=
  fun dcode i a b _ =>
    let f := vtyFmt ty
    if ty.isFloat then finishFloat f x m dcode i (ff m.mode (elemVal f m.ftz a) (elemVal f m.ftz b))
    else intResult f m.sat (fi (intOf f a) (intOf f b))

/-- `vadd` (R152, R153). -/
def execVadd (u : Hdr) (ty : VTy) (g : BitVec 2) (d : Row) (a b : VSrc) (s : State) :
    Host.Outcome State Fault Refusal :=
  let m := modsOf u.pfx
  elementwise (.vadd u ty g d a b) m m.q (vtyWidth ty) (groupRows g) (immElem (vtyFmt ty)) d a b true false
    (typedOp ty m (fun x y => x + y) (fun r x y => sumFl r [x, y])) s

/-- `vsub` (R152, R153). -/
def execVsub (u : Hdr) (ty : VTy) (g : BitVec 2) (d : Row) (a b : VSrc) (s : State) :
    Host.Outcome State Fault Refusal :=
  let m := modsOf u.pfx
  elementwise (.vsub u ty g d a b) m m.q (vtyWidth ty) (groupRows g) (immElem (vtyFmt ty)) d a b true false
    (typedOp ty m (fun x y => x - y) (fun r x y => sumFl r [x, y.neg])) s

/-- `vmul` (R152, R153). -/
def execVmul (u : Hdr) (ty : VTy) (g : BitVec 2) (d : Row) (a b : VSrc) (s : State) :
    Host.Outcome State Fault Refusal :=
  let m := modsOf u.pfx
  elementwise (.vmul u ty g d a b) m m.q (vtyWidth ty) (groupRows g) (immElem (vtyFmt ty)) d a b true false
    (typedOp ty m (fun x y => x * y) (fun _ x y => mulFl x y)) s

/-- `vmulh` (R152). -/
def execVmulh (u : Hdr) (ty : VTy) (g : BitVec 2) (d : Row) (a b : VSrc) (s : State) :
    Host.Outcome State Fault Refusal :=
  let m := modsOf u.pfx
  elementwise (.vmulh u ty g d a b) m m.q (vtyWidth ty) (groupRows g) (immElem (vtyFmt ty)) d a b true false
    (fun _ _ _ x y _ => plainCode (wrapInt (vtyWidth ty) (intOf (vtyFmt ty) x * intOf (vtyFmt ty) y / (2 ^ vtyWidth ty : Nat)))) s

/-- `vmin`, `vmax` on codes (R136, R152, R153). -/
def minMaxCode (ty : VTy) (ftz less : Bool) (a b : Nat) : Nat :=
  let f := vtyFmt ty
  if ty.isFloat then selectCode f ftz less a b
  else if less then (if intOf f b < intOf f a then b else a)
  else (if intOf f a < intOf f b then b else a)

/-- `vmin` (R152, R153). -/
def execVmin (u : Hdr) (ty : VTy) (g : BitVec 2) (d : Row) (a b : VSrc) (s : State) :
    Host.Outcome State Fault Refusal :=
  let m := modsOf u.pfx
  elementwise (.vmin u ty g d a b) m m.q (vtyWidth ty) (groupRows g) (immElem (vtyFmt ty)) d a b true false
    (fun _ _ _ x y _ => plainCode (minMaxCode ty m.ftz true x y)) s

/-- `vmax` (R152, R153). -/
def execVmax (u : Hdr) (ty : VTy) (g : BitVec 2) (d : Row) (a b : VSrc) (s : State) :
    Host.Outcome State Fault Refusal :=
  let m := modsOf u.pfx
  elementwise (.vmax u ty g d a b) m m.q (vtyWidth ty) (groupRows g) (immElem (vtyFmt ty)) d a b true false
    (fun _ _ _ x y _ => plainCode (minMaxCode ty m.ftz false x y)) s

/-- `vabs` (R152, R153). -/
def execVabs (u : Hdr) (ty : VTy) (g : BitVec 2) (d : Row) (a : VSrc) (s : State) :
    Host.Outcome State Fault Refusal :=
  let m := modsOf u.pfx
  elementwise (.vabs u ty g d a) m m.q (vtyWidth ty) (groupRows g) (immElem (vtyFmt ty)) d a noSrc false false
    (fun _ _ _ x _ _ => if ty.isFloat then plainCode (absCode (vtyFmt ty) m.ftz x)
      else intResult (vtyFmt ty) m.sat (intOf (vtyFmt ty) x).natAbs) s

/-- `vneg` (R152, R153). -/
def execVneg (u : Hdr) (ty : VTy) (g : BitVec 2) (d : Row) (a : VSrc) (s : State) :
    Host.Outcome State Fault Refusal :=
  let m := modsOf u.pfx
  elementwise (.vneg u ty g d a) m m.q (vtyWidth ty) (groupRows g) (immElem (vtyFmt ty)) d a noSrc false false
    (fun _ _ _ x _ _ => if ty.isFloat then plainCode (negCode (vtyFmt ty) m.ftz x)
      else intResult (vtyFmt ty) m.sat (-(intOf (vtyFmt ty) x))) s

/-- `vfma`: the destination is a source (R153). -/
def execVfma (u : Hdr) (ty : VTy) (g : BitVec 2) (d : Row) (a b : VSrc) (s : State) :
    Host.Outcome State Fault Refusal :=
  let m := modsOf u.pfx
  elementwise (.vfma u ty g d a b) m m.q (vtyWidth ty) (groupRows g) (immElem (vtyFmt ty)) d a b true true
    (fun x dc i p q r => finishFloat (vtyFmt ty) x m dc i (fmaFl m.mode (elemVal (vtyFmt ty) m.ftz p)
      (elemVal (vtyFmt ty) m.ftz q) (elemVal (vtyFmt ty) m.ftz r))) s

/-- `vdiv` (R153). -/
def execVdiv (u : Hdr) (ty : VTy) (g : BitVec 2) (d : Row) (a b : VSrc) (s : State) :
    Host.Outcome State Fault Refusal :=
  let m := modsOf u.pfx
  elementwise (.vdiv u ty g d a b) m m.q (vtyWidth ty) (groupRows g) (immElem (vtyFmt ty)) d a b true false
    (fun x dc i p q _ => finishFloat (vtyFmt ty) x m dc i
      (divVal (elemVal (vtyFmt ty) m.ftz p) (elemVal (vtyFmt ty) m.ftz q))) s

/-- The rounding context of element i of a row, drawing only under RSR (R27, R28). -/
def elemCtx (x : Strand) (m : Mods) (dcode i : Nat) : RCtx := rctx m (if m.mode = .rsr then vectorDraw x m dcode i else 0)

/-- `vrcp.f32` (R154). -/
def execVrcp (u : Hdr) (g : BitVec 2) (d : Row) (a : VSrc) (s : State) :
    Host.Outcome State Fault Refusal :=
  let m := modsOf u.pfx
  elementwise (.vrcp u g d a) m m.q 32 (groupRows g) (immElem .fp32) d a noSrc false false
    (fun x dc i p _ _ => finishFloat .fp32 x m dc i (divVal (.fin false 1 0) (elemVal .fp32 m.ftz p))) s

/-- `vrsqrt.f32` (R154). -/
def execVrsqrt (u : Hdr) (g : BitVec 2) (d : Row) (a : VSrc) (s : State) :
    Host.Outcome State Fault Refusal :=
  let m := modsOf u.pfx
  elementwise (.vrsqrt u g d a) m m.q 32 (groupRows g) (immElem .fp32) d a noSrc false false
    (fun x dc i p _ _ => finishFloat .fp32 x m dc i (rsqrtVal (elemVal .fp32 m.ftz p))) s

/-- `vsqrt.f32` (R154). -/
def execVsqrt (u : Hdr) (g : BitVec 2) (d : Row) (a : VSrc) (s : State) :
    Host.Outcome State Fault Refusal :=
  let m := modsOf u.pfx
  elementwise (.vsqrt u g d a) m m.q 32 (groupRows g) (immElem .fp32) d a noSrc false false
    (fun x dc i p _ _ => finishFloat .fp32 x m dc i (sqrtVal (elemVal .fp32 m.ftz p))) s

/-- `vexp2.f32` (R154). -/
def execVexp2 (u : Hdr) (g : BitVec 2) (d : Row) (a : VSrc) (s : State) :
    Host.Outcome State Fault Refusal :=
  let m := modsOf u.pfx
  elementwise (.vexp2 u g d a) m m.q 32 (groupRows g) (immElem .fp32) d a noSrc false false
    (fun x dc i p _ _ => exp2Rounded (elemCtx x m dc i) p) s

/-- `vlog2.f32` (R154). -/
def execVlog2 (u : Hdr) (g : BitVec 2) (d : Row) (a : VSrc) (s : State) :
    Host.Outcome State Fault Refusal :=
  let m := modsOf u.pfx
  elementwise (.vlog2 u g d a) m m.q 32 (groupRows g) (immElem .fp32) d a noSrc false false
    (fun x dc i p _ _ => log2Rounded (elemCtx x m dc i) p) s

/-- Shifts of w-bit elements by an unsigned count (R155). -/
def shlElem (w x n : Nat) : Nat := if w ≤ n then 0 else x * 2 ^ n % 2 ^ w
/-- `vshr`. -/
def shrElem (w x n : Nat) : Nat := if w ≤ n then 0 else x / 2 ^ n
/-- `vsar`. -/
def sarElem (w x n : Nat) : Nat := wrapInt w (sext w x / (2 ^ (if w ≤ n then w else n) : Nat))

/-- `vshl` (R155). -/
def execVshl (u : Hdr) (ty : VTy) (g : BitVec 2) (d : Row) (a b : VSrc) (s : State) :
    Host.Outcome State Fault Refusal :=
  let m := modsOf u.pfx
  elementwise (.vshl u ty g d a b) m m.q (vtyWidth ty) (groupRows g) (immElem (vtyFmt ty)) d a b true false
    (fun _ _ _ x y _ => plainCode (shlElem (vtyWidth ty) x y)) s

/-- `vshr` (R155). -/
def execVshr (u : Hdr) (ty : VTy) (g : BitVec 2) (d : Row) (a b : VSrc) (s : State) :
    Host.Outcome State Fault Refusal :=
  let m := modsOf u.pfx
  elementwise (.vshr u ty g d a b) m m.q (vtyWidth ty) (groupRows g) (immElem (vtyFmt ty)) d a b true false
    (fun _ _ _ x y _ => plainCode (shrElem (vtyWidth ty) x y)) s

/-- `vsar` (R155). -/
def execVsar (u : Hdr) (ty : VTy) (g : BitVec 2) (d : Row) (a b : VSrc) (s : State) :
    Host.Outcome State Fault Refusal :=
  let m := modsOf u.pfx
  elementwise (.vsar u ty g d a b) m m.q (vtyWidth ty) (groupRows g) (immElem (vtyFmt ty)) d a b true false
    (fun _ _ _ x y _ => plainCode (sarElem (vtyWidth ty) x y)) s

/-- `vand` (R155). -/
def execVand (u : Hdr) (g : BitVec 2) (d : Row) (a b : VSrc) (s : State) :
    Host.Outcome State Fault Refusal :=
  let m := modsOf u.pfx
  elementwise (.vand u g d a b) m m.q 32 (groupRows g) immRaw d a b true false
    (fun _ _ _ x y _ => plainCode (x &&& y)) s

/-- `vor` (R155). -/
def execVor (u : Hdr) (g : BitVec 2) (d : Row) (a b : VSrc) (s : State) :
    Host.Outcome State Fault Refusal :=
  let m := modsOf u.pfx
  elementwise (.vor u g d a b) m m.q 32 (groupRows g) immRaw d a b true false
    (fun _ _ _ x y _ => plainCode (x ||| y)) s

/-- `vxor` (R155). -/
def execVxor (u : Hdr) (g : BitVec 2) (d : Row) (a b : VSrc) (s : State) :
    Host.Outcome State Fault Refusal :=
  let m := modsOf u.pfx
  elementwise (.vxor u g d a b) m m.q 32 (groupRows g) immRaw d a b true false
    (fun _ _ _ x y _ => plainCode (x ^^^ y)) s

/-- `vnot` (R155). -/
def execVnot (u : Hdr) (g : BitVec 2) (d : Row) (a : VSrc) (s : State) :
    Host.Outcome State Fault Refusal :=
  let m := modsOf u.pfx
  elementwise (.vnot u g d a) m m.q 32 (groupRows g) immRaw d a noSrc false false
    (fun _ _ _ x _ _ => plainCode (x ^^^ 0xFFFFFFFF)) s

/-- `vmov` (R155). -/
def execVmov (u : Hdr) (g : BitVec 2) (d : Row) (a : VSrc) (s : State) :
    Host.Outcome State Fault Refusal :=
  let m := modsOf u.pfx
  elementwise (.vmov u g d a) m m.q 32 (groupRows g) immRaw d a noSrc false false
    (fun _ _ _ x _ _ => plainCode (x)) s

/-! Compares (R106, R156). -/

/-- A lane's condition: the relation holds for every element of the lane (R156). -/
def laneConds (k : Nat) (f : Nat → Nat → Bool) : Nat → List Nat → List Nat → List Bool
  | 0, _, _ => []
  | n + 1, as, bs => ((as.take k).zip (bs.take k)).all (fun e => f e.1 e.2) :: laneConds k f n (as.drop k) (bs.drop k)

/-- The word whose bit L is entry L. -/
def boolWord : List Bool → Nat
  | [] => 0
  | b :: bs => b2n b + 2 * boolWord bs

/-- R47, R106: the new PD and PE of a vector compare with enabled lanes `lanes` (not none) and conditions `c`. -/
def vectorCompare (form : CForm) (lanes c : Word) (pe pd : BitVec 3) (x : Strand) : Strand :=
  let od := x.pget pd
  let oe := x.pget pe
  let t := lanes &&& c
  let n := lanes &&& ~~~c
  match form with
  | .plain =>
    (x.pset pd ⟨(od.lanes &&& ~~~lanes) ||| t, t != 0⟩).pset pe ⟨(oe.lanes &&& ~~~lanes) ||| n, n != 0⟩
  | .unc => (x.pset pd ⟨t, t != 0⟩).pset pe ⟨n, n != 0⟩
  | .and =>
    let d := od.lanes &&& ~~~n
    let e := oe.lanes ||| n
    (x.pset pd ⟨d, d &&& lanes != 0⟩).pset pe ⟨e, e &&& lanes != 0⟩
  | .or =>
    let d := od.lanes ||| t
    let e := oe.lanes &&& ~~~t
    (x.pset pd ⟨d, d &&& lanes != 0⟩).pset pe ⟨e, e &&& lanes != 0⟩

/-- `vcmp` (R156): with no enabled lane only `.unc` acts, clearing both destinations (R106). -/
def execVcmp (u : Hdr) (form : CForm) (ty : VTy) (cond : Cond) (pe pd : BitVec 3) (a b : VSrc) (s : State) :
    Host.Outcome State Fault Refusal :=
  let i : Instr := .vcmp u form ty cond pe pd a b
  let m := modsOf u.pfx
  let f := vtyFmt ty
  let w := vtyWidth ty
  match portCheck .x i s with
  | some t => settle i s (.error (.trap s t))
  | none =>
    let lanes := guardLanes s.me u.g
    if lanes = 0 then settle i s (.ok (scalarUnc form pe pd s, .fall))
    else settle i s (do
      let refs := srcRef a 0 ++ srcRef b 0
      let vals ← readSources s refs
      strictCheck s lanes refs vals
      let (ra, vals) := takeRow a vals
      let (rb, _) := takeRow b vals
      let rel (x y : Nat) : Bool :=
        if ty.isFloat then condVal cond (elemVal f m.ftz x) (elemVal f m.ftz y) else condInt cond (intOf f x) (intOf f y)
      let cs := laneConds (32 / w) rel 64 (srcElems s w (immElem f (modsForA m b)) a ra) (srcElems s w (immElem f m) b rb)
      .ok (s.setMe (vectorCompare form lanes (BitVec.ofNat 64 (boolWord cs)) pe pd s.me), .fall))

/-! Conversions (R157-R160). -/

/-- Elements i0, i0 + 1, … of a destination row from source elements. -/
def convRow (w : Nat) (lanes : Word) (d : Row) (src : List Nat) (s : State) (f : Nat → Nat → Rounded) : NewRow × List (Nat × Flags) :=
  let (cs, fs, p) := mapElems w lanes (fun i a _ _ => f i a) 0 src [] (rowElems w (s.rowGet d).bits)
  (⟨d, rowOfElems w cs, p⟩, fs)

/-- The rows a source run of k rows reads. -/
def srcRun (a : VSrc) (k : Nat) : List Ref :=
  match a with
  | .row _ => (upto k).flatMap (srcRef a)
  | .lx => [.lx]
  | _ => []

/-- All elements of a source run of k rows: a broadcast or lx supplies every row alike (R148). -/
def srcRunElems (s : State) (w : Nat) (imm : Nat → Nat) (a : VSrc) (k : Nat) (vals : List PRow) : List Nat :=
  match a with
  | .row _ => (vals.take k).flatMap (fun r => rowElems w r.bits)
  | .lx => (List.replicate k (rowElems w (vals.headD {}).bits)).flatten
  | _ => (List.replicate k (srcElems s w imm a {})).flatten

/-- `vcvt` (R157). -/
def execVcvt (u : Hdr) (dst src : Fmt) (d : Row) (a : VSrc) (s : State) : Host.Outcome State Fault Refusal :=
  let i : Instr := .vcvt u dst src d a
  let m := modsOf u.pfx
  let wd := dst.width
  let ws := src.width
  let kd := wd / ws
  let ks := ws / wd
  let rd := if kd = 0 then 1 else kd
  let rs := if ks = 0 then 1 else ks
  perLane i (portCheck .x i) (fun lanes =>
    vectorBody m.q (srcRun a rs) (runDests rd d) (fun vals s =>
      let es := srcRunElems s ws (immElem src { m with ext := none }) a rs vals
      let n := 2048 / wd
      let rows := (upto rd).map (fun j =>
        let r := Row.plus d j
        convRow wd lanes r ((es.drop (j * n)).take n) s (fun e x =>
          convertFmt dst src (elemCtx s.me m r.code e) x))
      ⟨rows.map (·.1), rows.flatMap (·.2)⟩) lanes) s

/-- Elements of a block (R158). -/
def blkSize (b : BitVec 2) : Nat := 4 * 2 ^ b.toNat

/-- Whether every (or some) lane that holds elements [e, e + n) of width w is enabled. -/
def lanesHold (lanes : Word) (w e n : Nat) : Bool := (upto n).all (fun i => lanes.getLsbD ((e + i) * w / 32))

/-- Quantise block after block from block j on: the element codes with their conditions, and each block's scale, or
none for a block that is not quantised (R158). -/
def quantBlocks (f : MxFmt) (lanes : Word) (n : Nat) : Nat → Nat → List FVal → List (List (Nat × Flags) × Option Nat × Bool)
  | 0, _, _ => []
  | k + 1, j, vs =>
    let w := (MxFmt.toFmt f).width
    let here := if lanesHold lanes w (j * n) n then
        let (sc, es, p) := mxQuantBlock f (vs.take n)
        (es, some sc, p)
      else ([], none, false)
    here :: quantBlocks f lanes n k (j + 1) (vs.drop n)

/-- `vquant` (R158). The rows are written in ascending code order (log entry 18). With enabled lanes but no block that is quantised, both
rows count as written all the same (log entry 59). -/
def execVquant (u : Hdr) (f : MxFmt) (blk : BitVec 2) (d : Row) (a : VSrc) (vs : Row) (s : State) :
    Host.Outcome State Fault Refusal :=
  let i : Instr := .vquant u f blk d a vs
  let m := modsOf u.pfx
  let w := (MxFmt.toFmt f).width
  let k := f.rows
  let n := blkSize blk
  perLane i (portCheck .x i) (fun lanes =>
    vectorBody m.q (srcRun a k) [d, vs] (fun vals s =>
      let es := (srcRunElems s 32 (immElem .fp32 { m with ext := none }) a k vals).map (elemVal .fp32 m.ftz)
      let nb := 2048 / w / n
      let bs := quantBlocks f lanes n nb 0 es
      let old := rowElems w (s.rowGet d).bits
      let new := (bs.zipIdx).flatMap (fun b =>
        match b.1.2.1 with
        | some _ => b.1.1.map (·.1)
        | none => (old.drop (b.2 * n)).take n)
      let flags := (bs.zipIdx).flatMap (fun b => b.1.1.zipIdx.map (fun e => ((b.2 * n + e.2) * w / 32, e.1.2)))
      let p := bs.any (fun b => b.2.2)
      let dbits := rowOfElems w new
      let sold := rowElems 8 (if vs = d then dbits else (s.rowGet vs).bits)
      let snew := sold.zipIdx.map (fun e => match bs[e.2]? with
        | some (_, some sc, _) => sc
        | _ => e.1)
      let rd : NewRow := ⟨d, dbits, p⟩
      let rv : NewRow := ⟨vs, rowOfElems 8 snew, p⟩
      ⟨if vs.code < d.code then [rv, rd] else [rd, rv], flags.filter (fun e => e.2 != {})⟩) lanes) s

/-- An immediate as an E8M0 scale (R62, R159; DEDUCED, log entry 22): the code of the nearest power of two, a tie to the even
code, and the least scale for an integer below 1. -/
def scaleCode (x : Int) : Nat :=
  let n := x.toNat
  let k := n.log2
  if n = 0 then 0
  else if 2 * n < 3 * 2 ^ k then 127 + k
  else if 3 * 2 ^ k < 2 * n then 128 + k
  else 127 + k + (127 + k) % 2

/-- `vdequant` (R159). -/
def execVdequant (u : Hdr) (f : MxFmt) (blk : BitVec 2) (d : Row) (a vs : VSrc) (s : State) :
    Host.Outcome State Fault Refusal :=
  let i : Instr := .vdequant u f blk d a vs
  let m := modsOf u.pfx
  let w := (MxFmt.toFmt f).width
  let k := f.rows
  let n := blkSize blk
  perLane i (portCheck .x i) (fun lanes =>
    vectorBody m.q (srcRef a 0 ++ srcRef vs 0) (runDests k d) (fun vals s =>
      let (ra, vals) := takeRow a vals
      let (rv, _) := takeRow vs vals
      let es := srcElems s w (immElem (MxFmt.toFmt f) { m with ext := none }) a ra
      let ss := srcElems s 8 (fun x => scaleCode (immVal { m with ext := none } 9 x)) vs rv
      let rows := (upto k).map (fun j =>
        let r := Row.plus d j
        convRow 32 lanes r ((es.drop (j * 64)).take 64) s (fun e x =>
          mxDequant f (elemCtx s.me m r.code e) (nth ss ((j * 64 + e) / n)) x))
      ⟨rows.map (·.1), rows.flatMap (·.2)⟩) lanes) s

/-- Format of the elements of `vdot4`. -/
def dotFmt : DotFmt → Fmt
  | .i8 => .int8
  | .e4m3 => .e4m3
  | .e5m2 => .e5m2
  | .e2m1 => .e2m1

/-- One lane of `vdot4` (R160). -/
def dotLane (f : DotFmt) (m : Mods) (a b d : Nat) : Rounded :=
  let g := dotFmt f
  let k := 32 / g.width
  let ps := (splitElems g.width k a).zip (splitElems g.width k b)
  match f with
  | .i8 => intResult .int32 m.sat (sext 32 d + (ps.map (fun e => sext 8 e.1 * sext 8 e.2)).foldl (· + ·) 0)
  | _ =>
    let vals := ps.map (fun e =>
      let (x, rx) := decodeFmt g e.1
      let (y, ry) := decodeFmt g e.2
      let (p, nv) := mulVal x y
      (p, rx || ry || nv))
    let (v, nv) := sumVal .rne (elemVal .fp32 m.ftz d :: vals.map (·.1))
    (roundFloat .fp32 { sat := m.sat, ftz := m.ftz } v).orNv (nv || vals.any (·.2))

/-- `vdot4` (R160): the destination is a source. -/
def execVdot4 (u : Hdr) (f : DotFmt) (d : Row) (a b : VSrc) (s : State) : Host.Outcome State Fault Refusal :=
  let i : Instr := .vdot4 u f d a b
  let m := modsOf u.pfx
  let g := dotFmt f
  perLane i (portCheck .x i) (fun lanes =>
    vectorBody m.q (srcRef a 0 ++ srcRef b 0 ++ [.row d]) [d] (fun vals s =>
      let (ra, vals) := takeRow a vals
      let (rb, vals) := takeRow b vals
      let es (x : VSrc) (r : PRow) (m : Mods) : List Nat :=
        rowElems 32 (rowOfElems g.width (srcElems s g.width (immElem g m) x r))
      let (cs, fs, p) := mapElems 32 lanes (fun _ x y z => dotLane f m x y z) 0
        (es a ra { m with ext := none }) (es b rb { m with ext := none }) (rowElems 32 (vals.headD {}).bits)
      ⟨[⟨d, rowOfElems 32 cs, p⟩], fs⟩) lanes) s

/-! Across lanes (R161-R164). -/

/-- A lane of A by number: 0 beyond lane 63 and from a suppressed lane (R161). -/
def pickLane (lanes : Word) (as : List Nat) (k : Nat) : Nat := if k < 64 ∧ lanes.getLsbD k then nth as k else 0

/-- A permute: lane L receives the lane that `sel` names (R161). -/
def permute (i : Instr) (d : Row) (refs : List Ref) (m : Mods) (a : VSrc) (sel : State → List PRow → Nat → Option Nat)
    (s : State) : Host.Outcome State Fault Refusal :=
  perLane i (portCheck .x i) (fun lanes =>
    vectorBody false refs [d] (fun vals s =>
      let (ra, rest) := takeRow a vals
      let as := srcElems s 32 (immRaw m) a ra
      let (cs, _, _) := mapElems 32 lanes (fun l _ _ _ => plainCode (match sel s rest l with
        | some k => pickLane lanes as k
        | none => 0)) 0 [] [] (rowElems 32 (s.rowGet d).bits)
      ⟨[⟨d, rowOfElems 32 cs, false⟩], []⟩) lanes) s

/-- `vperm` (R161). -/
def execVperm (u : Hdr) (d : Row) (a b : VSrc) (s : State) : Host.Outcome State Fault Refusal :=
  let m := modsOf u.pfx
  permute (.vperm u d a b) d (srcRef a 0 ++ srcRef b 0) { m with ext := none } a (fun s rest l =>
    some (nth (srcElems s 32 (immRaw m) b (takeRow b rest).1) l)) s

/-- The B operand of `vbcast` and `vrot` as an integer (R161). -/
def laneOperand (s : State) (m : Mods) (b : SImm) : Int :=
  match b with
  | .scal r => ((s.sget r).toNat : Int)
  | .imm n => immVal m 9 n.toNat

/-- Prefix bits as A sees them beside a scalar-or-immediate B. -/
def modsForA' (m : Mods) (b : SImm) : Mods := if b.isImm then { m with ext := none } else m

/-- `vbcast` (R161): a negative immediate selects nothing. -/
def execVbcast (u : Hdr) (d : Row) (a : VSrc) (b : SImm) (s : State) : Host.Outcome State Fault Refusal :=
  let m := modsOf u.pfx
  permute (.vbcast u d a b) d (srcRef a 0) (modsForA' m b) a (fun s _ _ =>
    let k := laneOperand s m b
    if k < 0 then none else some k.toNat) s

/-- `vrot` (R161): toward higher lanes. -/
def execVrot (u : Hdr) (d : Row) (a : VSrc) (b : SImm) (s : State) : Host.Outcome State Fault Refusal :=
  let m := modsOf u.pfx
  permute (.vrot u d a b) d (srcRef a 0) (modsForA' m b) a (fun s _ l =>
    some (((l : Int) - laneOperand s m b) % 64).toNat) s

/-- The participating elements of A with their index: those of the enabled lanes (R162, R163). -/
def participants (w : Nat) (lanes : Word) (as : List Nat) : List (Nat × Nat) :=
  as.zipIdx.filterMap (fun e => if lanes.getLsbD (e.2 * w / 32) then some (e.2, e.1) else none)

/-- The sum of `vredsum` and `vscan`: exact, rounded once (R162, R163). -/
def sumElems (ty : VTy) (c : RCtx) (xs : List Nat) : Rounded :=
  let f := vtyFmt ty
  if ty.isFloat then
    let (v, nv) := sumVal c.mode (xs.map (elemVal f c.ftz))
    (roundFloat f c v).orNv nv
  else plainCode (wrapInt (codeBits f) ((xs.map (intOf f)).foldl (· + ·) 0))

/-- Fold of R136 or of integers over the participating codes. -/
def selectElems (ty : VTy) (ftz less : Bool) : List Nat → Nat
  | [] => 0
  | [x] => minMaxCode ty ftz less x x
  | x :: xs => minMaxCode ty ftz less x (selectElems ty ftz less xs)

/-- A reduction: r into every element of every enabled lane, its conditions in every enabled lane (R162). -/
def reduce (i : Instr) (ty : VTy) (m : Mods) (d : Row) (a : VSrc) (r : Strand → List Nat → Rounded) (s : State) :
    Host.Outcome State Fault Refusal :=
  let w := vtyWidth ty
  perLane i (portCheck .x i) (fun lanes =>
    vectorBody m.q (srcRef a 0) [d] (fun vals s =>
      let es := srcElems s w (immElem (vtyFmt ty) { m with ext := none }) a (takeRow a vals).1
      let v := r s.me ((participants w lanes es).map (·.2))
      let (cs, fs, p) := mapElems w lanes (fun _ _ _ _ => v) 0 [] [] (rowElems w (s.rowGet d).bits)
      ⟨[⟨d, rowOfElems w cs, p⟩], fs⟩) lanes) s

/-- `vredsum` (R162): one draw, for element 0. -/
def execVredsum (u : Hdr) (ty : VTy) (d : Row) (a : VSrc) (s : State) : Host.Outcome State Fault Refusal :=
  let m := modsOf u.pfx
  reduce (.vredsum u ty d a) ty m d a (fun x xs => sumElems ty (elemCtx x m d.code 0) xs) s

/-- `vredmin` (R162). -/
def execVredmin (u : Hdr) (ty : VTy) (d : Row) (a : VSrc) (s : State) : Host.Outcome State Fault Refusal :=
  let m := modsOf u.pfx
  reduce (.vredmin u ty d a) ty m d a (fun _ xs => plainCode (selectElems ty m.ftz true xs)) s

/-- `vredmax` (R162). -/
def execVredmax (u : Hdr) (ty : VTy) (d : Row) (a : VSrc) (s : State) : Host.Outcome State Fault Refusal :=
  let m := modsOf u.pfx
  reduce (.vredmax u ty d a) ty m d a (fun _ xs => plainCode (selectElems ty m.ftz false xs)) s

/-- `vscan` (R163). -/
def execVscan (u : Hdr) (ty : VTy) (d : Row) (a : VSrc) (s : State) : Host.Outcome State Fault Refusal :=
  let m := modsOf u.pfx
  let w := vtyWidth ty
  perLane (.vscan u ty d a) (portCheck .x (.vscan u ty d a)) (fun lanes =>
    vectorBody m.q (srcRef a 0) [d] (fun vals s =>
      let es := srcElems s w (immElem (vtyFmt ty) { m with ext := none }) a (takeRow a vals).1
      let ps := participants w lanes es
      let (cs, fs, p) := mapElems w lanes (fun i _ _ _ =>
        sumElems ty (elemCtx s.me m d.code i) ((ps.takeWhile (fun e => e.1 ≤ i)).map (·.2))) 0 [] []
        (rowElems w (s.rowGet d).bits)
      ⟨[⟨d, rowOfElems w cs, p⟩], fs⟩) lanes) s

/-- Numbers of the enabled lanes, ascending. -/
def laneList (lanes : Word) : List Nat := (upto 64).filter (fun l => lanes.getLsbD l)

/-- `vcompress` (R164): the enabled lanes of A go to lanes 0, 1, … of vd, whatever their guard bits. -/
def execVcompress (u : Hdr) (d : Row) (a : VSrc) (s : State) : Host.Outcome State Fault Refusal :=
  let m := modsOf u.pfx
  perLane (.vcompress u d a) (portCheck .x (.vcompress u d a)) (fun lanes =>
    vectorBody false (srcRef a 0) [d] (fun vals s =>
      let es := srcElems s 32 (immRaw m) a (takeRow a vals).1
      let got := (laneList lanes).map (nth es)
      ⟨[⟨d, rowOfElems 32 (got ++ (rowElems 32 (s.rowGet d).bits).drop got.length), false⟩], []⟩) lanes) s

/-- `vexpand` (R164): the k-th enabled lane of vd receives lane k of A. -/
def execVexpand (u : Hdr) (d : Row) (a : VSrc) (s : State) : Host.Outcome State Fault Refusal :=
  let m := modsOf u.pfx
  perLane (.vexpand u d a) (portCheck .x (.vexpand u d a)) (fun lanes =>
    vectorBody false (srcRef a 0) [d] (fun vals s =>
      let es := srcElems s 32 (immRaw m) a (takeRow a vals).1
      let (cs, _, _) := mapElems 32 lanes (fun l _ _ _ =>
        plainCode (nth es ((laneList lanes).filter (fun j => j < l)).length)) 0 [] [] (rowElems 32 (s.rowGet d).bits)
      ⟨[⟨d, rowOfElems 32 cs, false⟩], []⟩) lanes) s

/-! Indirect row access (R165). -/

/-- The reference a row code in a scalar names, up to a highest code. -/
def codeRef (top : Nat) (w : Word) : Option Ref :=
  if top < w.toNat then none
  else if w.toNat = 0x308 then some .lx
  else (Row.ofCode w.toNat).map Ref.row

/-- Merge rows lane by lane: the enabled lanes of `new`, the others of `old`. -/
def mergeLanes (lanes : Word) (new old : RowBits) : RowBits :=
  rowOfElems 32 (mapElems 32 lanes (fun _ a _ _ => plainCode a) 0 (rowElems 32 new) [] (rowElems 32 old)).1

/-- `vget` (R165). -/
def execVget (u : Hdr) (d : Row) (a : BitVec 5) (s : State) : Host.Outcome State Fault Refusal :=
  perLane (.vget u d a) (portCheck .x (.vget u d a)) (fun lanes s =>
    match codeRef 0x308 (s.sget a) with
    | none => ill s (.vget u d a)
    | some r => vectorBody false [r] [d] (fun vals s =>
        ⟨[⟨d, mergeLanes lanes (vals.headD {}).bits (s.rowGet d).bits, false⟩], []⟩) lanes s) s

/-- `vput` (R165). -/
def execVput (u : Hdr) (src : RowSrc) (a : BitVec 5) (s : State) : Host.Outcome State Fault Refusal :=
  perLane (.vput u src a) (portCheck .x (.vput u src a)) (fun lanes s =>
    match codeRef 0x307 (s.sget a) with
    | some (.row r) => vectorBody false [rowSrcRef src] [r] (fun vals s =>
        ⟨[⟨r, mergeLanes lanes (vals.headD {}).bits (s.rowGet r).bits, false⟩], []⟩) lanes s
    | _ => ill s (.vput u src a)) s

/-! Pair words (R48, R65, R95). -/

/-- The long-form operand of a pair source. -/
def pairSrc : PSrc → VSrc
  | .v n => .row (.v (n.setWidth 8))
  | .o n => .row (.o n)
  | .lx => .lx
  | .scal r => .scal (r.setWidth 5)

/-- The scalar half's write, from the sources as they stand before the word (R48, R133). -/
def pairScalar (h : PairS) (s : State) : Option (BitVec 5 × Word) :=
  let g := s.sget
  match h with
  | .nop => none
  | .add d a b => some (d, addW false (g a) (g b))
  | .sub d a b => some (d, subW false (g a) (g b))
  | .and d a b => some (d, andW (g a) (g b))
  | .or d a b => some (d, orW (g a) (g b))
  | .xor d a b => some (d, xorW (g a) (g b))
  | .min d a b => some (d, minW (g a) (g b))
  | .max d a b => some (d, maxW (g a) (g b))
  | .addi d a n => some (d, addW false (g a) (n.signExtend 64))
  | .shl d a n => some (d, shlW false (g a) (n.setWidth 64))
  | .shr d a n => some (d, shrW (g a) (n.setWidth 64))
  | .sar d a n => some (d, sarW (g a) (n.setWidth 64))
  | .mov d a => some (d, g a)
  | .movi d n => some (d, n.signExtend 64)

/-- Write what the scalar half computed, when the guard passes for it (R48). -/
def putPair (r : Option (BitVec 5 × Word)) (s : State) : State :=
  match r with
  | some (d, w) => s.sset d w
  | none => s

/-- The element operation of a vector half: type, whether it reads two sources, whether the destination is a source. -/
structure PairOp where
  ty : VTy
  d : BitVec 5
  a : PSrc
  b : PSrc
  two : Bool
  readsD : Bool
  op : Strand → ElemOp

/-- The vector half as an operation; none for the no-operation (R95, R148: RNE, no prefix). -/
def pairOp : PairV → Option PairOp
  | .nop => none
  | .vaddI32 d a b => some ⟨.i32, d, a, b, true, false, typedOp .i32 {} (fun x y => x + y) (fun r x y => sumFl r [x, y])⟩
  | .vsubI32 d a b => some ⟨.i32, d, a, b, true, false, typedOp .i32 {} (fun x y => x - y) (fun r x y => sumFl r [x, y])⟩
  | .vmulI32 d a b => some ⟨.i32, d, a, b, true, false, typedOp .i32 {} (fun x y => x * y) (fun _ x y => mulFl x y)⟩
  | .vminI32 d a b => some ⟨.i32, d, a, b, true, false, fun _ _ _ x y _ => plainCode (minMaxCode .i32 false true x y)⟩
  | .vmaxI32 d a b => some ⟨.i32, d, a, b, true, false, fun _ _ _ x y _ => plainCode (minMaxCode .i32 false false x y)⟩
  | .vand d a b => some ⟨.i32, d, a, b, true, false, fun _ _ _ x y _ => plainCode (x &&& y)⟩
  | .vor d a b => some ⟨.i32, d, a, b, true, false, fun _ _ _ x y _ => plainCode (x ||| y)⟩
  | .vxor d a b => some ⟨.i32, d, a, b, true, false, fun _ _ _ x y _ => plainCode (x ^^^ y)⟩
  | .vmov d a => some ⟨.i32, d, a, a, false, false, fun _ _ _ x _ _ => plainCode x⟩
  | .vaddF32 d a b => some ⟨.f32, d, a, b, true, false, typedOp .f32 {} (fun x y => x + y) (fun r x y => sumFl r [x, y])⟩
  | .vsubF32 d a b => some ⟨.f32, d, a, b, true, false, typedOp .f32 {} (fun x y => x - y) (fun r x y => sumFl r [x, y.neg])⟩
  | .vmulF32 d a b => some ⟨.f32, d, a, b, true, false, typedOp .f32 {} (fun x y => x * y) (fun _ x y => mulFl x y)⟩
  | .vfmaF32 d a b => some ⟨.f32, d, a, b, true, true, fun x dc i p q r => finishFloat .fp32 x {} dc i
      (fmaFl .rne (elemVal .fp32 false p) (elemVal .fp32 false q) (elemVal .fp32 false r))⟩
  | .vminF32 d a b => some ⟨.f32, d, a, b, true, false, fun _ _ _ x y _ => plainCode (minMaxCode .f32 false true x y)⟩
  | .vmaxF32 d a b => some ⟨.f32, d, a, b, true, false, fun _ _ _ x y _ => plainCode (minMaxCode .f32 false false x y)⟩

/-- R48: a pair word. All reads of both halves come before any write; a trap or a wait of the vector half suppresses
both; each half takes the guard in its own way. PORT is decided from the vector half alone (R65). -/
def runPair (i : Instr) (u : Hdr) (h : PairS) (v : PairV) (s : State) : Host.Outcome State Fault Refusal :=
  match pairOp v with
  | none =>
    settle i s (.ok (if guardU s.me u.g then putPair (pairScalar h s) s else s, .fall))
  | some p =>
    match portCheck .x i s with
    | some t => settle i s (.error (.trap s t))
    | none =>
      let lanes := guardLanes s.me u.g
      let w := if guardU s.me u.g then pairScalar h s else none
      if lanes = 0 then settle i s (.ok (putPair w s, .fall))
      else
        let d : Row := .v (p.d.setWidth 8)
        let a := pairSrc p.a
        let b := pairSrc p.b
        settle i s (do
          let (s', g) ← vectorBody false (runRefs 1 d (if p.two then [a, b] else [a]) p.readsD) [d]
            (fun vals s => runRows 32 lanes d a (if p.two then b else noSrc) p.readsD (fun _ => 0) (fun _ => 0) (p.op s.me) s
              1 0 vals) lanes s
          .ok (putPair w s', g))

/-- Pair word `pairSNop` (R48, R95). -/
def execPairSNop (u : Hdr) (v : PairV) (s : State) : Host.Outcome State Fault Refusal :=
  runPair (.pairSNop u v) u .nop v s

/-- Pair word `pairSAdd` (R48, R95). -/
def execPairSAdd (u : Hdr) (d a b : BitVec 5) (s : State) : Host.Outcome State Fault Refusal :=
  runPair (.pairSAdd u d a b) u (.add d a b) .nop s

/-- Pair word `pairSSub` (R48, R95). -/
def execPairSSub (u : Hdr) (d a b : BitVec 5) (s : State) : Host.Outcome State Fault Refusal :=
  runPair (.pairSSub u d a b) u (.sub d a b) .nop s

/-- Pair word `pairSAnd` (R48, R95). -/
def execPairSAnd (u : Hdr) (d a b : BitVec 5) (s : State) : Host.Outcome State Fault Refusal :=
  runPair (.pairSAnd u d a b) u (.and d a b) .nop s

/-- Pair word `pairSOr` (R48, R95). -/
def execPairSOr (u : Hdr) (d a b : BitVec 5) (s : State) : Host.Outcome State Fault Refusal :=
  runPair (.pairSOr u d a b) u (.or d a b) .nop s

/-- Pair word `pairSXor` (R48, R95). -/
def execPairSXor (u : Hdr) (d a b : BitVec 5) (s : State) : Host.Outcome State Fault Refusal :=
  runPair (.pairSXor u d a b) u (.xor d a b) .nop s

/-- Pair word `pairSMin` (R48, R95). -/
def execPairSMin (u : Hdr) (d a b : BitVec 5) (s : State) : Host.Outcome State Fault Refusal :=
  runPair (.pairSMin u d a b) u (.min d a b) .nop s

/-- Pair word `pairSMax` (R48, R95). -/
def execPairSMax (u : Hdr) (d a b : BitVec 5) (s : State) : Host.Outcome State Fault Refusal :=
  runPair (.pairSMax u d a b) u (.max d a b) .nop s

/-- Pair word `pairSAddi` (R48, R95). -/
def execPairSAddi (u : Hdr) (d a : BitVec 5) (imm : BitVec 5) (s : State) : Host.Outcome State Fault Refusal :=
  runPair (.pairSAddi u d a imm) u (.addi d a imm) .nop s

/-- Pair word `pairSShl` (R48, R95). -/
def execPairSShl (u : Hdr) (d a : BitVec 5) (n : BitVec 5) (s : State) : Host.Outcome State Fault Refusal :=
  runPair (.pairSShl u d a n) u (.shl d a n) .nop s

/-- Pair word `pairSShr` (R48, R95). -/
def execPairSShr (u : Hdr) (d a : BitVec 5) (n : BitVec 5) (s : State) : Host.Outcome State Fault Refusal :=
  runPair (.pairSShr u d a n) u (.shr d a n) .nop s

/-- Pair word `pairSSar` (R48, R95). -/
def execPairSSar (u : Hdr) (d a : BitVec 5) (n : BitVec 5) (s : State) : Host.Outcome State Fault Refusal :=
  runPair (.pairSSar u d a n) u (.sar d a n) .nop s

/-- Pair word `pairSMov` (R48, R95). -/
def execPairSMov (u : Hdr) (d a : BitVec 5) (s : State) : Host.Outcome State Fault Refusal :=
  runPair (.pairSMov u d a) u (.mov d a) .nop s

/-- Pair word `pairSMovi` (R48, R95). -/
def execPairSMovi (u : Hdr) (d : BitVec 5) (imm : BitVec 5) (s : State) : Host.Outcome State Fault Refusal :=
  runPair (.pairSMovi u d imm) u (.movi d imm) .nop s

/-- Pair word `pairVNop` (R48, R95). -/
def execPairVNop (u : Hdr) (s : State) : Host.Outcome State Fault Refusal :=
  runPair (.pairVNop u) u .nop .nop s

/-- Pair word `pairVVaddI32` (R48, R95). -/
def execPairVVaddI32 (u : Hdr) (s' : PairS) (d : BitVec 5) (a b : PSrc) (s : State) : Host.Outcome State Fault Refusal :=
  runPair (.pairVVaddI32 u s' d a b) u s' (.vaddI32 d a b) s

/-- Pair word `pairVVsubI32` (R48, R95). -/
def execPairVVsubI32 (u : Hdr) (s' : PairS) (d : BitVec 5) (a b : PSrc) (s : State) : Host.Outcome State Fault Refusal :=
  runPair (.pairVVsubI32 u s' d a b) u s' (.vsubI32 d a b) s

/-- Pair word `pairVVmulI32` (R48, R95). -/
def execPairVVmulI32 (u : Hdr) (s' : PairS) (d : BitVec 5) (a b : PSrc) (s : State) : Host.Outcome State Fault Refusal :=
  runPair (.pairVVmulI32 u s' d a b) u s' (.vmulI32 d a b) s

/-- Pair word `pairVVminI32` (R48, R95). -/
def execPairVVminI32 (u : Hdr) (s' : PairS) (d : BitVec 5) (a b : PSrc) (s : State) : Host.Outcome State Fault Refusal :=
  runPair (.pairVVminI32 u s' d a b) u s' (.vminI32 d a b) s

/-- Pair word `pairVVmaxI32` (R48, R95). -/
def execPairVVmaxI32 (u : Hdr) (s' : PairS) (d : BitVec 5) (a b : PSrc) (s : State) : Host.Outcome State Fault Refusal :=
  runPair (.pairVVmaxI32 u s' d a b) u s' (.vmaxI32 d a b) s

/-- Pair word `pairVVand` (R48, R95). -/
def execPairVVand (u : Hdr) (s' : PairS) (d : BitVec 5) (a b : PSrc) (s : State) : Host.Outcome State Fault Refusal :=
  runPair (.pairVVand u s' d a b) u s' (.vand d a b) s

/-- Pair word `pairVVor` (R48, R95). -/
def execPairVVor (u : Hdr) (s' : PairS) (d : BitVec 5) (a b : PSrc) (s : State) : Host.Outcome State Fault Refusal :=
  runPair (.pairVVor u s' d a b) u s' (.vor d a b) s

/-- Pair word `pairVVxor` (R48, R95). -/
def execPairVVxor (u : Hdr) (s' : PairS) (d : BitVec 5) (a b : PSrc) (s : State) : Host.Outcome State Fault Refusal :=
  runPair (.pairVVxor u s' d a b) u s' (.vxor d a b) s

/-- Pair word `pairVVmov` (R48, R95). -/
def execPairVVmov (u : Hdr) (s' : PairS) (d : BitVec 5) (a : PSrc) (s : State) : Host.Outcome State Fault Refusal :=
  runPair (.pairVVmov u s' d a) u s' (.vmov d a) s

/-- Pair word `pairVVaddF32` (R48, R95). -/
def execPairVVaddF32 (u : Hdr) (s' : PairS) (d : BitVec 5) (a b : PSrc) (s : State) : Host.Outcome State Fault Refusal :=
  runPair (.pairVVaddF32 u s' d a b) u s' (.vaddF32 d a b) s

/-- Pair word `pairVVsubF32` (R48, R95). -/
def execPairVVsubF32 (u : Hdr) (s' : PairS) (d : BitVec 5) (a b : PSrc) (s : State) : Host.Outcome State Fault Refusal :=
  runPair (.pairVVsubF32 u s' d a b) u s' (.vsubF32 d a b) s

/-- Pair word `pairVVmulF32` (R48, R95). -/
def execPairVVmulF32 (u : Hdr) (s' : PairS) (d : BitVec 5) (a b : PSrc) (s : State) : Host.Outcome State Fault Refusal :=
  runPair (.pairVVmulF32 u s' d a b) u s' (.vmulF32 d a b) s

/-- Pair word `pairVVfmaF32` (R48, R95). -/
def execPairVVfmaF32 (u : Hdr) (s' : PairS) (d : BitVec 5) (a b : PSrc) (s : State) : Host.Outcome State Fault Refusal :=
  runPair (.pairVVfmaF32 u s' d a b) u s' (.vfmaF32 d a b) s

/-- Pair word `pairVVminF32` (R48, R95). -/
def execPairVVminF32 (u : Hdr) (s' : PairS) (d : BitVec 5) (a b : PSrc) (s : State) : Host.Outcome State Fault Refusal :=
  runPair (.pairVVminF32 u s' d a b) u s' (.vminF32 d a b) s

/-- Pair word `pairVVmaxF32` (R48, R95). -/
def execPairVVmaxF32 (u : Hdr) (s' : PairS) (d : BitVec 5) (a b : PSrc) (s : State) : Host.Outcome State Fault Refusal :=
  runPair (.pairVVmaxF32 u s' d a b) u s' (.vmaxF32 d a b) s

end Sys2Proof.Machine
end

