-- ==== Sys2Proof/Machine/Access.lean ====
section
/-! DEFINITION. Handle checks (R256, R276, R277), the vector loads and stores of Fixed and Loose tiles (R280, R281), the
handle instructions (R290-R292) and the fences (R296, R297). -/

namespace Sys2Proof.Machine
open Sys2Proof

/-- R256 in order: ILL, then ROLE when the opcode has a space of its own, then PERM for a reserved die or for a Stream or
Accrue access to the host window (R250, R326). -/
def handleCheck (s : State) (i : Instr) (h : HBits) (sp : Option Space) (lanes : Word) : Except Halt Unit :=
  if !hLegal h then ill s i
  else if spaceWrong h sp then raise s cROLE (roleTval h (spaceCode (sp.getD .fixed)) 0)
  else if dieWrong h sp then raise s cPERM ((hBase h).setWidth 64) 0 lanes
  else .ok ()

/-- R276 step 2: the opcode's width against the format's. -/
def widthCheck (s : State) (i : Instr) (h : HBits) (w : Nat) : Except Halt Unit :=
  if widthFits h w then .ok () else ill s i

/-- R276 step 4: BASE aligned to an element of w bits; for 4-bit elements the first element even. -/
def alignCheck (s : State) (h : HBits) (w first : Nat) (lanes : Word) : Except Halt Unit :=
  if (hBase h).toNat % elemBytes w ≠ 0 ∨ (w = 4 ∧ first % 2 ≠ 0) then raise s cALIGN ((hBase h).setWidth 64) 0 lanes
  else .ok ()

/-- R277, R315: a Fixed read in a pure task needs DV. -/
def pureRead (s : State) (h : HBits) : Except Halt Unit :=
  if s.isPure && !(hSpace h == .fixed && hDv h) then purity s 1 else .ok ()

/-- Whether a handle register is the slot of the declared output of the running stitch (R56, R216, R277), and still names that
region (log entry 49). -/
def isOutput (s : State) (r : BitVec 4) : Bool :=
  match s.kore.stitch with
  | some t => t.outSlot == some r.toNat && hRegion t.outHandle == hRegion (s.me.hget r) &&
      vaDie (hBase t.outHandle) == vaDie (hBase (s.me.hget r))
  | none => false

/-- R277, R315: a write or update in a pure task goes through the handle slot of the declared output. -/
def pureWrite (s : State) (r : BitVec 4) : Except Halt Unit :=
  if s.isPure && !isOutput s r then purity s 2 else .ok ()

/-- R277: an instruction no pure task may issue. -/
def pureNever (s : State) (sub : Nat) : Except Halt Unit := if s.isPure then purity s sub else .ok ()

/-- What a load by a handle checks before it reads a row, its first element known or not (R276, R277). -/
def loadCheck (s : State) (i : Instr) (sp : Space) (ew : EW) (h : BitVec 4) (first : Nat) (lanes : Word) : Except Halt Unit := do
  let hb := s.me.hget h
  handleCheck s i hb (some sp) lanes
  widthCheck s i hb (ewBits ew)
  if sp == .fixed then pureRead s hb else pureNever s 3
  alignCheck s hb (ewBits ew) first lanes

/-- What a store checks before it reads a row (R276, R277). -/
def storeCheck (s : State) (i : Instr) (ew : EW) (h : BitVec 4) (first : Nat) (lanes : Word) : Except Halt Unit := do
  let hb := s.me.hget h
  handleCheck s i hb (some .loose) lanes
  widthCheck s i hb (ewBits ew)
  pureWrite s h
  alignCheck s hb (ewBits ew) first lanes

/-- What `sts` checks before it reads a row (R276, R277). -/
def streamCheck (s : State) (i : Instr) (h : BitVec 4) : Except Halt Unit := do
  handleCheck s i (s.me.hget h) (some .stream) 0
  pureNever s 6

/-- The rows of an index run, if the access has one (R281). -/
def indexRefs (ew : EW) (idx : Option Row) : List Ref :=
  match idx with
  | some r => runRefs ew.indexRows r [.row r] false
  | none => []

/-- An enabled element of a row: its index, its lane, and the number of the tile's element. -/
structure Pick where
  i : Nat
  lane : Nat
  e : Nat
  deriving DecidableEq, Repr, Inhabited

/-- The enabled elements of a row of elements of w bits, in ascending order (R103, R280). -/
def picks (w : Nat) (lanes : Word) (e : Nat → Nat) : List Pick :=
  (upto (2048 / w)).filterMap (fun i => if lanes.getLsbD (i * w / 32) then some ⟨i, i * w / 32, e i⟩ else none)

/-- Word i of an index run (R281). -/
def indexWord (rows : List PRow) (i : Nat) : Nat := bits (rows.getD (i / 64) {}).bits.toNat (32 * (i % 64)) 32

/-- The elements inside the tile, with their addresses. -/
def insideElems (t : Tile) (ps : List Pick) : List Elem :=
  ps.filterMap (fun p => if p.e < t.count then
    let (va, hi) := t.addr p.e
    some ⟨p.i, p.lane, va, hi⟩ else none)

/-- The lanes of an index outside the tile (R281): PERM pieces, with TVAL the base when one is the lowest lane. -/
def outsideTrap (h : HBits) (outside : List Nat) (t : Option TrapInfo) : Option TrapInfo :=
  if outside = [] then t
  else
    let mine : Word := laneMask outside
    let others : Word := match t with
      | some t => t.lanes
      | none => 0
    let low := (upto 64).find? (fun l => (mine ||| others).getLsbD l)
    let base := low.any (fun l => mine.getLsbD l)
    some { cause := cPERM, lanes := mine ||| others
           tval := if base then (hBase h).setWidth 64 else (t.map (·.tval)).getD 0 }

/-- Reserve a destination row in the band (R174). -/
def reserveDest (s : State) (d : Row) : State := s.setKore (reserveRows s.kore s.cur (bandRows [d]))

/-- Replace the elements of the lanes of `m` by the loaded values; elements outside the tile read 0 (R279). -/
def loadedRow (w : Nat) (m : Word) (got : List (Elem × Nat)) (old : RowBits) : RowBits :=
  rowOfElems w ((rowElems w old).zipIdx.map (fun e =>
    if m.getLsbD (e.2 * w / 32) then ((got.find? (fun g => g.1.i == e.2)).map (·.2)).getD 0 else e.1))

/-- Set FLAGS.PS of a handle register (R255). -/
def setPs (s : State) (h : BitVec 4) (p : Bool) : State :=
  if p then s.setMe (s.me.hset h (hput (s.me.hget h) 253 1 1)) else s

/-- A load of one row (R280, R281): the checks of R276, the index rows, the destination, the pieces. The element number S[A] + i is taken
exactly (R279; log entry 83). -/
def loadBody (i : Instr) (sp : Space) (ew : EW) (hre : Bool) (d : Row) (h : BitVec 4) (first : Nat) (idx : Option Row)
    (lanes : Word) (s : State) : Body := do
  let hb := s.me.hget h
  let w := ewBits ew
  loadCheck s i sp ew h (if idx.isNone then first else 0) lanes
  let refs := indexRefs ew idx
  let vals ← readSources s refs
  strictCheck s lanes refs vals
  takeDests s vals [d]
  let ps := picks w lanes (fun k => if idx.isNone then first + k else indexWord vals k)
  let t := tileOf hb w
  let s := reserveDest (s.setMe { s.me with held := vals }) d
  let (s, got, absent, perm, poison) ← loadElems s hb sp hre w (insideElems t ps)
  let outside := if idx.isNone then [] else (ps.filter (fun p => decide (t.count ≤ p.e))).map (·.lane)
  let trap := outsideTrap hb outside (pieceTrap absent perm)
  let failed : Word := match trap with
    | some t => t.lanes
    | none => 0
  let m := lanes &&& ~~~failed
  let old := s.rowGet d
  let psn := poison || vals.any (·.poison) || (m != BitVec.allOnes 64 && old.poison)
  let s := if m = 0 then s else writeRows s [(d, ⟨loadedRow w m got old.bits, psn⟩)]
  let s := setPs s h poison
  match trap with
  | some t => .error (.trap s t)
  | none => .ok (s, .fall)

/-- `ldf` (R280). -/
def execLdf (u : Hdr) (ew : EW) (hre : Bool) (d : Row) (h : BitVec 4) (a : BitVec 5) (s : State) :
    Host.Outcome State Fault Refusal :=
  let i := Instr.ldf u ew hre d h a
  perLane i (portCheck .m i) (fun l s => loadBody i .fixed ew hre d h (s.sget a).toNat none l s) s

/-- `ldfg` (R281). -/
def execLdfg (u : Hdr) (ew : EW) (hre : Bool) (d : Row) (h : BitVec 4) (idx : Row) (s : State) :
    Host.Outcome State Fault Refusal :=
  let i := Instr.ldfg u ew hre d h idx
  perLane i (portCheck .m i) (loadBody i .fixed ew hre d h 0 (some idx)) s

/-- `ldl` (R280). -/
def execLdl (u : Hdr) (ew : EW) (hre : Bool) (d : Row) (h : BitVec 4) (a : BitVec 5) (s : State) :
    Host.Outcome State Fault Refusal :=
  let i := Instr.ldl u ew hre d h a
  perLane i (portCheck .m i) (fun l s => loadBody i .loose ew hre d h (s.sget a).toNat none l s) s

/-- `ldlg` (R281). -/
def execLdlg (u : Hdr) (ew : EW) (hre : Bool) (d : Row) (h : BitVec 4) (idx : Row) (s : State) :
    Host.Outcome State Fault Refusal :=
  let i := Instr.ldlg u ew hre d h idx
  perLane i (portCheck .m i) (loadBody i .loose ew hre d h 0 (some idx)) s

/-- A store of one row (R280, R281). -/
def storeBody (i : Instr) (ew : EW) (hre : Bool) (src : RowSrc) (h : BitVec 4) (first : Nat) (idx : Option Row)
    (lanes : Word) (s : State) : Body := do
  let hb := s.me.hget h
  let w := ewBits ew
  storeCheck s i ew h (if idx.isNone then first else 0) lanes
  let refs := indexRefs ew idx ++ [rowSrcRef src]
  let vals ← readSources s refs
  strictCheck s lanes refs vals
  let row := vals.getLastD {}
  let codes := rowElems w row.bits
  let ps := picks w lanes (fun k => if idx.isNone then first + k else indexWord vals k)
  let t := tileOf hb w
  let s := s.setMe { s.me with held := vals }
  let els := insideElems t ps
  let (s, bad) ← storeElems s hb .loose hre w idx.isSome true (fun _ => vals.any (·.poison)) (els.map (fun e => (e, nth codes e.i)))
  let outside := if idx.isNone then [] else (ps.filter (fun p => decide (t.count ≤ p.e))).map (·.lane)
  match outsideTrap hb outside (pieceTrap [] bad) with
  | some t => .error (.trap s t)
  | none => .ok (s, .fall)

/-- `stl` (R280). -/
def execStl (u : Hdr) (ew : EW) (hre : Bool) (src : RowSrc) (h : BitVec 4) (a : BitVec 5) (s : State) :
    Host.Outcome State Fault Refusal :=
  let i := Instr.stl u ew hre src h a
  perLane i (portCheck .w i) (fun l s => storeBody i ew hre src h (s.sget a).toNat none l s) s

/-- `stls` (R281). -/
def execStls (u : Hdr) (ew : EW) (hre : Bool) (src : RowSrc) (h : BitVec 4) (idx : Row) (s : State) :
    Host.Outcome State Fault Refusal :=
  let i := Instr.stls u ew hre src h idx
  perLane i (portCheck .w i) (storeBody i ew hre src h 0 (some idx)) s

/-! Handles. -/

/-- `hbuild` (R290): PRIV ignores the guard (R67). -/
def execHbuild (u : Hdr) (h : BitVec 4) (a : BitVec 5) (s : State) : Host.Outcome State Fault Refusal :=
  uniform (.hbuild u h a) (privCheck (.hbuild u h a)) (fun s =>
    .ok (s.setMe (s.me.hset h (s.sget (a + 3) ++ s.sget (a + 2) ++ s.sget (a + 1) ++ s.sget a)), .fall)) s

/-- R291: the view of tile (a, b) of a handle, for tile sizes t0, t1. PERM and ALIGN answer their cause. -/
def handleView (h : HBits) (t0 t1 a b : Nat) : Except (BitVec 8) HBits :=
  let x0 := a * t0
  let x1 := b * t1
  let o := x0 + x1 * hfield h 170 20
  if hSpace h = .stream ∨ hExt h 0 ≤ x0 ∨ hExt h 1 ≤ x1 ∨ (hRank h = 1 ∧ b ≠ 0) then .error cPERM
  else if hWidth h = 4 ∧ o % 2 ≠ 0 then .error cALIGN
  else
    let h' := hput h 36 56 (hBase h + BitVec.ofNat 56 (o * hWidth h / 8)).toNat
    .ok (hput (hput h' 106 16 (min t0 (hExt h 0 - x0))) 122 16 (min t1 (hExt h 1 - x1)))

/-- `hview` (R291): the checks of R256 steps 1 and 3 come first (R276). On a core that runs no stitch, the tile sizes are 1 and 1
(log entry 20). -/
def execHview (u : Hdr) (hd hp : BitVec 4) (a b : BitVec 5) (s : State) : Host.Outcome State Fault Refusal :=
  uniform (.hview u hd hp a b) noCheck (fun s => do
    let h := s.me.hget hp
    handleCheck s (.hview u hd hp a b) h none 0
    let (t0, t1) := match s.kore.stitch with
      | some t => (t.t0, t.t1)
      | none => (1, 1)
    match handleView h t0 t1 (s.sget a).toNat (s.sget b).toNat with
    | .ok v => .ok (s.setMe (s.me.hset hd v), .fall)
    | .error c => raise s c (((s.sget a).setWidth 32).setWidth 64 ||| ((s.sget b).setWidth 32).setWidth 64 <<< 32)) s

/-- `hread` (R292). -/
def execHread (u : Hdr) (d : BitVec 5) (ha : BitVec 4) (q : BitVec 2) (s : State) : Host.Outcome State Fault Refusal :=
  uniform (.hread u d ha q) noCheck (fun s =>
    .ok (s.sset d ((s.me.hget ha >>> (64 * q.toNat)).setWidth 64), .fall)) s

/-! Fences: every access of a strand is performed, or held with its strand, before the strand's next unit begins, so a
fence finds nothing to wait for (log entry 5). -/

/-- `fence`, full (R296). -/
def execFenceFull (u : Hdr) (sc : Scope) (s : State) : Host.Outcome State Fault Refusal :=
  uniform (.fenceFull u sc) (portCheck .w (.fenceFull u sc)) (fun s => .ok (s, .fall)) s

/-- `fence.acq` (R296). -/
def execFenceAcq (u : Hdr) (sc : Scope) (s : State) : Host.Outcome State Fault Refusal :=
  uniform (.fenceAcq u sc) (portCheck .w (.fenceAcq u sc)) (fun s => .ok (s, .fall)) s

/-- `fence.rel` (R296). -/
def execFenceRel (u : Hdr) (sc : Scope) (s : State) : Host.Outcome State Fault Refusal :=
  uniform (.fenceRel u sc) (portCheck .w (.fenceRel u sc)) (fun s => .ok (s, .fall)) s

/-- `afence` (R297). -/
def execAfence (u : Hdr) (sc : Scope) (s : State) : Host.Outcome State Fault Refusal :=
  uniform (.afence u sc) (portCheck .w (.afence u sc)) (fun s => .ok (s, .fall)) s

end Sys2Proof.Machine
end

