-- ==== Sys2Proof/Machine/Accrue.lean ====
section
/-! DEFINITION. Accrue updates (R41-R45, R248, R283) and the scatter-accumulate engine's merge window, staging and
release (R221, R222). -/

namespace Sys2Proof.Machine
open Sys2Proof

/-- R45, R351: the integer update of operation number op (0 add, 1 min, 2 max, 3 and, 4 or, 5 xor) at a width. -/
def intUpdate (op w : Nat) (old x : Nat) : Nat :=
  match op with
  | 0 => (old + x) % 2 ^ w
  | 1 => if sext w old ≤ sext w x then old % 2 ^ w else x % 2 ^ w
  | 2 => if sext w old ≤ sext w x then x % 2 ^ w else old % 2 ^ w
  | 3 => Nat.land old x % 2 ^ w
  | 4 => Nat.lor old x % 2 ^ w
  | _ => Nat.xor old x % 2 ^ w

/-- R221: two updates of one element combined, when they are of one kind. -/
def AccOp.merge (a b : AccOp) : Option AccOp :=
  match a, b with
  | .af p m, .af q n =>
    some (.af (p + q) (match m, n with
      | some m, some n => some (m + n)
      | _, _ => none))
  | .int o w x, .int o' w' y =>
    if o = o' ∧ w = w' then some (.int o w (BitVec.ofNat 64 (intUpdate o w x.toNat y.toNat))) else none
  | _, _ => none

/-- Bytes of the target element. -/
def AccOp.size : AccOp → Nat
  | .af _ _ => 16
  | .int _ w _ => w / 8

/-- Whether two entries are updates of one stitch to one element of one region, which the home's checks (R259) treat alike:
their handles may be different views, with the same GEN and AFLSB (R221). -/
def AccEntry.same (a b : AccEntry) : Bool :=
  a.id == b.id && a.lin == b.lin && a.va == b.va && a.tenant == b.tenant && a.prior == b.prior &&
    hSpace a.handle == hSpace b.handle && hRegion a.handle == hRegion b.handle && hGen a.handle == hGen b.handle &&
    hAflsb a.handle == hAflsb b.handle

/-- Merge an entry into a window; none when nothing there takes it. -/
def mergeInto (e : AccEntry) : List AccEntry → Option (List AccEntry)
  | [] => none
  | x :: xs =>
    match (if x.same e then x.op.merge e.op else none) with
    | some o => some ({ x with op := o, poison := x.poison || e.poison } :: xs)
    | none => (mergeInto e xs).map (x :: ·)

/-- R221, R300: an entry leaves for its target; its record is not Done until it has been performed or has failed. -/
def releaseEntry (s : State) (e : AccEntry) : State :=
  let d := homeOf e.va
  let s := s.setDie d { s.die d with released := (s.die d).released ++ [e] }
  let r := s.recx e.id.die e.id.record
  if r.launch = e.id.launch then s.setRecx e.id.die e.id.record { r with pendAcc := r.pendAcc + 1 } else s

/-- Change the stitch a core runs, when it is the one named. -/
def modStitch (s : State) (c : Nat) (id : LaunchId) (f : Stitch → Stitch) : State :=
  let k := s.core c
  match k.stitch with
  | some t => if t.id = id then s.setCore c { k with stitch := some (f t) } else s
  | none => s

/-- Whether a stitch is the one named. -/
def Stitch.named (t : Stitch) (id : LaunchId) (lin : BitVec 32) : Bool := t.id == id && t.lin == lin

/-- The core that runs a stitch. -/
def stitchCore (s : State) (id : LaunchId) (lin : BitVec 32) : Option Nat :=
  (s.cores.find? (fun e => e.2.stitch.any (·.named id lin))).map (·.1)

/-- A stitch, wherever it runs or waits to be resumed (R186). -/
def stitchOf (s : State) (id : LaunchId) (lin : BitVec 32) : Option Stitch :=
  match stitchCore s id lin with
  | some c => (s.core c).stitch
  | none => ((s.recx id.die id.record).suspended.find? (fun u => u.stitch.named id lin)).map (·.stitch)

/-- Change a stitch, wherever it runs or waits to be resumed. -/
def modStitchOf (s : State) (id : LaunchId) (lin : BitVec 32) (f : Stitch → Stitch) : State :=
  match stitchCore s id lin with
  | some c => modStitch s c id f
  | none =>
    let x := s.recx id.die id.record
    if x.suspended.any (fun u => u.stitch.named id lin) then
      s.setRecx id.die id.record { x with
        suspended := x.suspended.map (fun u => if u.stitch.named id lin then { u with stitch := f u.stitch } else u) }
    else s

/-- The entries of one stitch. -/
def AccEntry.of (id : LaunchId) (lin : BitVec 32) (e : AccEntry) : Bool := e.id == id && e.lin == lin

/-- Keep the entries of every cluster that a test selects. -/
def keepEntries (s : State) (p : AccEntry → Bool) : State :=
  { s with clusters := s.clusters.map (fun (e : Nat × Cluster) => (e.1, { e.2 with
    staging := e.2.staging.filter p
    window := e.2.window.filter p })) }

/-- Release the entries of a stitch that a test selects, from the windows and the staging of the clusters (R220, R222). A
stitch that was resumed elsewhere has entries in more than one. -/
def releaseStitch (s : State) (id : LaunchId) (lin : BitVec 32) (p : AccEntry → Bool) : State :=
  let pick (e : AccEntry) : Bool := e.of id lin && p e
  let out := s.clusters.flatMap (fun (e : Nat × Cluster) => e.2.staging.filter pick ++ e.2.window.filter pick)
  out.foldl releaseEntry (keepEntries s (fun e => !pick e))

/-- Drop every entry of a stitch (R220, R300). -/
def dropStitch (s : State) (id : LaunchId) (lin : BitVec 32) : State := keepEntries s (fun e => !e.of id lin)

/-- Staging entries of a cluster (R206). -/
def stagingSize : Nat := 65536

/-- R221: early commit of a stitch: its entries are released and it is no longer restartable. -/
def earlyCommit (s : State) (cl : Nat) (id : LaunchId) (lin : BitVec 32) : State :=
  let s := releaseStitch s id lin (fun _ => true)
  let x := s.cluster cl
  let s := s.setCluster cl { x with early := if x.early = BitVec.allOnes 16 then x.early else x.early + 1 }
  modStitchOf s id lin (fun t => { t with early := true, restartable := false })

/-- R221: an evicted entry is staged; a limit reached commits its stitch early. -/
def stageEntry (s : State) (cl : Nat) (e : AccEntry) : State :=
  let x := s.cluster cl
  let s := s.setCluster cl { x with staging := x.staging ++ [e] }
  let x := s.cluster cl
  let quota := match stitchOf s e.id e.lin with
    | some t => t.stageQ
    | none => stagingSize
  let mine := (s.clusters.flatMap (fun (c : Nat × Cluster) => c.2.staging.filter (AccEntry.of e.id e.lin))).length
  if quota ≤ mine ∨ stagingSize ≤ x.staging.length then
    earlyCommit s cl e.id e.lin
  else s

/-- Entries of the merge window (R221). -/
def windowSize : Nat := 64

/-- R221: an update enters the engine of a cluster. After an early commit it goes straight through. -/
def accrue (s : State) (cl : Nat) (e : AccEntry) : State :=
  let early := match (s.core e.core).stitch with
    | some t => t.early
    | none => false
  if early then releaseEntry s e
  else
    let x := s.cluster cl
    match mergeInto e x.window with
    | some w => s.setCluster cl { x with window := w }
    | none =>
      if x.window.length < windowSize then s.setCluster cl { x with window := x.window ++ [e] }
      else
        match x.window with
        | [] => s
        | old :: rest => stageEntry (s.setCluster cl { x with window := rest ++ [e] }) cl old

/-- Where a bound word is kept: by region and 16-byte granule (R41). -/
def boundKey (h : HBits) (va : BitVec 56) : Nat := hRegion h * 2 ^ 47 + vaOff va / 16

/-- R42, R45: perform an update at a place. -/
def applyUpdate (s : State) (e : AccEntry) (k : Nat) : State :=
  let s := match e.op with
    | .af q inc =>
      let d := homeOf e.va
      let x := s.die d
      let (c, b) := afApply (s.num k 16) (tget 0 x.bounds (boundKey e.handle e.va)).toNat q inc
      let s := s.setDie d { x with bounds := tset 0 x.bounds (boundKey e.handle e.va) (BitVec.ofNat 32 b) }
      s.setNum k 16 c
    | .int o w x => s.setNum k (w / 8) (intUpdate o w (s.num k (w / 8)) x.toNat)
  if e.poison then s.setBlockPoison k true else s

/-- An entry of a record has been performed or has failed (R300). -/
def entryDone (s : State) (e : AccEntry) : State :=
  let r := s.recx e.id.die e.id.record
  if r.launch = e.id.launch then s.setRecx e.id.die e.id.record { r with pendAcc := r.pendAcc - 1 } else s

/-- What the home makes of an update: done or failed with a cause, held, or outside storage. -/
inductive Taken where
  | done (s : State)
  | failed (s : State) (cause : BitVec 8)
  | held (s : State)
  | nowhere (key : Nat)
  deriving Repr

/-- Whether the block that holds an address is poisoned where it can be reached. -/
def poisonAt (s : State) (sp : Space) (va : BitVec 56) : Bool :=
  match (translate s sp va {}).2 with
  | .ok k => s.blockPoison k
  | _ => false

/-- R259, R270, R273: the home takes an Accrue update that is not held back by a recast. -/
def takeUpdate (s : State) (e : AccEntry) : Taken :=
  match homeCheck s e.tenant e.handle e.prior e.op.size [(0, e.va)] with
  | .held => .held s
  | .perm _ => .failed s cPERM
  | .role _ => .failed s cROLE
  | .ok =>
    let d := homeOf e.va
    let af : Bool := match e.op with
      | .af _ _ => true
      | .int .. => false
    if af && hAflsb e.handle != sext 12 (bits (s.rgnWord d (hRegion e.handle) 0x18) 40 12) then .failed s cROLE
    else
      match translate s .accrue e.va { wr := true } with
      | (_, .nowhere k) => .nowhere k
      | (s, x) =>
        if x == .absent || pendingPage s .accrue (pageAt s .accrue e.va) then
          match skeinRoom s d e.tenant e.core 1 with
          | .limit => .held (freezeCore s d e.core 1)
          | .full => .held s
          | .yes =>
            .done (skeinAdd s d { space := .accrue, va := e.va, id := e.id, tenant := e.tenant, handle := e.handle
                                  op := .accrue e })
        else
          match x with
          | .ok k => .done (applyUpdate s e k)
          | .perm => .failed s cPERM
          | _ => .held s

/-- Take an update and settle its record: a failure makes the record Failed (R283, R300). -/
def performEntry (s : State) (e : AccEntry) : Taken :=
  match takeUpdate s e with
  | .done s => .done (entryDone s e)
  | .failed s c => .failed (failRecord (entryDone s e) e.id c) c
  | t => t

/-- The identity of the running stitch for its updates. -/
def newEntry (s : State) (c : Nat) (h : HBits) (va : BitVec 56) (op : AccOp) (poison : Bool) : AccEntry :=
  match (s.core c).stitch with
  | some t => ⟨t.id, t.lin, c, t.tenant, h, va, op, poison, false⟩
  | none => ⟨{}, 0, c, 0, h, va, op, poison, false⟩

/-- The source formats of `acc.*`: width in bits, and the update an element gives (R283). -/
structure AccKind where
  w : Nat
  fmts : List Fmt
  op : HBits → Nat → AccOp

/-- An AF128 addend of a format with the handle's AFLSB. -/
def afOp (f : Fmt) (h : HBits) (x : Nat) : AccOp :=
  let (q, n) := afAddend (hAflsb h) (decodeFmt f x).1
  .af q n

/-- An integer update. -/
def intOp (o w : Nat) (_ : HBits) (x : Nat) : AccOp := .int o w (BitVec.ofNat 64 (x % 2 ^ w))

/-- What an `acc.*` checks before it reads a row (R276, R277, R283). -/
def accCheck (s : State) (i : Instr) (fmts : List Fmt) (h : BitVec 4) (lanes : Word) : Except Halt Unit := do
  let hb := s.me.hget h
  handleCheck s i hb (some .accrue) lanes
  if !fmtFits fmts hb then ill s i
  else
    pureWrite s h
    alignCheck s hb (hWidth hb) 0 lanes

/-- One `acc.*` (R283): the checks of R276 with the format column, then one update per enabled element inside the tile. With lanes enabled
but no element, it checks and reads its source all the same (log entry 60). -/
def accBody (i : Instr) (kd : AccKind) (src : RowSrc) (h : BitVec 4) (a : BitVec 5) (lanes : Word) (s : State) : Body := do
  let hb := s.me.hget h
  accCheck s i kd.fmts h lanes
  let refs := [rowSrcRef src]
  let vals ← readSources s refs
  strictCheck s lanes refs vals
  let row := vals.headD {}
  let codes := rowElems kd.w row.bits
  let first := (s.sget a).toNat
  let els := insideElems (tileOf hb (hWidth hb)) (picks kd.w lanes (fun k => first + k))
  .ok (els.foldl (fun s e => accrue s s.myCluster (newEntry s s.myCore hb e.va (kd.op hb (nth codes e.i)) row.poison)) s,
    .fall)

/-- Format of a source of `acc.add.af` (R90). -/
def afSrcFmt : AfSrc → Fmt
  | .f32 => .fp32
  | .f16 => .fp16
  | .bf16 => .bf16
  | .i32 => .int32

/-- `acc.add.i32` (R283). -/
def execAccAddI32 (u : Hdr) (src : RowSrc) (h : BitVec 4) (a : BitVec 5) (s : State) : Host.Outcome State Fault Refusal :=
  let i := Instr.accAddI32 u src h a
  perLane i (portCheck .w i) (accBody i ⟨32, [.int32, .u32], intOp 0 32⟩ src h a) s

/-- `acc.add.i64` (R283). -/
def execAccAddI64 (u : Hdr) (src : RowSrc) (h : BitVec 4) (a : BitVec 5) (s : State) : Host.Outcome State Fault Refusal :=
  let i := Instr.accAddI64 u src h a
  perLane i (portCheck .w i) (accBody i ⟨64, [.int64], intOp 0 64⟩ src h a) s

/-- `acc.add.af` (R283, R42). -/
def execAccAddAf (u : Hdr) (x : AfSrc) (src : RowSrc) (h : BitVec 4) (a : BitVec 5) (s : State) :
    Host.Outcome State Fault Refusal :=
  let i := Instr.accAddAf u x src h a
  perLane i (portCheck .w i) (accBody i ⟨(afSrcFmt x).width, [.af128], afOp (afSrcFmt x)⟩ src h a) s

/-- `acc.min.i32` (R283). -/
def execAccMinI32 (u : Hdr) (src : RowSrc) (h : BitVec 4) (a : BitVec 5) (s : State) : Host.Outcome State Fault Refusal :=
  let i := Instr.accMinI32 u src h a
  perLane i (portCheck .w i) (accBody i ⟨32, [.int32], intOp 1 32⟩ src h a) s

/-- `acc.max.i32` (R283). -/
def execAccMaxI32 (u : Hdr) (src : RowSrc) (h : BitVec 4) (a : BitVec 5) (s : State) : Host.Outcome State Fault Refusal :=
  let i := Instr.accMaxI32 u src h a
  perLane i (portCheck .w i) (accBody i ⟨32, [.int32], intOp 2 32⟩ src h a) s

/-- `acc.and` (R283). -/
def execAccAnd (u : Hdr) (src : RowSrc) (h : BitVec 4) (a : BitVec 5) (s : State) : Host.Outcome State Fault Refusal :=
  let i := Instr.accAnd u src h a
  perLane i (portCheck .w i) (accBody i ⟨32, [.int32, .u32], intOp 3 32⟩ src h a) s

/-- `acc.or` (R283). -/
def execAccOr (u : Hdr) (src : RowSrc) (h : BitVec 4) (a : BitVec 5) (s : State) : Host.Outcome State Fault Refusal :=
  let i := Instr.accOr u src h a
  perLane i (portCheck .w i) (accBody i ⟨32, [.int32, .u32], intOp 4 32⟩ src h a) s

/-- `acc.xor` (R283). -/
def execAccXor (u : Hdr) (src : RowSrc) (h : BitVec 4) (a : BitVec 5) (s : State) : Host.Outcome State Fault Refusal :=
  let i := Instr.accXor u src h a
  perLane i (portCheck .w i) (accBody i ⟨32, [.int32, .u32], intOp 5 32⟩ src h a) s

end Sys2Proof.Machine
end

