-- ==== Sys2Proof/Machine/Ring.lean ====
section
/-! DEFINITION. Stream rings (R246, R247, R284-R287). -/

namespace Sys2Proof.Machine
open Sys2Proof

/-- The home's checks of a uniform request over n bytes at an address: TLANES is 0 (R112, R259). A request that is `free`, one that
the home took earlier or one that drains a ring, is not held for a recast (R261). -/
def uniformHome (s : State) (h : HBits) (free : Bool) (n : Nat) (va : BitVec 56) : Except Halt Unit :=
  match homeCheck s s.myTenant h free n [(0, va)] with
  | .perm _ => raise s cPERM (va.setWidth 64)
  | .role tv => raise s cROLE tv
  | .held => .error (.wait s .held none)
  | .ok => .ok ()

/-- Slot size in bytes and slot count of a region (R257). -/
def ringZ (s : State) (d r : Nat) : Nat := 256 * bits (s.rgnWord d r 0x38) 0 16
/-- Slot count. -/
def ringN (s : State) (d r : Nat) : Nat := bits (s.rgnWord d r 0x38) 16 16

/-- An address inside a region, by byte offset. -/
def rgnVa (s : State) (d r off : Nat) : BitVec 56 := BitVec.ofNat 56 (rgnDie d r * 2 ^ 51 + rgnBase s d r + off)

/-- Place of an address the home itself uses, when it can be reached. -/
def placeOf (s : State) (sp : Space) (va : BitVec 56) : Option Nat :=
  match (translate s sp va {}).2 with
  | .ok k => some k
  | _ => none

/-- Write an 8-byte word at an address, where it can be reached. -/
def setHomeWord (s : State) (sp : Space) (va : BitVec 56) (v : Nat) : State :=
  match placeOf s sp va with
  | some k => s.setNum k 8 v
  | none => s

/-- Address of word w (0 flags, 1 sequence number) of slot header k (R246). -/
def headerVa (s : State) (d r k w : Nat) : BitVec 56 := rgnVa s d r (ringN s d r * ringZ s d r + 16 * k + 8 * w)

/-- A header word; 0 where it cannot be reached. -/
def ringHeader (s : State) (d r k w : Nat) : Nat :=
  match placeOf s .stream (headerVa s d r k w) with
  | some p => s.num p 8
  | none => 0

/-- Write a pointer word (0 W, 1 R, 2 C, 3 WROW, 4 RROW, 5 producer, 6 consumer). -/
def setRingPtr (s : State) (d r w v : Nat) : State := setHomeWord s .stream (ringPtrVa s d r w) v

/-- Write a header: EOS, POISON, rows, sequence number. -/
def setHeader (s : State) (d r k : Nat) (eos poison : Bool) (rows seq : Nat) : State :=
  setHomeWord (setHomeWord s .stream (headerVa s d r k 0) (b2n eos + 2 * b2n poison + 256 * (rows % 256))) .stream
    (headerVa s d r k 1) seq

/-- POISON of header k. -/
def slotPoison (s : State) (d r k : Nat) : Bool := bit (ringHeader s d r k 0) 1

/-- R262: the home reads W, C and WROW, and the ring is quiescent. -/
def ringQuiet (s : State) (d r : Nat) : Bool :=
  [0, 2, 3].all (fun w => (placeOf s .stream (ringPtrVa s d r w)).isSome) &&
    ringPtr s d r 2 == ringPtr s d r 0 && ringPtr s d r 3 == 0

/-- R259: a recast out of Stream, if there is one, waits for the ring to become quiescent. -/
def ringOpen (s : State) (d r : Nat) : Bool := (rgnRun s d r 0).2.1 == .stream && !ringQuiet s d r

/-- The binding word of the running strand (R246); a strand that runs no stitch binds as stitch 0 of record 0 of die 0 (log entry 66). -/
def bindWord (s : State) : Nat :=
  let n := numOf s.cur
  match s.kore.stitch with
  | some t => t.lin.toNat + n * 2 ^ 32 + t.id.record % 2 ^ 12 * 2 ^ 34 + t.id.die % 32 * 2 ^ 46 + 2 ^ 63
  | none => n * 2 ^ 32 + 2 ^ 63

/-- Whether the home of a ring has taken the running strand's request: only a whole region is recast out of Stream (R266), so its
addresses do not matter. -/
def tookRing (s : State) (h : HBits) : Bool := s.me.taken.any (fun t => t.home == homeOf (hBase h) && t.region == hRegion h)

/-- The home's own words of a ring can be reached for a request by handle h: a page that is not present holds the strand until
firmware decides, a forbidden one is PERM. The home has taken the request (R261). -/
def ringReach (s : State) (h : HBits) : List (BitVec 56) → Except Halt State
  | [] => .ok s
  | va :: vs =>
    match if s.me.absent.contains (.stream, pageAt s .stream va) then (s, .absent) else translate s .stream va {} with
    | (s, .ok _) => ringReach s h vs
    | (s, .absent) =>
      if s.me.absent.contains (.stream, pageAt s .stream va) then raise s cABSENT (va.setWidth 64)
      else .error (.wait (holdTaken s h .stream [va]) .held none)
    | (s, .perm) => raise s cPERM (va.setWidth 64)
    | (_, .nowhere k) => .error (.stop (.noStorage k))
    | (s, .held) => .error (.wait s .held none)

/-- A request of a ring waits at its home for a slot or a place: taken before a recast begins, it is one that the recast waits for; taken
while the ring is drained, it is not (R259, R261, R284). -/
def waitRing (s : State) (h : HBits) : State :=
  let d := homeOf (hBase h)
  let r := hRegion h
  if rgnState s d r = 2 then s else holdTaken s h .stream [rgnVa s d r 0]

/-- Pointer words and the header of slot k. -/
def ringWords (s : State) (d r k : Nat) : List (BitVec 56) :=
  (upto 8).map (fun w => ringPtrVa s d r w) ++ [headerVa s d r k 0, headerVa s d r k 1]

/-- R259: a request of the bound side (word w) is not held while the ring is drained. -/
def ringOwn (s : State) (d r w : Nat) : Bool := ringOpen s d r && ringPtr s d r w == bindWord s

/-- R247: a side (word w) is free or bound to the running strand; else PERM with the slot's address. -/
def sideCheck (s : State) (d r w k : Nat) : Except Halt Unit :=
  let b := ringPtr s d r w
  if b = 0 ∨ b = bindWord s then .ok ()
  else raise s cPERM ((rgnVa s d r (k * ringZ s d r)).setWidth 64)

/-- R247: a request that completes binds its side; one that traps or waits changes nothing. -/
def bindSide (s : State) (d r w : Nat) : State :=
  if ringPtr s d r w = 0 then setRingPtr s d r w (bindWord s) else s

/-- What the home remembers of a region. -/
def State.rgnx (s : State) (d r : Nat) : RgnX := tget {} (s.die d).rgnx r
/-- Replace it. -/
def State.setRgnx (s : State) (d r : Nat) (x : RgnX) : State :=
  s.setDie d { s.die d with rgnx := tset {} (s.die d).rgnx r x }

/-- R284: the slot under W is complete: header, W, WROW. -/
def completeSlot (s : State) (d r rows : Nat) (eos : Bool) (poison : Bool) : State :=
  let w := ringPtr s d r 0
  let s := setHeader s d r (w % ringN s d r) eos poison rows w
  let s := setRingPtr (setRingPtr s d r 0 (w + 1)) d r 3 0
  let x := s.rgnx d r
  if poison ∧ !x.ringPoison then s.setRgnx d r { x with ringPoison := true } else s

/-- The opening steps of `sts` and `sts.eos` at the home: checks, reach, the binding, the end of the stream. -/
def produceOpen (s : State) (h : HBits) : Except Halt State := do
  let d := homeOf (hBase h)
  let r := hRegion h
  uniformHome s h (ringOwn s d r 5 || tookRing s h) 1 (rgnVa s d r 0)
  let k := ringPtr s d r 0 % ringN s d r
  let s ← ringReach s h (ringWords s d r k)
  let k := ringPtr s d r 0 % ringN s d r
  sideCheck s d r 5 k
  if (s.rgnx d r).ended then raise s cPERM ((rgnVa s d r (k * ringZ s d r)).setWidth 64)
  else
    .ok (match s.kore.stitch with
    | some t => if t.restartable then s.setKore { s.kore with stitch := some { t with restartable := false } } else s
    | none => s)

/-- The permission a request of a ring needs on its slot's page where it moves no row (R254); the page itself is not used. -/
def slotPerm (s : State) (need : Need) (va : BitVec 56) : Except Halt State :=
  match translate s .stream va need with
  | (s, .perm) => raise s cPERM (va.setWidth 64)
  | (s, _) => .ok s

/-- Write one row of a ring: to its page, or into the skein when the page is absent or has entries pending (R270). -/
def writeRingRow (s : State) (h : HBits) (va : BitVec 56) (row : PRow) : Except Halt State :=
  match translate s .stream va { wr := true } with
  | (_, .nowhere k) => .error (.stop (.noStorage k))
  | (s, x) =>
    let d := homeOf va
    if x == .absent || pendingPage s .stream (pageAt s .stream va) then
      match skeinRoom s d s.myTenant s.myCore 1 with
      | .limit => .error (.wait (freezeCore (holdTaken s h .stream [va]) d s.myCore 1) .held none)
      | .full => .error (.wait (holdTaken s h .stream [va]) .held none)
      | .yes =>
        let cells := (bytesOf 256 row.bits.toNat).zipIdx.map (fun e => (e.2, e.1, Part.full))
        .ok (skeinAdd s d { space := .stream, va := va, id := s.myLaunch, tenant := s.myTenant, handle := h
                            op := .store cells (if row.poison then [0] else []) })
    else match x with
      | .ok k => .ok (s.setRowAt k row)
      | _ => raise s cPERM (va.setWidth 64)

/-- LIM in cycles (R86). -/
def limOf (lim : BitVec 12) : Nat := 16 * lim.toNat

/-- `sts` (R284). -/
def execSts (u : Hdr) (src : RowSrc) (h : BitVec 4) (lim : BitVec 12) (s : State) : Host.Outcome State Fault Refusal :=
  let i := Instr.sts u src h lim
  uniform i (portCheck .w i) (fun s => do
    let hb := s.me.hget h
    streamCheck s i h
    let vals ← readSources s [rowSrcRef src]
    let row := vals.headD {}
    let s ← produceOpen (s.setMe { s.me with held := vals }) hb
    let d := homeOf (hBase hb)
    let r := hRegion hb
    let (w, c, wrow) := (ringPtr s d r 0, ringPtr s d r 2, ringPtr s d r 3)
    if ringN s d r ≤ w - c then .error (.wait (waitRing s hb) (.sts h hb) (some (limOf lim)))
    else
      let k := w % ringN s d r
      let s ← writeRingRow s hb (rgnVa s d r (k * ringZ s d r + 256 * wrow)) row
      let s := bindSide s d r 5
      let p := slotPoison s d r k || row.poison
      if (wrow + 1) * 256 = ringZ s d r then .ok (completeSlot s d r (wrow + 1) false p, .fall)
      else
        let s := setHomeWord s .stream (headerVa s d r k 0) (putBits (ringHeader s d r k 0) 1 1 (b2n p))
        .ok (setRingPtr s d r 3 (wrow + 1), .fall)) s

/-- Some rows of slot k written as zero; each is counted as it is stored. -/
def zeroRows (s : State) (h : HBits) (d r k : Nat) : List Nat → Except Halt State
  | [] => .ok s
  | j :: js => do
    let s ← writeRingRow s h (rgnVa s d r (k * ringZ s d r + 256 * j)) {}
    zeroRows (rowSaved s) h d r k js

/-- `sts.eos` (R285). The partial slot that it completes stays complete when the end slot then traps (log entry 30). A row of it that its
home has taken is not stored again. One that completes on a ring with no producer binds the producer side, as an `sts` does (log entry
84). -/
def execStsEos (u : Hdr) (h : BitVec 4) (lim : BitVec 12) (s : State) : Host.Outcome State Fault Refusal :=
  let i := Instr.stsEos u h lim
  uniform i (portCheck .w i) (fun s => do
    let hb := s.me.hget h
    handleCheck s i hb (some .stream) 0
    pureNever s 6
    let s ← produceOpen s hb
    let d := homeOf (hBase hb)
    let r := hRegion hb
    let (w, wrow) := (ringPtr s d r 0, ringPtr s d r 3)
    let k := w % ringN s d r
    let s ← if wrow = 0 then .ok s
      else do
        let s ← zeroRows s hb d r k ((upto (ringZ s d r / 256)).filter (fun j => decide (wrow + s.me.saved ≤ j)))
        .ok (completeSlot (s.setMe { s.me with saved := 0 }) d r wrow false (slotPoison s d r k))
    let (w, c) := (ringPtr s d r 0, ringPtr s d r 2)
    if ringN s d r ≤ w - c then .error (.wait (waitRing s hb) (.sts h hb) (some (limOf lim)))
    else
      let s ← ringReach s hb (ringWords s d r (w % ringN s d r))
      let s ← slotPerm s { wr := true } (rgnVa s d r (w % ringN s d r * ringZ s d r))
      let s := completeSlot (bindSide s d r 5) d r 0 true (s.rgnx d r).ringPoison
      .ok (s.setRgnx d r { s.rgnx d r with ended := true }, .fall)) s

/-- The stitch remembers a ring it reads (R220, R247). -/
def noteRing (s : State) (d r : Nat) : State :=
  match s.kore.stitch with
  | some t => if t.rings.contains (d, r) then s else s.setKore { s.kore with stitch := some { t with rings := (d, r) :: t.rings } }
  | none => s

/-- A predicate pair after `lds` (R286). -/
def allPred (b : Bool) : Pred := if b then ⟨BitVec.allOnes 64, true⟩ else {}

/-- `lds` (R286). -/
def execLds (u : Hdr) (pd : BitVec 3) (d : Row) (h : BitVec 4) (lim : BitVec 12) (s : State) :
    Host.Outcome State Fault Refusal :=
  let i := Instr.lds u pd d h lim
  uniform i (portCheck .m i) (fun s => do
    let hb := s.me.hget h
    handleCheck s i hb (some .stream) 0
    pureNever s 6
    takeDests s [] [d]
    let s := reserveDest s d
    let dd := homeOf (hBase hb)
    let r := hRegion hb
    uniformHome s hb (ringOwn s dd r 6 || tookRing s hb) 1 (rgnVa s dd r 0)
    let k := ringPtr s dd r 1 % ringN s dd r
    let s ← ringReach s hb (ringWords s dd r k)
    let (w, rr, rrow) := (ringPtr s dd r 0, ringPtr s dd r 1, ringPtr s dd r 4)
    let k := rr % ringN s dd r
    sideCheck s dd r 6 k
    if w ≤ rr then .error (.wait (waitRing s hb) (.lds h hb) (some (limOf lim)))
    else
      let eos := bit (ringHeader s dd r k 0) 0
      let p := slotPoison s dd r k
      let va := rgnVa s dd r (k * ringZ s dd r + 256 * rrow)
      let (s, content) ← if eos then (slotPerm s { rd := true } va).map (fun s => (s, (0 : RowBits)))
        else if s.me.absent.contains (.stream, pageAt s .stream va) then raise s cABSENT (va.setWidth 64)
        else if pendingPage s .stream (pageAt s .stream va) then .error (.wait (holdTaken s hb .stream [va]) .held none)
        else match translate s .stream va { rd := true } with
          | (_, .nowhere q) => .error (.stop (.noStorage q))
          | (s, .perm) => raise s cPERM (va.setWidth 64)
          | (s, .ok q) => .ok (s, (s.rowAt q).bits)
          | (s, _) => .error (.wait (holdTaken s hb .stream [va]) .held none)
      let s := noteRing (bindSide s dd r 6) dd r
      let s := if eos ∨ (rrow + 1) * 256 = ringZ s dd r then setRingPtr (setRingPtr s dd r 1 (rr + 1)) dd r 4 0
        else setRingPtr s dd r 4 (rrow + 1)
      let s := writeRows s [(d, ⟨content, p⟩)]
      let s := s.setMe ((s.me.pset pd (allPred eos)).pset (pd + 1) (allPred (!eos)))
      .ok (setPs s h p, .fall)) s

/-- R287: an observation of a pointer word. -/
def sptrBody (i : Instr) (w : Nat) (d : BitVec 5) (h : BitVec 4) (s : State) : Body := do
  let hb := s.me.hget h
  handleCheck s i hb (some .stream) 0
  pureNever s 6
  let dd := homeOf (hBase hb)
  let r := hRegion hb
  uniformHome s hb (ringOpen s dd r || tookRing s hb) 1 (rgnVa s dd r 0)
  let s ← ringReach s hb [ringPtrVa s dd r w]
  .ok (s.sset d (BitVec.ofNat 64 (ringPtr s dd r w)), .fall)

/-- `sptr.w` (R287). -/
def execSptrW (u : Hdr) (d : BitVec 5) (h : BitVec 4) (s : State) : Host.Outcome State Fault Refusal :=
  uniform (.sptrW u d h) noCheck (sptrBody (.sptrW u d h) 0 d h) s

/-- `sptr.r` (R287). -/
def execSptrR (u : Hdr) (d : BitVec 5) (h : BitVec 4) (s : State) : Host.Outcome State Fault Refusal :=
  uniform (.sptrR u d h) noCheck (sptrBody (.sptrR u d h) 1 d h) s

/-- `sptr.c` (R287). -/
def execSptrC (u : Hdr) (d : BitVec 5) (h : BitVec 4) (s : State) : Host.Outcome State Fault Refusal :=
  uniform (.sptrC u d h) noCheck (sptrBody (.sptrC u d h) 2 d h) s

/-- Whether the home can reach the pointer words of every ring that a stitch read: retirement and discarding wait for them (R247; log
entry 30). -/
def ringsReach (s : State) (t : Stitch) : Bool :=
  t.rings.all (fun e => (upto 7).all (fun w => (placeOf s .stream (ringPtrVa s e.1 e.2 w)).isSome))

/-- R247: commit or roll back the rings a stitch read, where it is the bound consumer. -/
def settleRings (s : State) (t : Stitch) (commit : Bool) : State :=
  t.rings.foldl (fun s (d, r) =>
    let b := ringPtr s d r 6
    let mine := bits b 0 32 == t.lin.toNat && bits b 34 12 == t.id.record % 2 ^ 12 && bits b 46 5 == t.id.die % 32 && bit b 63
    if !mine then s
    else if commit then setRingPtr s d r 2 (ringPtr s d r 1)
    else setRingPtr (setRingPtr s d r 1 (ringPtr s d r 2)) d r 4 0) s

end Sys2Proof.Machine
end

