-- ==== Sys2Proof/Machine/Atomic.lean ====
section
/-! DEFINITION. Loose atomics (R249, R254, R270, R288, R289). Order among agents beyond one step is out of the model
(log entry 5). -/

namespace Sys2Proof.Machine
open Sys2Proof

/-- R288: the new memory value of w bits. -/
def amoNew (op w : Nat) (uns : Bool) (old x y : Nat) : Nat :=
  let less : Bool := if uns then decide (old < x) else decide (sext w old < sext w x)
  match op with
  | 0 => x
  | 1 => if old = x then y else old
  | 2 => (old + x) % 2 ^ w
  | 3 => if less then old else x
  | 4 => if less then x else old
  | 5 => Nat.land old x
  | _ => Nat.lor old x

/-- Width in bits. -/
def amoWidth (f : AmoF) : Nat := if f.w64 then 64 else 32

/-- The old value as it enters a scalar register (R288). -/
def amoResult (f : AmoF) (old : Nat) : Word :=
  if f.w64 || f.uns then BitVec.ofNat 64 old else BitVec.ofInt 64 (sext 32 old)

/-- Perform an atomic at a place: the old value and the new state. -/
def amoAt (s : State) (k op : Nat) (f : AmoF) (x y : Word) : State × Nat :=
  let w := amoWidth f
  let old := s.num k (w / 8)
  let t := s.setNum k (w / 8) (amoNew op w f.uns old (x.toNat % 2 ^ w) (y.toNat % 2 ^ w))
  (freeRegions s t ((upto (w / 8)).map (k + ·)), old)

/-- The body of an atomic (R288). -/
def amoBody (i : Instr) (op : Nat) (f : AmoF) (d : BitVec 5) (h : BitVec 4) (a : BitVec 5) (s : State) : Body :=
  let hb := s.me.hget h
  let w := amoWidth f
  let va := ((tileOf hb w).addr (s.sget a).toNat).1
  match s.me.amoReply with
  | some (.pending _) => .error (.wait s .amo none)
  | some (.old v) => .ok (s.sset d (amoResult f v.toNat), .fall)
  | some (.failed c) => raise s c (va.setWidth 64)
  | none => do
    handleCheck s i hb (some .loose) 0
    if !amoFits hb f then ill s i
    else
      pureNever s 3
      alignCheck s hb w 0 0
      if (tileOf hb w).count ≤ (s.sget a).toNat then raise s cPERM ((hBase hb).setWidth 64)
      else if va.toNat % (w / 8) ≠ 0 then raise s cALIGN (va.setWidth 64)
      else
        uniformHome s hb (tookEarlier s hb [va]) (w / 8) va
        let (x, y) := (s.sget d, if op = 1 then s.sget (d + 1) else 0)
        match translate s .loose va { rd := true, wr := true } with
        | (_, .nowhere k) => .error (.stop (.noStorage k))
        | (s, p) =>
          let n := homeOf va
          let logged := p == .absent || pendingPage s .loose (pageAt s .loose va)
          if p == .perm && !logged then raise s cPERM (va.setWidth 64) else
          let s := match s.kore.stitch with
            | some t => if t.restartable then s.setKore { s.kore with stitch := some { t with restartable := false } } else s
            | none => s
          if logged then
            match skeinRoom s n s.myTenant s.myCore 1 with
            | .limit => .error (.wait (freezeCore (holdTaken s hb .loose [va]) n s.myCore 1) .held none)
            | .full => .error (.wait (holdTaken s hb .loose [va]) .held none)
            | .yes =>
              let s := skeinAdd s n { space := .loose, va := va, id := s.myLaunch, tenant := s.myTenant, handle := hb
                                      op := .amo s.cur s.cycle op f x y }
              .error (.wait (s.setMe { s.me with amoReply := some (.pending s.cycle) }) .amo none)
          else match p with
            | .ok k =>
              let (s, old) := amoAt s k op f x y
              .ok (s.sset d (amoResult f old), .fall)
            | _ => .error (.wait s .held none)

/-- `amo.swap` (R288). -/
def execAmoSwap (u : Hdr) (f : AmoF) (d : BitVec 5) (h : BitVec 4) (a : BitVec 5) (s : State) :
    Host.Outcome State Fault Refusal :=
  let i := Instr.amoSwap u f d h a
  uniform i (portCheck .w i) (amoBody i 0 f d h a) s

/-- `amo.cas` (R288). -/
def execAmoCas (u : Hdr) (f : AmoF) (d : BitVec 5) (h : BitVec 4) (a : BitVec 5) (s : State) :
    Host.Outcome State Fault Refusal :=
  let i := Instr.amoCas u f d h a
  uniform i (portCheck .w i) (amoBody i 1 f d h a) s

/-- `amo.add` (R288). -/
def execAmoAdd (u : Hdr) (f : AmoF) (d : BitVec 5) (h : BitVec 4) (a : BitVec 5) (s : State) :
    Host.Outcome State Fault Refusal :=
  let i := Instr.amoAdd u f d h a
  uniform i (portCheck .w i) (amoBody i 2 f d h a) s

/-- `amo.min` (R288). -/
def execAmoMin (u : Hdr) (f : AmoF) (d : BitVec 5) (h : BitVec 4) (a : BitVec 5) (s : State) :
    Host.Outcome State Fault Refusal :=
  let i := Instr.amoMin u f d h a
  uniform i (portCheck .w i) (amoBody i 3 f d h a) s

/-- `amo.max` (R288). -/
def execAmoMax (u : Hdr) (f : AmoF) (d : BitVec 5) (h : BitVec 4) (a : BitVec 5) (s : State) :
    Host.Outcome State Fault Refusal :=
  let i := Instr.amoMax u f d h a
  uniform i (portCheck .w i) (amoBody i 4 f d h a) s

/-- `amo.and` (R288). -/
def execAmoAnd (u : Hdr) (f : AmoF) (d : BitVec 5) (h : BitVec 4) (a : BitVec 5) (s : State) :
    Host.Outcome State Fault Refusal :=
  let i := Instr.amoAnd u f d h a
  uniform i (portCheck .w i) (amoBody i 5 f d h a) s

/-- `amo.or` (R288). -/
def execAmoOr (u : Hdr) (f : AmoF) (d : BitVec 5) (h : BitVec 4) (a : BitVec 5) (s : State) :
    Host.Outcome State Fault Refusal :=
  let i := Instr.amoOr u f d h a
  uniform i (portCheck .w i) (amoBody i 6 f d h a) s

end Sys2Proof.Machine
end

