-- ==== Sys2Proof/Machine/Band.lean ====
section
/-! DEFINITION. Band rows, token queues, copy-channel commands and completion queues, as strands use them (R172-R180,
R189-R200). -/

namespace Sys2Proof.Machine
open Sys2Proof

/-- The band rows b to b + n - 1 become empty and clean (R191). -/
def freeRows (k : Core) (b : Nat) : Nat → Core
  | 0 => k
  | n + 1 =>
    let k := freeRows k b n
    let j := b + n
    let r := tget {} k.band j
    { k with
      band := tset {} k.band j { r with poison := false }
      full := k.full &&& ~~~(1#512 <<< j) }

/-- `bfree` (R191). -/
def execBfree (u : Hdr) (b : BitVec 9) (n : BitVec 12) (s : State) : Host.Outcome State Fault Refusal :=
  uniform (.bfree u b n) noCheck (fun s => .ok (s.setKore (freeRows s.kore b.toNat n.toNat), .fall)) s

/-- A test of a row that branches (R192); the checks of the target come before PURITY (R74). -/
def testBranch (x timing : Bool) (disp : BitVec 22) (s : State) : Body := do
  let t := branchTarget s disp.toInt
  let s ← if x then checkTarget s t else .ok s
  if timing then pureNever s 4 else .ok ()
  .ok (s, if x then .jump t else .fall)

/-- `bst.full` (R192). -/
def execBstFull (u : Hdr) (b : BitVec 9) (disp : BitVec 22) (s : State) : Host.Outcome State Fault Refusal :=
  uniform (.bstFull u b disp) noCheck (fun s => testBranch (s.kore.isFull b.toNat) true disp s) s

/-- `bst.empty` (R192). -/
def execBstEmpty (u : Hdr) (b : BitVec 9) (disp : BitVec 22) (s : State) : Host.Outcome State Fault Refusal :=
  uniform (.bstEmpty u b disp) noCheck (fun s => testBranch (!s.kore.isFull b.toNat) true disp s) s

/-- `bst.poison` (R192). -/
def execBstPoison (u : Hdr) (r : Row) (disp : BitVec 22) (s : State) : Host.Outcome State Fault Refusal :=
  uniform (.bstPoison u r disp) noCheck (fun s => testBranch (s.rowGet r).poison false disp s) s

/-- A token queue of a core. -/
def Core.tq (k : Core) (q : Nat) : TokQ := tget {} k.tok q
/-- Replace it. -/
def Core.setTq (k : Core) (q : Nat) (x : TokQ) : Core := { k with tok := tset {} k.tok q x }

/-- Give n tokens (R176). -/
def Core.give (k : Core) (q n : Nat) : Core :=
  let x := k.tq q
  k.setTq q { count := min (x.count + n) 63, ovf := x.ovf || decide (63 < x.count + n) }

/-- Take n tokens, when there are as many (R176). -/
def Core.take (k : Core) (q n : Nat) : Option Core :=
  let x := k.tq q
  if n ≤ x.count then some (k.setTq q { x with count := x.count - n }) else none

/-! Fields of a captured copy command (R190). -/

/-- Channel. -/
def Cmd.chan (c : Cmd) : Nat := bits c.parcels.toNat 52 2
/-- Queue of the wait field, if enabled. -/
def Cmd.waitQ (c : Cmd) : Option Nat := if bit c.parcels.toNat 58 then some (bits c.parcels.toNat 55 3) else none
/-- Queue of the post field, if enabled. -/
def Cmd.postQ (c : Cmd) : Option Nat := if bit c.parcels.toNat 62 then some (bits c.parcels.toNat 59 3) else none
/-- The band row of a row code (R62). -/
def bandOf (code : Nat) : Nat := (code - 0x100) % 512
/-- First band row. -/
def Cmd.band (c : Cmd) : Nat := bandOf (bits c.parcels.toNat 32 11)
/-- Opcode. -/
def Cmd.opc (c : Cmd) : Nat := bits c.parcels.toNat 20 10
/-- Whether it is `cpout`. -/
def Cmd.isOut (c : Cmd) : Bool := c.opc == 0x351

/-- The running command of a channel (engine 0) or of the engine. -/
def runningCmd (x : Engine) (e chan : Nat) : Option Cmd := x.running.find? (fun r => e != 0 || r.chan == chan)

/-- The first queued copy command of a channel, and the queue without it. -/
def takeFirst (chan : Nat) : List Cmd → Option (Cmd × List Cmd)
  | [] => none
  | c :: cs => if c.chan = chan then some (c, cs) else (takeFirst chan cs).map (fun r => (r.1, c :: r.2))

/-- The command a copy channel starts next, while it runs none (R179, R182). -/
def nextCopy (x : Engine) (chan : Nat) : Option (Cmd × List Cmd) :=
  if (runningCmd x 0 chan).isSome then none else takeFirst chan x.queue

/-- Ages in order (R173, R176): the cycle in which a unit or command issued, then the rank: strand numbers, then engines. -/
def older (a : Word) (i : Nat) (b : Word) (j : Nat) : Bool := decide (a < b) || (a == b && decide (i < j))

/-- Entries a completion queue holds (R180). -/
def compSize : Nat := 32

/-- R180: while its completion queue is full, or it holds an entry, an engine starts no command. -/
def Engine.blocked (x : Engine) : Bool := !x.heldEntries.isEmpty || decide (compSize ≤ x.comp.length)

/-- R176, R193: whether a take of a queue of core c that is older than (age, rank) waits: a strand's, or a channel's, whose start has
found no token and which its engine does not hold back (R180). No later take may skip ahead of it. -/
def olderTake (s : State) (c q : Nat) (age : Word) (rank : Nat) : Bool :=
  (upto 3).any (fun j => match (s.strand (3 * c + j)).wait with
    | some ⟨.tok q' n, since, _⟩ => q' == q && n != 0 && older since j age rank
    | _ => false) ||
  (upto 4).any (fun ch => match nextCopy ((s.core c).engine 0) ch with
    | some (x, _) => !((s.core c).engine 0).blocked && x.waitQ == some q && x.tokSince.any (fun t => older t (3 + ch) age rank)
    | none => false)

/-- `tok.take` (R193). -/
def execTokTake (u : Hdr) (q : BitVec 3) (n : BitVec 6) (lim : BitVec 12) (s : State) : Host.Outcome State Fault Refusal :=
  uniform (.tokTake u q n lim) noCheck (fun s => do
    pureNever s 4
    let first : Bool := n == 0 || !olderTake s s.myCore q.toNat (ageOf s s.cur) (numOf s.cur)
    match if first then s.kore.take q.toNat n.toNat else none with
    | some k => .ok (s.setKore k, .fall)
    | none => .error (.wait s (.tok q.toNat n.toNat) (some (limOf lim)))) s

/-- `tok.give` (R193). -/
def execTokGive (u : Hdr) (q : BitVec 3) (n : BitVec 6) (s : State) : Host.Outcome State Fault Refusal :=
  uniform (.tokGive u q n) noCheck (fun s => .ok (s.setKore (s.kore.give q.toNat n.toNat), .fall)) s

/-- Commands an engine's queue holds (R179, R210). -/
def cmdqSize : Nat := 16

/-- R179, R196: the strands of the core that wait on an engine's queue with an older command, each of which is captured before the
running strand's. -/
def olderCmds (s : State) (e : Nat) : Nat :=
  ((upto 3).filter (fun j => match (s.strand (3 * s.myCore + j)).wait with
    | some ⟨.cmdq e', since, _⟩ => e' == e && older since j (ageOf s s.cur) (numOf s.cur)
    | _ => false)).length

/-- Commands in the queue that an engine's commands of a core enter; engine 1's is the array's own (R179, R210). -/
def queueLen (s : State) (c e : Nat) : Nat :=
  if e = 1 then (s.cluster (clusterOf c)).queue.length else ((s.core c).engine e).queue.length

/-- R179, R196: a place in an engine's queue. With none left by what it holds and the older commands, the unit waits under WLIM. With
one, it only lets the older ones go first. -/
def queuePlace (s : State) (e : Nat) : Except Halt Unit :=
  if cmdqSize ≤ queueLen s s.myCore e + olderCmds s e then .error (.wait s (.cmdq e) (some s.me.wlim))
  else if olderCmds s e ≠ 0 then .error (.wait s (.cmdq e) none)
  else .ok ()

/-- R179: capture a command into the queue of an engine of the strand's core. -/
def captureCmd (s : State) (e : Nat) (c : Cmd) : Except Halt State := do
  queuePlace s e
  let x := s.kore.engine e
  .ok (s.setKore (s.kore.setEngine e { x with nextSeq := x.nextSeq + 1, queue := x.queue ++ [{ c with seq := x.nextSeq, issued := s.cycle }] }))

/-- The capture of a copy command (R196). -/
def copyBody (i : Instr) (out : Bool) (h : BitVec 4) (a : BitVec 5) (s : State) : Body := do
  let hb := s.me.hget h
  if !hLegal hb then ill s i
  else
    if out then pureWrite s h else pureRead s hb
    let s ← captureCmd s 0 { parcels := parcelsWord i, scalar := s.sget a, handle := hb, strand := s.cur }
    .ok (s, .fall)

/-- `cpin` (R196). -/
def execCpin (u : Hdr) (ch : BitVec 2) (b : BitVec 9) (h : BitVec 4) (a : BitVec 5) (wait post : Option (BitVec 3))
    (s : State) : Host.Outcome State Fault Refusal :=
  let i := Instr.cpin u ch b h a wait post
  uniform i (portCheck .m i) (copyBody i false h a) s

/-- `cpout` (R196). -/
def execCpout (u : Hdr) (ch : BitVec 2) (b : BitVec 9) (h : BitVec 4) (a : BitVec 5) (wait post : Option (BitVec 3))
    (s : State) : Host.Outcome State Fault Refusal :=
  let i := Instr.cpout u ch b h a wait post
  uniform i (portCheck .w i) (copyBody i true h a) s

/-- WPTR of a channel. -/
def Core.wptrOf (k : Core) (ch : Nat) : Word := tget 0 k.wptr ch

/-- `cpwait` (R197). -/
def execCpwait (u : Hdr) (ch : BitVec 2) (a : BitVec 5) (lim : BitVec 12) (s : State) : Host.Outcome State Fault Refusal :=
  uniform (.cpwait u ch a lim) noCheck (fun s =>
    if (s.kore.wptrOf ch.toNat - s.sget a).toNat < 2 ^ 63 then .ok (s, .fall)
    else .error (.wait s (.cpwait ch.toNat (s.sget a)) (some (limOf lim)))) s

/-- `rdwptr` (R198). -/
def execRdwptr (u : Hdr) (d : BitVec 5) (ch : BitVec 2) (s : State) : Host.Outcome State Fault Refusal :=
  uniform (.rdwptr u d ch) noCheck (fun s => do
    pureNever s 4
    .ok (s.sset d (s.kore.wptrOf ch.toNat), .fall)) s

/-- R199: the pops of a completion queue that wait and are older than the running strand's: each takes an entry before it. -/
def olderPops (s : State) (e : Nat) : Nat :=
  ((upto 3).filter (fun j => match (s.strand (3 * s.myCore + j)).wait with
    | some ⟨.cqpop e', since, _⟩ => e' == e && older since j (ageOf s s.cur) (numOf s.cur)
    | _ => false)).length

/-- `cqpop` (R199). -/
def execCqpop (u : Hdr) (d : BitVec 5) (e : BitVec 2) (lim : BitVec 12) (s : State) : Host.Outcome State Fault Refusal :=
  uniform (.cqpop u d e lim) noCheck (fun s =>
    let x := s.kore.engine e.toNat
    let n := olderPops s e.toNat
    match x.comp[n]? with
    | none => .error (.wait s (.cqpop e.toNat) (some (limOf lim)))
    | some w => .ok ((s.setKore (s.kore.setEngine e.toNat { x with comp := x.comp.eraseIdx n })).sset d w, .fall)) s

end Sys2Proof.Machine
end

