-- ==== Sys2Proof/Machine/Copy.lean ====
section
/-! DEFINITION. The engines' side of commands: start, rows of copy commands, completion entries (R179-R184, R195,
R199). -/

namespace Sys2Proof.Machine
open Sys2Proof

/-- What an event answers: the machine after it, or a fault. -/
abbrev Ev := Except Fault State

/-- An event takes one cycle. -/
def event (r : Ev) : Host.Outcome State Fault Refusal :=
  match r with
  | .ok s => .next s.tick
  | .error f => .fault f

/-- An act of firmware, which runs in Running only (R8, R363). -/
def fwEvent (s : State) (r : Ev) : Host.Outcome State Fault Refusal := event (if s.boot.state = .running then r else .ok s)

/-- An access of the host that is neither to configuration space nor to the mailbox: in Running and on a link at 64 GT/s (R8,
R361). -/
def hostEvent (s : State) (r : Ev) : Host.Outcome State Fault Refusal := fwEvent s (if memOpen s then r else .ok s)

/-- What an engine's access answers; a wait answers the request that the home has taken and holds (R259, R261). -/
inductive Eng (α : Type) where
  | ok (s : State) (a : α)
  | wait (s : State) (taken : Option HeldReq)
  | fail (s : State) (cause : BitVec 8)
  | stop (k : Nat)

/-- Act for strand n. -/
def asStrand (s : State) (n : Nat) : State := { s with cur := n }

/-- Act for an engine command of strand n, whose request the home may have taken earlier. -/
def asEngine (s : State) (n : Nat) (prior : Option HeldReq) : State :=
  { s.setStrand n { s.strand n with taken := prior } with cur := n }

/-- Back from an engine's access: the running strand, and what strand n's own unit waits with, are as they were. -/
def backFrom (s : State) (n : Nat) (t : State) : State :=
  { t.setStrand n { t.strand n with taken := (s.strand n).taken } with cur := s.cur }

/-- The home's checks and the translation of an engine's access; `prior` is a request that
the home took earlier. -/
def engineOpen (s : State) (n : Nat) (prior : Option HeldReq) (h : HBits) (sp : Space) (need : Need) (w : Nat) (els : List Elem) :
    Eng Reach :=
  match openAccess (asEngine s n prior) h sp need false (elemBytes w) els with
  | .ok (t, r) => .ok (backFrom s n t) r
  | .error (.trap t i) => .fail (backFrom s n t) i.cause
  | .error (.wait t _ _) => .wait (backFrom s n t) prior
  | .error (.stop (.noStorage k)) => .stop k

/-- Read elements: a page that is not present, or has entries pending, waits; a forbidden one fails (R184). Fixed elements come
from the first valid copy (R245). -/
def engineLoad (s : State) (n : Nat) (prior : Option HeldReq) (h : HBits) (sp : Space) (w : Nat) (els : List Elem) :
    Eng (List Nat × Bool) :=
  let near : List (Elem × Nat × Bool) := if sp == .fixed then fromReplicas (asStrand s n) h w els else []
  let far := els.filter (fun e => near.all (fun c => c.1 != e))
  match engineOpen s n prior h sp { rd := true } w far with
  | .ok s r =>
    let at' (e : Elem) : Xlat := r.place s e.va
    if far.any (fun e => at' e == .perm) then .fail s cPERM
    else if far.any (fun e => at' e == .absent || pendingPage s sp (pageAt s sp e.va)) then
      .wait s (some (heldReq h sp (els.map (·.va))))
    else
      let got := els.map (fun e => match near.find? (fun c => c.1 == e), at' e with
        | some c, _ => c.2
        | none, .ok k => (readElem s k w e.hi, s.blockPoison k)
        | none, _ => (0, false))
      let s := match far with
        | e :: _ => if sp == .fixed then asStrand (makeReplica (asStrand s n) h e.va) s.cur else s
        | [] => s
      .ok s (got.map (·.1), got.any (·.2))
  | .wait s t => .wait s t
  | .fail s c => .fail s c
  | .stop k => .stop k

/-- Write elements; nothing is written when any page is forbidden (R184). The answer says whether a block written is or stays
poisoned (R31). -/
def engineStore (s : State) (n : Nat) (prior : Option HeldReq) (h : HBits) (w : Nat) (tracked : Bool) (poison : Elem → Bool)
    (els : List (Elem × Nat)) : Eng Bool :=
  match engineOpen s n prior h .loose { wr := true } w (els.map (·.1)) with
  | .ok s r =>
    if els.any (fun e => r.place s e.1.va == .perm && !pendingPage s .loose (pageAt s .loose e.1.va)) then .fail s cPERM
    else
      match storeElems (asEngine s n prior) h .loose false w false tracked poison els with
      | .ok (t, _) => .ok (backFrom s n t) (els.any (fun e => poison e.1 || (match r.place s e.1.va with
          | .ok k => t.blockPoison k
          | _ => false)))
      | .error (.trap t i) => .fail (backFrom s n t) i.cause
      | .error (.wait t _ _) => .wait (backFrom s n t) t.me.taken
      | .error (.stop (.noStorage k)) => .stop k
  | .wait s t => .wait s t
  | .fail s c => .fail s c
  | .stop k => .stop k

/-- Elements per band row at the width of a handle's format. -/
def perRow (h : HBits) : Nat := 2048 / max 4 (hWidth h)

/-- Rows of a tile (R195). -/
def tileRows (h : HBits) : Nat := (hCount h + perRow h - 1) / perRow h

/-- The elements of tile row k (R195). -/
def tileRowElems (h : HBits) (k : Nat) : List Elem :=
  (upto (perRow h)).filterMap (fun i =>
    let e := k * perRow h + i
    if e < hCount h then
      let (va, hi) := elemAddr h (hWidth h) e
      some ⟨i, 0, va, hi⟩
    else none)

/-- A failure of every valid row that the handle alone decides (R195, R196): of several, ROLE before PERM before ALIGN (log entry 77). -/
def copyCause (c : Cmd) : Option (BitVec 8) :=
  let h := c.handle
  let space : Bool := hSpace h == .loose || (!c.isOut && hSpace h == .fixed)
  let odd : Bool := hWidth h == 4 &&
    (hExt h 0 % 2 == 1 || (upto 3).any (fun d => decide (d + 1 < hRank h) && hStride h (d + 1) % 2 == 1))
  if !space then some cROLE
  else if reservedDie (hBase h) then some cPERM
  else if odd || (hBase h).toNat % elemBytes (hWidth h) != 0 then some cALIGN
  else none

/-- The valid rows of a copy command: none when its band rows would pass b511 (R183, R196). -/
def validRows (c : Cmd) : Nat :=
  let v := min c.scalar.toNat (tileRows c.handle)
  if 512 < c.band + v then 0 else v

/-- Whether the band rows of a copy command would pass b511. -/
def rangeFails (c : Cmd) : Bool := decide (512 < c.band + min c.scalar.toNat (tileRows c.handle))

/-- An engine writes a whole band row and sets it full (R172). -/
def Core.bandPut (k : Core) (b : Nat) (r : PRow) : Core :=
  { k with band := tset {} k.band b r, full := k.full ||| (1#512 <<< b) }

/-- Whether an engine may write a band row of a core for a command issued at `age`: empty, reserved by no strand, and wanted
by no older writer (R172, R173, R174). -/
def bandFree (s : State) (c b : Nat) (age : Word) : Bool :=
  !(s.core c).isFull b && (reservedBy (s.core c) b).isNone && !olderEngine s c b age false && !olderStrand s c b age 0

/-- WPTR advances by a row (R182). -/
def Core.advance (k : Core) (ch : Nat) : Core := { k with wptr := tset 0 k.wptr ch (k.wptrOf ch + 256) }

/-- Replace the running command of a channel. -/
def putRunning (s : State) (core e : Nat) (c : Cmd) (chan : Nat) : State :=
  let k := s.core core
  let x := k.engine e
  s.setCore core (k.setEngine e { x with running := x.running.map (fun r => if e = 0 ∧ r.chan ≠ chan then r else c) })

/-- A row of a copy command has been delivered. -/
def rowDelivered (s : State) (core : Nat) (c : Cmd) : State :=
  let ch := c.chan
  let c := { c with rows := c.rows + 1, done := decide (validRows c ≤ c.rows + 1), blocked := [], taken := none }
  let s := putRunning s core 0 c ch
  s.setCore core ((s.core core).advance ch)

/-- A failure of the row that is due (R184): the rest of the rows fail with it. A row of a copy-out that fails does not wait for its
band row to be full, which it neither reads nor empties (log entry 32). -/
def rowFailed (s : State) (core : Nat) (c : Cmd) (cause : BitVec 8) : State :=
  let c := { c with status := if c.status = 0 then cause else c.status, poison := true }
  if c.isOut then rowDelivered s core c
  else
    let b := c.band + c.rows
    if bandFree s core b c.issued then rowDelivered (s.setCore core ((s.core core).bandPut b ⟨0, true⟩)) core c
    else putRunning s core 0 { c with blocked := [b], taken := none } c.chan

/-- A channel delivers its next row, if it can (R182, R184, R196). -/
def deliverRow (s : State) (core chan : Nat) : Ev :=
  let k := s.core core
  match runningCmd (k.engine 0) 0 chan with
  | none => .ok s
  | some c =>
    if s.frozen core ∨ c.done then .ok s
    else
      let cause := if c.status = 0 then copyCause c else some c.status
      match cause with
      | some x => .ok (rowFailed s core c x)
      | none =>
        let h := c.handle
        let w := hWidth h
        let els := tileRowElems h c.rows
        let b := c.band + c.rows
        if c.isOut then
          if !k.isFull b then .ok s
          else
            let row := tget {} k.band b
            let codes := rowElems w row.bits
            match engineStore s c.strand c.taken h w true (fun _ => row.poison) (els.map (fun e => (e, nth codes e.i))) with
            | .ok s p => .ok (rowDelivered s core { c with poison := c.poison || row.poison || p })
            | .wait s t => .ok (putRunning s core 0 { c with taken := t } c.chan)
            | .fail s x => .ok (rowFailed s core c x)
            | .stop q => .error (.noStorage q)
        else if !bandFree s core b c.issued then .ok (putRunning s core 0 { c with blocked := [b] } c.chan)
        else
          match engineLoad s c.strand c.taken h (hSpace h) w els with
          | .ok s (vs, p) =>
            let s := s.setCore core ((s.core core).bandPut b ⟨rowOfElems w vs, p⟩)
            .ok (rowDelivered s core { c with poison := c.poison || p })
          | .wait s t => .ok (putRunning s core 0 { c with blocked := [], taken := t } c.chan)
          | .fail s x => .ok (rowFailed s core c x)
          | .stop q => .error (.noStorage q)

/-- Post a token. -/
def postToken (k : Core) (q : Option (BitVec 3)) : Core :=
  match q with
  | some q => k.give q.toNat 1
  | none => k

/-- Place a completion entry and then its token, or hold both, behind the entries held already, while the queue is full (R180). -/
def placeEntry (k : Core) (e : Nat) (w : Word) (q : Option (BitVec 3)) : Core :=
  let x := k.engine e
  if x.heldEntries = [] ∧ x.comp.length < compSize then postToken (k.setEngine e { x with comp := x.comp ++ [w] }) q
  else k.setEngine e { x with heldEntries := x.heldEntries ++ [(w, q)] }

/-- R180: a finished command of engine 0 or 2 completes. -/
def completeCommand (s : State) (core e chan : Nat) : State :=
  let k := s.core core
  let x := k.engine e
  match runningCmd x e chan with
  | none => s
  | some c =>
    if !c.done ∨ x.heldEntries ≠ [] ∨ s.frozen core then s
    else
      let ch := if e = 0 then c.chan else 0
      let count := if e = 0 then 256 * c.rows else c.count
      let k := k.setEngine e { x with running := x.running.filter (fun r => e == 0 && r.chan != chan) }
      let q := if e = 0 then c.postQ.map (BitVec.ofNat 3) else none
      s.setCore core (placeEntry k e (entryWord c.seq c.status c.poison e ch count) q)

/-- R199: the held entry enters the queue once there is a place; a frozen core's engines stand (R368). -/
def enterHeld (s : State) (core e : Nat) : State :=
  let k := s.core core
  let x := k.engine e
  match x.heldEntries with
  | [] => s
  | (w, q) :: rest =>
    if x.comp.length < compSize ∧ !s.frozen core then
      s.setCore core (postToken (k.setEngine e { x with comp := x.comp ++ [w], heldEntries := rest }) q)
    else s

/-- The first queued command of a channel waits for its token since a cycle. -/
def markTake (chan : Nat) (since : Word) : List Cmd → List Cmd
  | [] => []
  | c :: cs => if c.chan = chan then { c with tokSince := some since } :: cs else c :: markTake chan since cs

/-- R179, R182: a channel starts its next command; its wait token is taken first, and since the start that found none the command's
take waits (R193, R196). A command that moves nothing is done at once (R183). -/
def startCopy (s : State) (core chan : Nat) : State :=
  let k := s.core core
  let x := k.engine 0
  if x.blocked ∨ s.frozen core then s
  else
    match nextCopy x chan with
    | none => s
    | some (c, rest) =>
      let since := c.tokSince.getD s.cycle
      let taken : Option Core := match c.waitQ with
        | some q =>
          if c.tokenTaken then some k
          else if olderTake s core q since (3 + chan) then none
          else k.take q 1
        | none => some k
      match taken with
      | none => s.setCore core (k.setEngine 0 { x with queue := markTake chan since x.queue })
      | some k =>
        let bad := rangeFails c
        let c := { c with
          started := true
          tokenTaken := c.waitQ.isSome
          tokSince := none
          status := if bad then 0x01 else c.status
          poison := c.poison || bad
          done := decide (validRows c ≤ c.rows) }
        s.setCore core (k.setEngine 0 { k.engine 0 with queue := rest, running := x.running ++ [c] })

/-- COPY_ROW_DELIVERY (R182). -/
def execCopyRowDelivery (core chan : Nat) (s : State) : Host.Outcome State Fault Refusal := event (deliverRow s core chan)

/-- ENGINE_COMPLETION (R180). -/
def execEngineCompletion (core engine chan : Nat) (s : State) : Host.Outcome State Fault Refusal :=
  event (.ok (completeCommand s core engine chan))

/-- HELD_ENTRY_ENTER (R199). -/
def execHeldEntryEnter (core engine : Nat) (s : State) : Host.Outcome State Fault Refusal :=
  event (.ok (enterHeld s core engine))

end Sys2Proof.Machine
end

