-- ==== Sys2Proof/Machine/Fetch.lean ====
section
/-! DEFINITION. The next unit of a strand: fetching its parcels and decoding them (R57, R70, R73, R74). -/

namespace Sys2Proof.Machine
open Sys2Proof

/-- Whether the parcels read so far, the prefixes `pfx` among them, decide what the unit is (R57, R70, R73). -/
def unitDecided (pfx : List Pfx) : List Nat → Bool
  | [] => false
  | p :: rest =>
    if bits p 0 2 = 3 then
      match Pfx.decode p with
      | none => true
      | some x => (sameKind x.kind pfx 0).isSome || unitDecided (pfx ++ [x]) rest
    else bits p 0 2 == 0 || !rest.isEmpty

/-- Read parcels from an address on, until they decide the unit or the code region ends (R57, R73; log entry 16). -/
def fetchFrom (s : State) (a : Nat) (got : List Nat) : Nat → State × Except Xlat (List Nat)
  | 0 => (s, .ok got)
  | n + 1 =>
    if unitDecided [] got || !inCode s.me a then (s, .ok got)
    else
      match fetchParcel s a with
      | (s, .ok p) => fetchFrom s (a + 4) (got ++ [p]) n
      | (s, .error e) => (s, .error e)

/-- The parcels of the unit at the running strand's pc. -/
def fetchUnit (s : State) : State × Except Xlat (List Nat) := fetchFrom s s.me.pc.toNat [] maxUnit

/-- The parcels of a unit after its prefixes. -/
def afterPrefixes : List Nat → List Nat
  | [] => []
  | p :: ps => if bits p 0 2 = 3 then afterPrefixes ps else p :: ps

/-- Whether it is a unit's instruction that a prefix fails at: its ORPHAN with T = 1, or PFXKIND (R70). -/
def failsAtCore : Reject → Bool
  | .ill _ => false
  | .orphan _ v => v.toNat / 2 ^ 62 == 0
  | .pfxkind _ => true

/-- Whether an instruction raises ILL at issue in a strand: an `eret` with INH = 0 (R115), or what its operands hold (R81, R256). -/
def raisesIll (i : Instr) (x : Strand) : Bool :=
  match i with
  | .eret _ => !x.inh
  | i => issuesIll i x

/-- The instruction that a run of parcels stands for in a strand: one the strand rejects is an ILLEGAL_ENCODING (R70, R73). An ILL of
the instruction comes before the ORPHAN and the PFXKIND that a prefix meets at the same parcel (R74). -/
def unitOf (x : Strand) (ps : List Nat) : Instr :=
  match decodeUnit ps with
  | .ok i => i
  | .error r =>
    match decodeUnit (afterPrefixes ps) with
    | .ok i => .illegalEncoding (if failsAtCore r && raisesIll i x then .ill (tvalOf (afterPrefixes ps)) else r)
    | .error _ => .illegalEncoding r

/-- Whether a strand takes turns: firmware runs, the strand issues and its core's clock is not stopped (R314, R363, R368). -/
def strandReady (s : State) (n : Nat) : Bool :=
  s.boot.state == .running && (s.strand n).phase == .running && !s.frozen (coreOf n)

end Sys2Proof.Machine
end

