-- ==== Sys2Proof/Machine/Bank.lean ====
section
/-! DEFINITION. The banks of a core: which rows a unit reads through the crossbar, and who loses a bank (R170, R171). -/

namespace Sys2Proof.Machine
open Sys2Proof

/-- The rows that the vector half of a pair word reads (R48, R95). -/
def pairReads (v : PairV) : List Ref := match pairOp v with
  | some p => runRefs 1 (.v (p.d.setWidth 8)) (if p.two then [pairSrc p.a, pairSrc p.b] else [pairSrc p.a]) p.readsD
  | none => []

/-- The source rows of an instruction that is a reader of R171, in the order it reads them: none of any other. -/
def crossbarReads (i : Instr) (s : State) : List Ref :=
  let run (g : BitVec 2) (d : Row) (srcs : List VSrc) : List Ref := runRefs (groupRows g) d srcs false
  match i with
  | .vadd _ _ g d a b | .vsub _ _ g d a b | .vmul _ _ g d a b | .vmulh _ _ g d a b | .vmin _ _ g d a b | .vmax _ _ g d a b
  | .vdiv _ _ g d a b | .vshl _ _ g d a b | .vshr _ _ g d a b | .vsar _ _ g d a b | .vand _ g d a b | .vor _ g d a b
  | .vxor _ g d a b => run g d [a, b]
  | .vfma _ _ g d a b => runRefs (groupRows g) d [a, b] true
  | .vabs _ _ g d a | .vneg _ _ g d a | .vrcp _ g d a | .vrsqrt _ g d a | .vsqrt _ g d a | .vexp2 _ g d a | .vlog2 _ g d a
  | .vnot _ g d a | .vmov _ g d a => run g d [a]
  | .vcmp _ _ _ _ _ _ a b | .vperm _ _ a b | .vdequant _ _ _ _ a b => srcRef a 0 ++ srcRef b 0
  | .vcvt _ dst src _ a => srcRun a (max 1 (src.width / dst.width))
  | .vquant _ f _ _ a _ => srcRun a f.rows
  | .vdot4 _ _ d a b => srcRef a 0 ++ srcRef b 0 ++ [.row d]
  | .vbcast _ _ a _ | .vrot _ _ a _ | .vredsum _ _ _ a | .vredmin _ _ _ a | .vredmax _ _ _ a | .vscan _ _ _ a
  | .vcompress _ _ a | .vexpand _ _ a => srcRef a 0
  | .vget _ _ a => (codeRef 0x308 (s.sget a)).toList
  | .vput _ src _ => [rowSrcRef src]
  | .pairSNop _ v => pairReads v
  | .pairVVaddI32 _ _ d a b => pairReads (.vaddI32 d a b)
  | .pairVVsubI32 _ _ d a b => pairReads (.vsubI32 d a b)
  | .pairVVmulI32 _ _ d a b => pairReads (.vmulI32 d a b)
  | .pairVVminI32 _ _ d a b => pairReads (.vminI32 d a b)
  | .pairVVmaxI32 _ _ d a b => pairReads (.vmaxI32 d a b)
  | .pairVVand _ _ d a b => pairReads (.vand d a b)
  | .pairVVor _ _ d a b => pairReads (.vor d a b)
  | .pairVVxor _ _ d a b => pairReads (.vxor d a b)
  | .pairVVmov _ _ d a => pairReads (.vmov d a)
  | .pairVVaddF32 _ _ d a b => pairReads (.vaddF32 d a b)
  | .pairVVsubF32 _ _ d a b => pairReads (.vsubF32 d a b)
  | .pairVVmulF32 _ _ d a b => pairReads (.vmulF32 d a b)
  | .pairVVfmaF32 _ _ d a b => pairReads (.vfmaF32 d a b)
  | .pairVVminF32 _ _ d a b => pairReads (.vminF32 d a b)
  | .pairVVmaxF32 _ _ d a b => pairReads (.vmaxF32 d a b)
  | .ldfg _ ew _ _ _ idx | .ldlg _ ew _ _ _ idx => indexRefs ew (some idx)
  | .stl _ _ _ src _ _ | .sts _ src _ _ => [rowSrcRef src]
  | .stls _ ew _ src _ idx => indexRefs ew (some idx) ++ [rowSrcRef src]
  | .accAddI32 _ src _ _ | .accAddI64 _ src _ _ | .accAddAf _ _ src _ _ | .accMinI32 _ src _ _ | .accMaxI32 _ src _ _
  | .accAnd _ src _ _ | .accOr _ src _ _ | .accXor _ src _ _ => [rowSrcRef src]
  | _ => []

/-- Whether an instruction passes what is checked before it reads a row: its port, ILL, and the checks of R276 and R283. -/
def readsPass (i : Instr) (s : State) : Bool :=
  let lanes := guardLanes s.me i.guard
  let ok (p : Port) (lanes : Word) (e : Except Halt Unit) : Bool := (portCheck p i s).isNone && !issuesIll i s.me && lanes != 0 && e.isOk
  let acc (h : BitVec 4) (fs : List Fmt) : Bool := ok .w lanes (accCheck s i fs h lanes)
  match i with
  | .ldfg _ ew _ _ h _ => ok .m lanes (loadCheck s i .fixed ew h 0 lanes)
  | .ldlg _ ew _ _ h _ => ok .m lanes (loadCheck s i .loose ew h 0 lanes)
  | .stl _ ew _ _ h a => ok .w lanes (storeCheck s i ew h (s.sget a).toNat lanes)
  | .stls _ ew _ _ h _ => ok .w lanes (storeCheck s i ew h 0 lanes)
  | .sts _ _ h _ => guardU s.me i.guard && ok .w 1 (streamCheck s i h)
  | .accAddI32 _ _ h _ | .accAnd _ _ h _ | .accOr _ _ h _ | .accXor _ _ h _ => acc h [.int32, .u32]
  | .accAddI64 _ _ h _ => acc h [.int64]
  | .accAddAf _ _ _ h _ => acc h [.af128]
  | .accMinI32 _ _ h _ | .accMaxI32 _ _ h _ => acc h [.int32]
  | _ => ok .x lanes (.ok ())

/-- The physical row of a row that the banks hold: o rows and lx lie elsewhere (R170). -/
def physicalRow (s : State) : Ref → Option Nat
  | .row (.b n) => some n.toNat
  | .row (.v n) => some (512 + s.vkey n.toNat)
  | .row (.o _) | .lx => none

/-- Whether a strand's unit stands before its reads: it has read nothing, and waits for no more than full rows (R149). -/
def beforeReads (x : Strand) : Bool :=
  x.held.isEmpty && (match x.wait with
    | none => true
    | some w => match w.kind with
      | .bandFull _ => true
      | _ => false)

/-- The physical rows that the next unit of a strand reads through the crossbar now: its band rows are full (R104, R170, R171). -/
def readsNow (s : State) (n : Nat) : List Nat :=
  let s := { s with cur := n }
  if !strandReady s n || (s.core (coreOf n)).stopReq || !beforeReads s.me then []
  else
    match fetchUnit s with
    | (s, .ok ps) =>
      let i := unitOf s.me ps
      let refs := crossbarReads i s
      let full : Bool := refs.all (fun r => match r with
        | .row (.b n) => s.kore.isFull n.toNat
        | _ => true)
      if full && readsPass i s then refs.filterMap (physicalRow s) else []
    | _ => []

/-- Whether a strand needs a bank in this cycle: more of its rows lie there than the bank has delivered to its unit (R171). -/
def needsBank (s : State) (bank n : Nat) : Bool :=
  decide ((s.strand n).got.count bank < ((readsNow s n).map (· % 16)).count bank)

/-- The oldest of some strands: equal ages go to the lower number (R171). -/
def oldestOf (s : State) : List Nat → Option Nat
  | [] => none
  | n :: ns =>
    match oldestOf s ns with
    | none => some n
    | some m => some (if ageOf s m < ageOf s n then m else n)

/-- What a bank's arbitration leaves in a strand that needs it: the winner has one more row of the bank, a loser begins its read
cycle anew (R171). -/
def afterBank (s : State) (bank winner n : Nat) : Strand :=
  let x := s.strand n
  { x with age := some (ageOf s n), got := if n = winner then bank :: x.got else [] }

/-- BANK_REPLAY (R171): several strands need one bank. The oldest wins, every other loses and is counted; nothing else depends on
it. That their read cycles meet is left to the order of the moves (log entries 3, 6). -/
def execBankReplay (core bank : Nat) (s : State) : Host.Outcome State Fault Refusal :=
  let ns := ((upto 3).map (3 * core + ·)).filter (needsBank s bank)
  let k := s.core core
  let n := (tget 0 k.bankloss bank).toNat + (ns.length - 1)
  event (.ok (match oldestOf s ns with
    | none => s
    | some w =>
      if ns.length ≤ 1 then s
      else
        let t := s.setCore core { k with bankloss := tset 0 k.bankloss bank (BitVec.ofNat 32 (min n (2 ^ 32 - 1))) }
        ns.foldl (fun t n => t.setStrand n (afterBank s bank w n)) t))

end Sys2Proof.Machine
end

