-- ==== Sys2Proof/Machine/Crypto.lean ====
section
/-! DEFINITION. The two functions that the manual takes by name for bring-up and attestation (R365, R369): SHA-384, and ECDSA over
the 384-bit random curve of RFC 5639 (log entry 10). -/

namespace Sys2Proof.Machine
open Sys2Proof

/-- The number of a big-endian byte string. -/
def beNat (bs : List Byte) : Nat := bs.foldl (fun n b => 256 * n + b.toNat) 0

/-- A number as n big-endian bytes. -/
def beBytes (n x : Nat) : List Byte := (bytesOf n x).reverse

/-! SHA-384. -/

/-- The prime numbers below n, at most 529: those that no smaller number from 2 to 22 divides. -/
def primesBelow (n : Nat) : List Nat :=
  (List.range n).filter (fun p => decide (2 ≤ p) && (List.range 23).all (fun d => decide (d < 2 ∨ p ≤ d ∨ p % d ≠ 0)))

/-- The greatest number whose k-th power is at most x, over `r` and below r + 2^n: one bit at a time. -/
def rootFloor (k x : Nat) : Nat → Nat → Nat
  | 0, r => r
  | n + 1, r => rootFloor k x n (if (r + 2 ^ n) ^ k ≤ x then r + 2 ^ n else r)

/-- The first 64 bits after the point of the k-th root of p, a root below 32. -/
def rootFraction (k p : Nat) : Nat := rootFloor k (p * 2 ^ (64 * k)) 69 0 % 2 ^ 64

/-- The constants of the rounds, one for each of the first eighty primes: a cube root's fraction. -/
def shaRounds : List Nat := (primesBelow 410).map (rootFraction 3)

/-- The eight working words of the hash. -/
structure ShaWords where
  a : Nat
  b : Nat
  c : Nat
  d : Nat
  e : Nat
  f : Nat
  g : Nat
  h : Nat
  deriving DecidableEq, Repr, Inhabited

/-- The words a hash starts with, from the square roots of the ninth prime (23) to the sixteenth. -/
def shaStart : ShaWords :=
  let w (p : Nat) : Nat := rootFraction 2 p
  ⟨w 23, w 29, w 31, w 37, w 41, w 43, w 47, w 53⟩

/-- A 64-bit word rotated right by n. -/
def rotr64 (x n : Nat) : Nat := x / 2 ^ n + x % 2 ^ n * 2 ^ (64 - n)

/-- The exclusive or of three words. -/
def xor3 (x y z : Nat) : Nat := Nat.xor x (Nat.xor y z)

/-- One round, with its constant and its message word. -/
def shaRound (v : ShaWords) (k w : Nat) : ShaWords :=
  let pick := Nat.xor (Nat.land v.e v.f) (Nat.land (2 ^ 64 - 1 - v.e) v.g)
  let most := xor3 (Nat.land v.a v.b) (Nat.land v.a v.c) (Nat.land v.b v.c)
  let t := v.h + xor3 (rotr64 v.e 14) (rotr64 v.e 18) (rotr64 v.e 41) + pick + k + w
  let u := xor3 (rotr64 v.a 28) (rotr64 v.a 34) (rotr64 v.a 39) + most
  ⟨(t + u) % 2 ^ 64, v.a, v.b, v.c, (v.d + t) % 2 ^ 64, v.e, v.f, v.g⟩

/-- The message word sixteen places on, from sixteen successive ones. -/
def shaNext (w : List Nat) : Nat :=
  let x := w.getD 1 0
  let y := w.getD 14 0
  (xor3 (rotr64 y 19) (rotr64 y 61) (y / 2 ^ 6) + w.getD 9 0 + xor3 (rotr64 x 1) (rotr64 x 8) (x / 2 ^ 7) + w.getD 0 0) % 2 ^ 64

/-- The eighty rounds over a block whose next sixteen message words are `w`. -/
def shaBlock : List Nat → ShaWords → List Nat → ShaWords
  | [], v, _ => v
  | k :: ks, v, w => shaBlock ks (shaRound v k (w.getD 0 0)) (w.drop 1 ++ [shaNext w])

/-- The words after a block of 128 bytes. -/
def shaStep (v : ShaWords) (block : List Byte) : ShaWords :=
  let r := shaBlock shaRounds v ((List.range 16).map (fun i => beNat ((block.drop (8 * i)).take 8)))
  let add (x y : Nat) : Nat := (x + y) % 2 ^ 64
  ⟨add v.a r.a, add v.b r.b, add v.c r.c, add v.d r.d, add v.e r.e, add v.f r.f, add v.g r.g, add v.h r.h⟩

/-- The padding: a 1 bit, zeros, and the length in bits in the last 16 bytes of a block. -/
def shaPad (bs : List Byte) : List Byte :=
  bs ++ [0x80] ++ List.replicate ((239 - bs.length % 128) % 128) 0 ++ beBytes 16 (8 * bs.length)

/-- SHA-384 of a byte string, its first byte highest. -/
def sha384 (bs : List Byte) : BitVec 384 :=
  let m := shaPad bs
  let v := (List.range (m.length / 128)).foldl (fun v i => shaStep v ((m.drop (128 * i)).take 128)) shaStart
  BitVec.ofNat 384 (joinElems 64 [v.f, v.e, v.d, v.c, v.b, v.a])

/-! The curve of RFC 5639, 384 bits, verifiably random: y^2 = x^3 + A x + B modulo p, with the base point G of order q. -/

/-- p. -/
def curveP : Nat := 0x8CB91E82A3386D280F5D6F7E50E641DF152F7109ED5456B412B1DA197FB71123ACD3A729901D1A71874700133107EC53
/-- A. -/
def curveA : Nat := 0x7BC382C63D8C150C3C72080ACE05AFA0C2BEA28E4FB22787139165EFBA91F90F8AA5814A503AD4EB04A8C7DD22CE2826
/-- B. -/
def curveB : Nat := 0x04A8C7DD22CE28268B39B55416F0447C2FB77DE107DCD2A62E880EA53EEB62D57CB4390295DBC9943AB78696FA504C11
/-- q. -/
def curveQ : Nat := 0x8CB91E82A3386D280F5D6F7E50E641DF152F7109ED5456B31F166E6CAC0425A7CF3AB6AF6B7FC3103B883202E9046565

/-- A point; none is the point at infinity. -/
abbrev Point := Option (Nat × Nat)

/-- G. -/
def curveG : Point :=
  some (0x1D1C64F068CF45FFA2A63A81B7C13F6B8847A3E77EF14FE3DB7FCAFE0CBD10E8E826E03436D646AAEF87B2E247D4AF1E,
    0x8ABE1D7520F9C2A45CB1EB8E95CFD55262B70B29FEEC5864E19C054FF99129280E4646217791811142820341263C5315)

/-- b to the power of the low n bits of e, modulo m. -/
def powMod (m : Nat) : Nat → Nat → Nat → Nat
  | 0, _, _ => 1 % m
  | n + 1, b, e =>
    let r := powMod m n (b * b % m) (e / 2)
    if e % 2 = 1 then r * b % m else r

/-- The inverse of x modulo a prime m of 384 bits. -/
def invMod (m x : Nat) : Nat := powMod m 384 (x % m) (m - 2)

/-- x - y modulo p, of numbers below p. -/
def subP (x y : Nat) : Nat := (x + (curveP - y)) % curveP

/-- Whether a point is on the curve. -/
def onCurve (x y : Nat) : Bool :=
  decide (x < curveP) && decide (y < curveP) && y * y % curveP == (x * x * x + curveA * x + curveB) % curveP

/-- The third point of the line of slope l through (x, y) and a point of abscissa u, reflected. -/
def onLine (l x y u : Nat) : Point :=
  let z := subP (subP (l * l % curveP) x) u
  some (z, subP (l * subP x z % curveP) y)

/-- The sum of two points. -/
def curveAdd : Point → Point → Point
  | none, q => q
  | p, none => p
  | some (x, y), some (u, v) =>
    if x = u then
      if y = v ∧ y ≠ 0 then onLine ((3 * x * x + curveA) * invMod curveP (2 * y) % curveP) x y x else none
    else onLine (subP v y * invMod curveP (subP u x) % curveP) x y u

/-- The low n bits of k times a point. -/
def curveMul : Nat → Nat → Point → Point
  | 0, _, _ => none
  | n + 1, k, p =>
    let r := curveMul n (k / 2) (curveAdd p p)
    if k % 2 = 1 then curveAdd p r else r

/-- An uncompressed point: 04, X, Y. -/
def pointBytes : Point → List Byte
  | some (x, y) => [0x04] ++ beBytes 48 x ++ beBytes 48 y
  | none => [0]

/-- The point of an uncompressed key of 97 bytes, when it lies on the curve. -/
def keyPoint (key : List Byte) : Option (Nat × Nat) :=
  let x := beNat ((key.drop 1).take 48)
  let y := beNat ((key.drop 49).take 48)
  if key.length = 97 ∧ key.head? = some 0x04 ∧ onCurve x y then some (x, y) else none

/-- Whether (r, s), 48 big-endian bytes each, is a signature of a digest under a key (R365 check 4). -/
def ecdsaVerify (key sig : List Byte) (digest : BitVec 384) : Bool :=
  let r := beNat (sig.take 48)
  let s := beNat ((sig.drop 48).take 48)
  match keyPoint key with
  | none => false
  | some k =>
    decide (0 < r) && decide (r < curveQ) && decide (0 < s) && decide (s < curveQ) &&
      (let w := invMod curveQ s
       match curveAdd (curveMul 384 (digest.toNat * w % curveQ) curveG) (curveMul 384 (r * w % curveQ) (some k)) with
       | some (x, _) => x % curveQ == r
       | none => false)

/-- The signature of a digest under a private key, with a nonce. -/
def ecdsaSign (priv nonce : Nat) (digest : BitVec 384) : List Byte :=
  let r := match curveMul 384 nonce curveG with
    | some (x, _) => x % curveQ
    | none => 0
  let s := invMod curveQ nonce * ((digest.toNat + r * priv) % curveQ) % curveQ
  beBytes 48 r ++ beBytes 48 s

/-- A number from 1 to q - 1. -/
def scalarOf (n : Nat) : Nat := n % (curveQ - 1) + 1

end Sys2Proof.Machine
end

