-- ==== Sys2Proof/Machine/Scatter.lean ====
section
/-! DEFINITION. Scatter-accumulate commands (R221, R240, R241). -/

namespace Sys2Proof.Machine
open Sys2Proof

/-- The issue of a `sacc.*` (R240, R241): an Accrue access, which the host window does not take (R326). Neither the handle's format nor the
alignment of its BASE is checked (log entry 63). -/
def saccBody (i : Instr) (h : BitVec 4) (a : BitVec 5) (s : State) : Body := do
  let hb := s.me.hget h
  handleCheck s i hb none 0
  if vaDie (hBase hb) = 31 then raise s cPERM ((hBase hb).setWidth 64)
  else
    pureWrite s h
    let s ← captureCmd s 2 { parcels := parcelsWord i, scalar := s.sget a, handle := hb, strand := s.cur }
    .ok (s, .fall)

/-- Type of a captured command: 0 `.i32`, 1 `.i64`, 2 `.af`. -/
def Cmd.saccTy (c : Cmd) : Nat := bits c.parcels.toNat 30 2
/-- Operation number: 0 add, 1 min, 2 max, 3 and, 4 or, 5 xor. -/
def Cmd.saccOp (c : Cmd) : Nat := c.opc - 0x390
/-- First value row. -/
def Cmd.valueBand (c : Cmd) : Nat := bandOf (bits c.parcels.toNat 52 11)
/-- Value width in bits. -/
def Cmd.saccW (c : Cmd) : Nat := if c.saccTy = 1 then 64 else 32
/-- Values in a row. -/
def Cmd.saccPer (c : Cmd) : Nat := 2048 / c.saccW
/-- Value rows the command reads. -/
def Cmd.saccRows (c : Cmd) : Nat := (c.scalar.toNat + c.saccPer - 1) / c.saccPer

/-- The update of one value (R240). -/
def saccUpdate (c : Cmd) (x : Nat) : AccOp :=
  if c.saccTy = 2 then afOp .fp32 c.handle x else intOp c.saccOp c.saccW c.handle x

/-- One update of a command: its index, its value, and whether its rows are poisoned (R240, R241). -/
def saccOne (core : Nat) (poison : Bool) (sc : State × Cmd) (iv : Nat × Nat) : State × Cmd :=
  let (s, c) := sc
  let h := c.handle
  let width := if c.saccTy = 2 then 16 else c.saccW / 8
  let fail (x : BitVec 8) : State × Cmd :=
    (match (s.core core).stitch with
      | some t => failRecord s t.id x
      | none => s, { c with status := if c.status = 0 then x else c.status })
  if hSpace h != .accrue then fail cROLE
  else if hCount h ≤ iv.1 then fail cPERM
  else
    let va := hBase h + BitVec.ofNat 56 (iv.1 * width)
    let stays := poisonAt s .accrue va -- a target block that is poisoned already stays so (R31; log entry 50)
    (accrue s (clusterOf core) (newEntry s core h va (saccUpdate c iv.2) poison),
      { c with count := c.count + 1, poison := c.poison || stays })

/-- Take value rows while they and their index rows are full (R172, R241). -/
def saccRun (core : Nat) : Nat → State → Cmd → State × Cmd
  | 0, s, c => (s, c)
  | fuel + 1, s, c =>
    if c.saccRows ≤ c.rows then (s, { c with done := true })
    else
      let k := s.core core
      let u0 := c.rows * c.saccPer
      let ir := (c.band + u0 / 64) % 512
      let vr := (c.valueBand + c.rows) % 512
      if !k.isFull ir ∨ !k.isFull vr then (s, c)
      else
        let irow := tget {} k.band ir
        let vrow := tget {} k.band vr
        let us := (upto c.saccPer).filterMap (fun j =>
          if u0 + j < c.scalar.toNat then
            some (bits irow.bits.toNat (32 * ((u0 + j) % 64)) 32, bits vrow.bits.toNat (c.saccW * j) c.saccW)
          else none)
        let p := irow.poison || vrow.poison
        let (s, c) := us.foldl (saccOne core p) (s, c)
        let c := { c with rows := c.rows + 1, poison := c.poison || p }
        saccRun core fuel s { c with done := decide (c.saccRows ≤ c.rows) }

/-- Whether a core offers the engine of its cluster a command: queued, with room for entries (R180) and its clock running. -/
def scatterReady (s : State) (core : Nat) : Bool :=
  let x := (s.core core).engine 2
  x.running.isEmpty && !x.queue.isEmpty && !x.blocked && !s.frozen core

/-- The core whose command the engine of a cluster takes next, in round-robin order over the eight queues (R221). -/
def scatterNext (s : State) (cl : Nat) : Option Nat :=
  ((upto 8).map (fun j => 8 * cl + ((s.cluster cl).turn + j) % 8)).find? (scatterReady s)

/-- Start or continue the scatter-accumulate command of a core; the engine of a cluster runs one at a time (R221). -/
def startScatter (s : State) (core : Nat) : State :=
  let k := s.core core
  let x := k.engine 2
  if s.frozen core then s
  else
    match x.running with
    | c :: _ =>
      if c.done then s
      else
        let (s, c) := saccRun core 257 s c
        putRunning s core 2 c 0
    | [] =>
      let busy := (upto 8).any (fun j =>
        ((s.core (8 * (core / 8) + j)).engine 2).running.any (fun c => !c.done))
      match x.queue with
      | [] => s
      | c :: rest =>
        if busy ∨ scatterNext s (clusterOf core) ≠ some core then s
        else
          let s := s.setCluster (clusterOf core) { s.cluster (clusterOf core) with turn := (core + 1) % 8 }
          let tooMany := decide (8192 < c.scalar.toNat)
          let c := { c with
            started := true
            status := if tooMany then 0x01 else c.status
            poison := c.poison || tooMany }
          let s := s.setCore core (k.setEngine 2 { x with queue := rest, running := [c] })
          let (s, c) := if tooMany then (s, { c with done := true }) else saccRun core 257 s c
          putRunning s core 2 c 0

/-- `sacc.add` (R240). -/
def execSaccAdd (u : Hdr) (ty : SaccTy) (h : BitVec 4) (bi bv : BitVec 9) (a : BitVec 5) (s : State) :
    Host.Outcome State Fault Refusal :=
  let i := Instr.saccAdd u ty h bi bv a
  uniform i (portCheck .w i) (saccBody i h a) s

/-- `sacc.min` (R240). -/
def execSaccMin (u : Hdr) (ty : SaccTy) (h : BitVec 4) (bi bv : BitVec 9) (a : BitVec 5) (s : State) :
    Host.Outcome State Fault Refusal :=
  let i := Instr.saccMin u ty h bi bv a
  uniform i (portCheck .w i) (saccBody i h a) s

/-- `sacc.max` (R240). -/
def execSaccMax (u : Hdr) (ty : SaccTy) (h : BitVec 4) (bi bv : BitVec 9) (a : BitVec 5) (s : State) :
    Host.Outcome State Fault Refusal :=
  let i := Instr.saccMax u ty h bi bv a
  uniform i (portCheck .w i) (saccBody i h a) s

/-- `sacc.and` (R240). -/
def execSaccAnd (u : Hdr) (ty : SaccTy) (h : BitVec 4) (bi bv : BitVec 9) (a : BitVec 5) (s : State) :
    Host.Outcome State Fault Refusal :=
  let i := Instr.saccAnd u ty h bi bv a
  uniform i (portCheck .w i) (saccBody i h a) s

/-- `sacc.or` (R240). -/
def execSaccOr (u : Hdr) (ty : SaccTy) (h : BitVec 4) (bi bv : BitVec 9) (a : BitVec 5) (s : State) :
    Host.Outcome State Fault Refusal :=
  let i := Instr.saccOr u ty h bi bv a
  uniform i (portCheck .w i) (saccBody i h a) s

/-- `sacc.xor` (R240). -/
def execSaccXor (u : Hdr) (ty : SaccTy) (h : BitVec 4) (bi bv : BitVec 9) (a : BitVec 5) (s : State) :
    Host.Outcome State Fault Refusal :=
  let i := Instr.saccXor u ty h bi bv a
  uniform i (portCheck .w i) (saccBody i h a) s

end Sys2Proof.Machine
end

