-- ==== Sys2Proof/Machine/Array.lean ====
section
/-! DEFINITION. What the matrix array computes: its accumulators, the K-step of R38 with R39, R40 and R205, and the
epilogue of R212. -/

namespace Sys2Proof.Machine
open Sys2Proof

/-- The first n entries of a table from key i on, as a list. -/
def denseFrom {α : Type} (d : α) : Nat → Nat → List (Nat × α) → List α
  | 0, _, _ => []
  | n + 1, i, [] => d :: denseFrom d n (i + 1) []
  | n + 1, i, (j, v) :: t => if j = i then v :: denseFrom d n (i + 1) t else d :: denseFrom d n (i + 1) ((j, v) :: t)

/-- The table of a list from key i on, without default entries. -/
def tableFrom {α : Type} [DecidableEq α] (d : α) : Nat → List α → List (Nat × α)
  | _, [] => []
  | i, v :: vs => if v = d then tableFrom d (i + 1) vs else (i, v) :: tableFrom d (i + 1) vs

/-- The accumulators in the order 256 m + n (R201). -/
def ArrayState.accs (a : ArrayState) : List (BitVec 32) := denseFrom 0 65536 0 a.acc
/-- Replace them. -/
def ArrayState.setAccs (a : ArrayState) (xs : List (BitVec 32)) : ArrayState := { a with acc := tableFrom 0 0 xs }

/-- AFLAGS with more conditions: bits 0-4 are invalid, divide-by-zero, overflow, underflow, inexact (R201). -/
def orAflags (a : BitVec 5) (f : Flags) : BitVec 5 :=
  a ||| BitVec.ofNat 5 (b2n f.nv + 2 * b2n f.dz + 4 * b2n f.ov + 8 * b2n f.uf + 16 * b2n f.nx)

/-- `mzero` (R230), and a clearing grant (R211). -/
def ArrayState.clear (a : ArrayState) : ArrayState := { a with acc := [], kcur := 0, aflags := 0, poison := false }

/-- Whether the tile is typed (R230). -/
def typed (kcur : BitVec 32) : Bool := kcur != 0

/-- The format of an element type (R93). -/
def mtyFmt : MTy → Fmt
  | .bf16 => .bf16
  | .f16 => .fp16
  | .e4m3 => .e4m3
  | .e5m2 => .e5m2
  | .e3m2 => .e3m2
  | .e2m3 => .e2m3
  | .e2m1 => .e2m1
  | .i8 => .int8
  | .i4 => .int4

/-- Integer types. -/
def mtyInt : MTy → Bool
  | .i8 | .i4 => true
  | _ => false

/-- The narrow float types that take MX scales (R204). -/
def mtyMx : MTy → Bool
  | .e4m3 | .e5m2 | .e3m2 | .e2m3 | .e2m1 => true
  | _ => false

/-- The FP8 types. -/
def mtyFp8 : MTy → Bool
  | .e4m3 | .e5m2 => true
  | _ => false

/-- The combinations of R204. -/
def comboOk (ta tb : MTy) (tc : Bool) (x : MScale) (sp : Bool) : Bool :=
  match x with
  | .none =>
    (ta == tb && (ta == .bf16 || ta == .f16) && !tc) || (mtyFp8 ta && mtyFp8 tb && !tc) ||
      (mtyInt ta && mtyInt tb && tc && !sp)
  | .mx => mtyMx ta && mtyMx tb && !tc
  | .s128 => mtyFp8 ta && mtyFp8 tb && !tc

/-- One `mma` as the array runs it. -/
structure MmaOp where
  ta : MTy
  tb : MTy
  tc : Bool
  st : Bool
  sp : Bool
  x : MScale
  n : Nat
  first : Nat
  fromLx : Bool
  deriving DecidableEq, Repr, Inhabited

/-- The fields of a captured `mma` (R226). -/
def mmaOf (c : Cmd) : MmaOp :=
  let p := c.parcels.toNat
  { ta := (MTy.ofCode (bits p 60 4)).getD .bf16
    tb := (MTy.ofCode (bits p 56 4)).getD .bf16
    tc := bit p 55
    st := bit p 54
    sp := bit p 53
    x := (MScale.ofCode (bits p 30 2)).getD .none
    n := bits p 47 5 + 1
    first := bandOf (bits p 32 11)
    fromLx := bits p 32 11 == 0x308 }

/-- Bytes of one column of B for one K-step (R203). -/
def colBytes (t : MTy) : Nat := 4 * (mtyFmt t).width
/-- K-steps in one granule (R203). -/
def stepsPerGranule (t : MTy) : Nat := 64 / colBytes t

/-- Rows of A in one K-step (R232). -/
def aRows (o : MmaOp) : Nat := if o.sp then 2 * (mtyFmt o.ta).width else 4 * (mtyFmt o.ta).width
/-- Metadata rows. -/
def metaRows (o : MmaOp) : Nat := if o.sp then 4 else 0
/-- Scale rows of the step whose K index is k. -/
def scaleRows (o : MmaOp) (k : Nat) : Nat :=
  match o.x with
  | .none => 0
  | .mx => 1
  | .s128 => if k % 4 = 0 then 4 else 0
/-- Rows of that step. -/
def stepRows (o : MmaOp) (k : Nat) : Nat := aRows o + metaRows o + scaleRows o k
/-- Rows of the first s steps from K index k. -/
def rowsBefore (o : MmaOp) (k : Nat) : Nat → Nat
  | 0 => 0
  | s + 1 => rowsBefore o k s + stepRows o (k + s)

/-- A row the array reads: of the band, modulo 512, or the captured lx (R202, R232). -/
def arrayRow (k : Core) (o : MmaOp) (lx : PRow) (i : Nat) : PRow :=
  if o.fromLx then lx else tget {} k.band ((o.first + i) % 512)

/-- n rows from ring position i as one number, lowest row first. -/
def rowsNat (k : Core) (o : MmaOp) (lx : PRow) (i n : Nat) : Nat :=
  joinElems 2048 ((upto n).map (fun j => (arrayRow k o lx (i + j)).bits.toNat))

/-- Whether n rows from ring position i are all full (R172). -/
def rowsFull (k : Core) (o : MmaOp) (i n : Nat) : Bool :=
  o.fromLx || (upto n).all (fun j => k.isFull ((o.first + i + j) % 512))

/-- Whether any of them is poisoned. -/
def rowsPoison (k : Core) (o : MmaOp) (lx : PRow) (i n : Nat) : Bool := (upto n).any (fun j => (arrayRow k o lx (i + j)).poison)

/-- The terms of A of one row of one step: the k it stands for and its code, with whether the metadata is well formed
(R232). -/
def aTerms (o : MmaOp) (a md : Nat) (m : Nat) : List (Nat × Nat) × Bool :=
  let w := (mtyFmt o.ta).width
  if o.sp then
    let word := bits md (32 * m) 32
    let ks := (upto 8).map (fun g => (bits word (4 * g) 2, bits word (4 * g + 2) 2))
    ((upto 16).map (fun j =>
      let e := ks.getD (j / 2) (0, 0)
      (4 * (j / 2) + (if j % 2 = 0 then e.1 else e.2), bits a (w * (16 * m + j)) w)),
      ks.all (fun e => decide (e.1 < e.2)))
  else ((upto 32).map (fun k => (k, bits a (w * (32 * m + k)) w)), true)

/-- A value under an E8M0 scale code (R24, R38): the scaled value and whether a reserved code was read. -/
def scaledVal (f : Fmt) (scale : Option Nat) (code : Nat) : FVal × Bool :=
  let (v, r) := decodeFmt f code
  match scale with
  | none => (v, r)
  | some c =>
    if c = 255 then (.nan false, true)
    else
      (match v with
        | .fin s m e => .fin s m (e + (c : Int) - 127)
        | v => v, r)

/-- A special value: infinite or NaN. -/
def FVal.special (v : FVal) : Bool := v.isInf || v.isNaN

/-- The products of one output element in one step (R38, R40): the terms of S, and whether invalid was set; a forced NaN
is a term of its own. -/
def stepTerms (o : MmaOp) (as : List (Nat × Nat) × Bool) (sa sb : Option Nat) (bcol : Nat) : List FVal × Bool :=
  let fb := mtyFmt o.tb
  let wb := fb.width
  let bAt (k : Nat) : FVal × Bool := scaledVal fb sb (bits bcol (wb * k) wb)
  let ts := as.1.map (fun e =>
    let (x, rx) := scaledVal (mtyFmt o.ta) sa e.2
    let (y, ry) := bAt e.1
    let (p, nv) := mulVal x y
    (p, nv || rx || ry))
  let absent := (upto 32).filter (fun k => !(as.1.any (fun e => e.1 == k)))
  let strictBad := o.sp && o.st && absent.any (fun k => (bAt k).1.special)
  let bad := !as.2 || strictBad
  (ts.map (·.1) ++ (if bad then [.nan false] else []), bad || ts.any (·.2))

/-- acc := Round(FP32, acc + T, RNE) for an exact S rounded first (R38). -/
def promote (acc : BitVec 32) (v : FVal) (nv : Bool) : BitVec 32 × Flags :=
  let t := roundFloat .fp32 {} v
  let (u, nv2) := sumVal .rne [f32Val acc.toNat, f32Val t.code]
  let r := (roundFloat .fp32 {} u).orNv nv2
  (BitVec.ofNat 32 r.code, (t.orNv nv).fl.join r.fl)

/-- The integer sum of one step (R38). -/
def intStep (o : MmaOp) (as : List (Nat × Nat) × Bool) (bcol : Nat) (acc : BitVec 32) : BitVec 32 :=
  let wa := codeBits (mtyFmt o.ta)
  let wb := (mtyFmt o.tb).width
  acc + BitVec.ofInt 32 ((as.1.map (fun e => sext wa e.2 * sext wb (bits bcol (wb * e.1) wb))).foldl (· + ·) 0)

/-- What one step reads: the A rows, metadata rows and scale rows as numbers, and each column of B with its scale. -/
structure StepData where
  a : Nat
  md : Nat
  scale : Nat
  cols : List Nat
  bscale : List Nat
  deriving Inhabited

/-- One output element over the steps of one promotion: one step, or the four of `.s128` (R38). -/
def elementStep (o : MmaOp) (ds : List StepData) (m j : Nat) (acc : BitVec 32) : BitVec 32 × Flags :=
  let d0 := ds.headD default
  match o.x with
  | .s128 =>
    let ts := ds.map (fun d => stepTerms o (aTerms o d.a d.md m) none none (d.cols.getD j 0))
    let (p, nv) := sumVal .rne (ts.flatMap (·.1))
    let (q, nv1) := mulVal p (f32Val (bits d0.scale (32 * m) 32))
    let (r, nv2) := mulVal q (f32Val (d0.bscale.getD j 0))
    promote acc r (nv || nv1 || nv2 || ts.any (·.2))
  | x =>
    if o.tc then (intStep o (aTerms o d0.a d0.md m) (d0.cols.getD j 0) acc, {})
    else
      let (sa, sb) : Option Nat × Option Nat :=
        if x = .mx then (some (bits d0.scale (8 * m) 8), some (d0.bscale.getD j 0)) else (none, none)
      let (ts, nv) := stepTerms o (aTerms o d0.a d0.md m) sa sb (d0.cols.getD j 0)
      let (v, nv2) := sumVal .rne ts
      promote acc v (nv || nv2)

/-- Every output element over the steps of one promotion. -/
def tileStep (o : MmaOp) (ds : List StepData) (a : ArrayState) : ArrayState :=
  let rs := a.accs.zipIdx.map (fun e => elementStep o ds (e.2 / 256) (e.2 % 256) e.1)
  { a.setAccs (rs.map (·.1)) with aflags := rs.foldl (fun f r => orAflags f r.2) a.aflags }

/-! The epilogue (R212). -/

/-- One output element up to the working value x; none when the exact bits pass (INT32 to INT32, R212). -/
def drainValue (a : ArrayState) (res : Option FVal) (drop : Bool) (s1 s2 : Nat) (m n : Nat) (acc : BitVec 32) :
    Nat × Flags :=
  let r0 : Rounded := if a.tc then roundFloat .fp32 {} (FVal.ofInt acc.toInt) else ⟨acc.toNat, {}, false⟩
  let r1 : Rounded := match res with
    | none => r0
    | some v =>
      let (u, nv) := sumVal .rne [f32Val r0.code, v]
      let r := (roundFloat .fp32 {} u).orNv nv
      { r with fl := r.fl.join r0.fl }
  if !drop then (r1.code, r1.fl)
  else
    let coord := Nat.lor ((s1 * 256 + m) * 2 ^ 32) (s2 * 256 + n) % 2 ^ 64
    if mix coord a.dkey.toNat a.dsalt.toNat < a.dkeep.toNat then
      let (u, nv) := mulVal (f32Val r1.code) (f32Val a.dscale.toNat)
      let r := (roundFloat .fp32 {} u).orNv nv
      (r.code, r.fl.join r1.fl)
    else (0, r1.fl)

/-- Step 4 of R212: the output code in a format. `exact` is the INT32 to INT32 case without residual and dropout. -/
def drainOut (f : Fmt) (exact : Bool) (acc : BitVec 32) (x : Nat) : Rounded :=
  if exact && f == .int32 then ⟨acc.toNat, {}, false⟩ else roundTo f {} (f32Val x)

/-- Band output format of `mdrain` (R236). -/
def outFmt (code : Nat) : Fmt :=
  match code with
  | 2 => .int8
  | 3 => .int32
  | 9 => .fp16
  | 10 => .bf16
  | 11 => .e4m3
  | 12 => .e5m2
  | _ => .fp32

/-- The formats a drained element may take (R236). -/
def drainFmtOk : Fmt → Bool
  | .fp32 | .int8 | .int32 | .fp16 | .bf16 | .e4m3 | .e5m2 => true
  | _ => false

end Sys2Proof.Machine
end

