-- ==== Sys2Proof/Machine/Matrix.lean ====
section
/-! DEFINITION. The lease (R209-R211, R227-R229), the matrix commands (R230-R239) and the array's events. -/

namespace Sys2Proof.Machine
open Sys2Proof

/-- Place an engine-1 entry in a core's completion queue (R239). -/
def placeMatrixEntry (s : State) (core : Nat) (w : Word) : State := s.setCore core (placeEntry (s.core core) 1 w none)

/-- The place of lease-save slot k of a cluster (R206). -/
def slotKey (cl k : Nat) : Nat := vaultKey cl (0x2D00000 + k * 0x60000)

/-- R214, R215: the valid bit of a slot falls. -/
def clearSlot (s : State) (cl slot : Nat) : State :=
  let k := slotKey cl slot + 0x40000
  s.setNum k 8 (putBits (s.num k 8) 8 1 0)

/-- R215: one of the commands that a slot brought back has finished, or all have gone with the lease; after the last the slot
is no longer valid. -/
def reloadRan (s : State) (cl : Nat) (all : Bool) : State :=
  let x := s.cluster cl
  match x.lease with
  | some { reload := some (src, slot, n), core, byCycles, left, granted, ending, expired } =>
    let rest : Option (Nat × Nat × Nat) := if all || decide (n ≤ 1) then none else some (src, slot, n - 1)
    let s := s.setCluster cl { x with lease := some ⟨core, byCycles, left, granted, ending, expired, rest⟩ }
    if rest.isNone then clearSlot s src slot else s
  | _ => s

/-- R210: the lease of a cluster ends; commands still queued are discarded with one report. -/
def endLease (s : State) (cl : Nat) : State :=
  let x := s.cluster cl
  match x.lease with
  | none => s
  | some l =>
    let n := x.queue.length
    let s := (reloadRan s cl true).setCluster cl { x with
      lease := none
      queue := []
      disc := if 65535 < x.disc.toNat + n then BitVec.allOnes 16 else x.disc + BitVec.ofNat 16 n }
    match x.queue with
    | [] => s
    | q :: _ => placeMatrixEntry s l.core (entryWord q.seq cLEASE false 1 0 n)

/-- R210, R228: the lease ends once what it waits for has finished. -/
def checkLeaseEnd (s : State) (cl : Nat) : State :=
  let x := s.cluster cl
  match x.lease with
  | none => s
  | some l =>
    if x.running.isSome then s
    else if l.expired then endLease s cl
    else if x.queue = [] ∧ (l.ending ∨ (!l.byCycles ∧ l.left = 0)) then endLease s cl
    else s

/-- The launch priority of a core's stitch (R209, R310). -/
def corePrio (s : State) (c : Nat) : Nat :=
  match (s.core c).stitch with
  | some t => bits (s.recWord t.id.die t.id.record 0) 10 6
  | none => 0

/-- Whether request a is chosen before b (R209). -/
def leaseBefore (s : State) (a b : LeaseReq) : Bool :=
  let (pa, pb) := (corePrio s a.core, corePrio s b.core)
  if pa ≠ pb then decide (pb < pa) else if a.at_ ≠ b.at_ then decide (a.at_.toNat < b.at_.toNat) else decide (a.core < b.core)

/-- The chosen request. -/
def bestRequest (s : State) : List LeaseReq → Option LeaseReq
  | [] => none
  | r :: rs => match bestRequest s rs with
    | none => some r
    | some b => some (if leaseBefore s b r then b else r)

/-- The bytes of the accumulators of block b (R214, R238). -/
def accBlock (xs : List (BitVec 32)) (b : Nat) : RowBits :=
  BitVec.ofNat 2048 (joinElems 32 (((xs.drop (64 * b)).take 64).map (·.toNat)))

/-- A command record as R187 lays it out: 64 bytes. -/
def cmdRecord (c : Cmd) : List Byte :=
  bytesOf 8 c.parcels.toNat ++ bytesOf 8 c.scalar.toNat
    ++ bytesOf 8 (c.rows % 2 ^ 16 + b2n c.started * 2 ^ 16 + b2n c.tokenTaken * 2 ^ 17) ++ bytesOf 8 c.seq.toNat
    ++ bytesOf 32 c.handle.toNat

/-- A command from its record; what the record has no place for comes from the command kept beside it (log
entry 19). The request of a row that was due is made anew (R188, R259). -/
def cmdOf (bs : List Byte) (kept : Cmd) : Cmd :=
  { kept with
    parcels := BitVec.ofNat 64 (wordAt bs 0)
    scalar := BitVec.ofNat 64 (wordAt bs 8)
    rows := bits (wordAt bs 16) 0 16
    started := bit (wordAt bs 16) 16
    tokenTaken := bit (wordAt bs 16) 17
    seq := BitVec.ofNat 16 (wordAt bs 24)
    handle := BitVec.ofNat 256 (natOfBytes ((bs.drop 32).take 32))
    taken := none }

/-- R214, R215: reload the array from a slot, with the stopped `mdrain` and the kept commands; once they have run the slot's
valid bit falls. -/
def reloadSlot (s : State) (cl : Nat) (src slot core : Nat) (kept : List Cmd) : State :=
  let k := slotKey src slot
  let blocks := (List.range 1024).map (fun b => s.rowAt (k + 256 * b))
  let w (off : Nat) : Nat := s.num (k + off) 8
  let xs := blocks.flatMap (fun r => (rowElems 32 r.bits).map (BitVec.ofNat 32))
  let head := w 0x40000
  let x := s.cluster cl
  let arr := { x.arr.setAccs xs with
    tc := bit head 9
    kcur := BitVec.ofNat 32 (bits head 32 32)
    aflags := BitVec.ofNat 5 (w 0x40010)
    poison := blocks.any (·.poison) }
  let stopped := bit (w 0x40018) 16
  let drain : Cmd := { (kept.headD {}) with
    parcels := BitVec.ofNat 64 (w 0x40020)
    rows := bits (w 0x40018) 0 16
    started := true
    s1 := BitVec.ofNat 32 (bits (w 0x40028) 0 32)
    s2 := BitVec.ofNat 32 (bits (w 0x40028) 32 32)
    handle := BitVec.ofNat 256 (s.num (k + 0x40030) 32)
    taken := none
    strand := 3 * core + 2 }
  let keptQ := if stopped then kept.drop 1 else kept
  let n := min (w 0x40050) 16
  let q := (upto n).map (fun i =>
    { cmdOf (s.bytes (k + 0x40058 + 64 * i) 64) (keptQ.getD i {}) with strand := 3 * core + 2 })
  let s := s.setCluster cl { x with
    arr := arr, running := if stopped then some drain else none, queue := q
    lease := x.lease.map (fun l => { l with reload := some (src, slot, b2n stopped + n) }) }
  if stopped ∨ n ≠ 0 then s else reloadRan s cl true

/-- R227, R242: what a waiting uniform unit of two parcels waited for has come: the unit ends at once. -/
def unitReturns (s : State) (n : Nat) : State :=
  let x := s.strand n
  s.setStrand n { x.unitOver with pc := x.pc + 8, arrived := false }

/-- R209, R211, R215, R227: the array grants the lease, and the grant ends the requesting unit. A core without a stitch, the
steward's, finds the array cleared. Only the same stitch finds TC as it was (log entry 51). A resumed stitch's lease ends as it would
have (R228), and the cycles of a frozen core's count from its thaw (R368). -/
def grantLease (s : State) (cl : Nat) : State :=
  let x := s.cluster cl
  match x.lease, bestRequest s x.requests with
  | none, some r =>
    let x := { x with
      lease := some { core := r.core, byCycles := r.byCycles, left := r.budget, granted := coreNow s r.core, ending := r.ending }
      requests := x.requests.filter (· != r)
      grants := x.grants + 1 }
    let s := if r.resume.isNone then unitReturns s r.strand else s
    let cleared : ArrayState := { x.arr.clear with tc := false }
    match (s.core r.core).stitch with
    | none => s.setCluster cl { x with lastGrant := none, arr := cleared }
    | some t =>
      let same := x.lastGrant == some (r.core, t.id, t.lin)
      let arr := if same || r.resume.isSome then x.arr else cleared
      let s := s.setCluster cl { x with
        lastGrant := some (r.core, t.id, t.lin)
        arr := { arr with dkey := t.dkey, dsalt := t.dsalt, dkeep := t.dkeep, dscale := t.dscale } }
      match r.resume with
      | some (src, slot) => checkLeaseEnd (reloadSlot s cl src slot r.core r.kept) cl
      | none => s
  | _, _ => s

/-- LEASE_GRANT (R209). -/
def execLeaseGrant (cluster : Nat) (s : State) : Host.Outcome State Fault Refusal := event (.ok (grantLease s cluster))

/-- LEASE_CYCLE_EXPIRY (R210): the command in progress finishes, then the lease ends. -/
def execLeaseCycleExpiry (cluster : Nat) (s : State) : Host.Outcome State Fault Refusal :=
  let x := s.cluster cluster
  event (.ok (match x.lease with
    | some l =>
      if l.byCycles && decide (l.left ≤ (s.cycle - l.granted).toNat) && !s.frozen l.core then
        checkLeaseEnd (s.setCluster cluster { x with lease := some { l with expired := true } }) cluster
      else s
    | none => s))

/-! Instructions. -/

/-- Whether the core of the running strand holds the lease. -/
def holdsLease (s : State) : Bool :=
  match (s.cluster s.myCluster).lease with
  | some l => l.core == s.myCore
  | none => false

/-- Whether a resumed stitch of the core still waits for its lease (R215): its matrix commands wait with it. -/
def leasePending (s : State) : Bool :=
  (s.cluster s.myCluster).requests.any (fun r => r.core == s.myCore && r.resume.isSome)

/-- The effect of `lease` and `lease.cyc` (R227): the request waits until it has been granted, and the grant ends the
unit. A resumed stitch that still waits for its own lease raises LEASE, as if it held it (log entry 51). -/
def leaseBody (byCycles : Bool) (n : Nat) (s : State) : Body :=
  let waiting : Bool := match s.me.wait with
    | some w => w.kind == .lease
    | none => false
  let x := s.cluster s.myCluster
  if waiting then
    if x.requests.any (fun r => r.strand == s.cur && r.resume.isNone) then .error (.wait s .lease none) else .ok (s, .fall)
  else if holdsLease s || leasePending s then raise s cLEASE
  else
    let r : LeaseReq := { core := s.myCore, strand := s.cur, byCycles := byCycles, budget := n, at_ := s.cycle }
    .error (.wait (s.setCluster s.myCluster { x with requests := x.requests ++ [r] }) .lease none)

/-- `lease` (R227). -/
def execLease (u : Hdr) (n : BitVec 22) (s : State) : Host.Outcome State Fault Refusal :=
  uniform (.lease u n) (portCheck .t (.lease u n)) (leaseBody false n.toNat) s

/-- `lease.cyc` (R227). -/
def execLeaseCyc (u : Hdr) (n : BitVec 22) (s : State) : Host.Outcome State Fault Refusal :=
  uniform (.leaseCyc u n) (portCheck .t (.leaseCyc u n)) (leaseBody true n.toNat) s

/-- `unlease` (R228). In a resumed stitch that still waits for its own lease it waits with it, without a limit (log entry 51). -/
def execUnlease (u : Hdr) (s : State) : Host.Outcome State Fault Refusal :=
  uniform (.unlease u) (portCheck .t (.unlease u)) (fun s =>
    let x := s.cluster s.myCluster
    if leasePending s then .error (.wait s .lease none)
    else match x.lease with
    | some l =>
      if l.core = s.myCore then
        .ok (checkLeaseEnd (s.setCluster s.myCluster { x with lease := some { l with ending := true } }) s.myCluster, .fall)
      else .ok (s, .fall)
    | none => .ok (s, .fall)) s

/-- R229: a matrix command needs the lease and a unit of its budget; one issued between the expiry of a cycle budget and the end
of the running command finds no lease either (log entry 51). One of a resumed stitch whose lease is still to be granted waits for it (log
entry 79). -/
def leaseCheck (s : State) : Except Halt Unit :=
  if leasePending s then .error (.wait s .lease none)
  else match (s.cluster s.myCluster).lease with
  | some l =>
    if l.core = s.myCore ∧ !l.ending ∧ !l.expired ∧ (l.byCycles ∨ l.left ≠ 0) then .ok () else raise s cLEASE
  | none => raise s cLEASE

/-- R210, R225: capture a matrix command: the next engine-1 number and one unit of a command budget. -/
def captureMatrix (s : State) (c : Cmd) : Except Halt State := do
  queuePlace s 1
  let x := s.cluster s.myCluster
  let e := s.kore.engine 1
  let s := s.setKore (s.kore.setEngine 1 { e with nextSeq := e.nextSeq + 1 })
  .ok (s.setCluster s.myCluster { x with
    queue := x.queue ++ [{ c with seq := e.nextSeq, strand := s.cur, issued := s.cycle }]
    lease := x.lease.map (fun l => if l.byCycles then l else { l with left := l.left - 1 }) })

/-- The commands captured and not yet finished, oldest first. -/
def pendingCmds (x : Cluster) : List Cmd := x.running.toList ++ x.queue

/-- KCUR and TC that the captured commands will leave (R235). -/
def projected (x : Cluster) : BitVec 32 × Bool :=
  (pendingCmds x).foldl (fun (p : BitVec 32 × Bool) c =>
    if c.opc = 0x382 then (0, p.2)
    else if c.opc = 0x383 then
      let o := mmaOf c
      (p.1 + BitVec.ofNat 32 (if x.running == some c then (if c.done then 0 else o.n) else o.n), o.tc)
    else p) (x.arr.kcur, x.arr.tc)

/-- `mzero` (R230). -/
def execMzero (u : Hdr) (s : State) : Host.Outcome State Fault Refusal :=
  uniform (.mzero u) (portCheck .t (.mzero u)) (fun s => do
    leaseCheck s
    let s ← captureMatrix s { parcels := parcelsWord (.mzero u) }
    .ok (s, .fall)) s

/-- MXCOMBO's TVAL (R235). -/
def comboTval (x : MScale) (ta tb : MTy) (tc st sp : Bool) (reason : Nat) : Word :=
  BitVec.ofNat 64 (ta.code + tb.code * 2 ^ 4 + b2n tc * 2 ^ 8 + x.code * 2 ^ 9 + b2n sp * 2 ^ 11 + b2n st * 2 ^ 12
    + reason * 2 ^ 13)

/-- R203, R206, R235 step 3: a panel handle of `mma`: a Fixed or Loose region of this vault, and bytes [lo, hi) of it, which lie in
the region area of the vault. -/
def panelCheck (s : State) (h : HBits) (lo hi : Nat) : Except Halt Unit :=
  let sp := hSpace h
  if reservedDie (hBase h) || !inArea s s.myCluster h hi || vaOff (hBase h) < rgnBase s s.myDie (hRegion h) then
    raise s cPERM ((hBase h).setWidth 64)
  else
    match tagCheck s s.myCluster h lo hi with
    | .error (c, tv) => raise s c tv
    | .ok () =>
      if sp ≠ .fixed ∧ sp ≠ .loose then raise s cROLE (roleTval h (spaceCode sp) (hGen h)) else .ok ()

/-- The bytes of a panel, from BASE, that K-steps k to k + n - 1 read, with g steps in a granule (R203). -/
def panelSpan (g k n : Nat) : Nat × Nat := (k / g * 16384, (k + n - 1) / g * 16384 + 16384)

/-- `mma` (R231-R235): an illegal B handle or, where one is read, scale handle is ILL before anything else (R74, R81). -/
def execMma (u : Hdr) (x : MScale) (ta tb : MTy) (tc st sp : Bool) (n : BitVec 5) (h : BitVec 4) (a : ASrc) (s : State) :
    Host.Outcome State Fault Refusal :=
  let i := Instr.mma u x ta tb tc st sp n h a
  uniform i (portCheck .t i) (fun s => do
    let hb := s.me.hget h
    let hs := s.me.hget (hScale hb)
    if !hLegal hb || (x != .none && !hLegal hs) then ill s i else leaseCheck s
    let cl := s.cluster s.myCluster
    let steps := n.toNat + 1
    if (pendingCmds cl).any (fun c => c.opc == 0x386 && !c.done) then .error (.wait s .mrestore (some s.me.wlim))
    else
      let (k, t) := projected cl
      if !comboOk ta tb tc x sp then raise s cMXCOMBO (comboTval x ta tb tc st sp 0)
      else if typed k && t != tc then raise s cMXCOMBO (comboTval x ta tb tc st sp 1)
      else if x == .s128 && (steps % 4 != 0 || k.toNat % 4 != 0) then raise s cMXCOMBO (comboTval x ta tb tc st sp 2)
      else
        let (lo, hi) := panelSpan (stepsPerGranule tb) k.toNat steps
        panelCheck s hb lo hi
        let (lo, hi) := panelSpan 64 k.toNat steps
        if x == .none then .ok () else panelCheck s hs lo hi
        pureRead s hb
        if x == .none then .ok () else pureRead s hs
        let s ← captureMatrix s { parcels := parcelsWord i, handle := hb, handle2 := hs, lx := s.me.lx }
        .ok (s, .fall)) s

/-- `mdrain` (R236). -/
def execMdrain (u : Hdr) (f : OutFmt) (res drop wh : Bool) (h : BitVec 4) (b : Option (BitVec 9)) (s : State) :
    Host.Outcome State Fault Refusal :=
  let i := Instr.mdrain u f res drop wh h b
  uniform i (portCheck .t i) (fun s => do
    let hb := s.me.hget h
    if (res || wh) && !hLegal hb then ill s i
    else
      leaseCheck s
      let ok : Bool := match hFmt hb with
        | some g => drainFmtOk g
        | none => false
      if (res || wh) && !ok then raise s cMXCOMBO (BitVec.ofNat 64 (hFmtCode hb + 3 * 2 ^ 13))
      else
        if res then pureNever s 7 else .ok ()
        if wh then pureWrite s h else .ok ()
        let s ← captureMatrix s { parcels := parcelsWord i, handle := hb
                                  s1 := (s.sget 1).setWidth 32, s2 := (s.sget 2).setWidth 32 }
        .ok (s, .fall)) s

/-- `msave` (R238). -/
def execMsave (u : Hdr) (h : BitVec 4) (s : State) : Host.Outcome State Fault Refusal :=
  let i := Instr.msave u h
  uniform i (portCheck .t i) (fun s => do
    let hb := s.me.hget h
    if !hLegal hb then ill s i
    else
      leaseCheck s
      pureWrite s h
      let s ← captureMatrix s { parcels := parcelsWord i, handle := hb }
      .ok (s, .fall)) s

/-- `mrestore` (R238). -/
def execMrestore (u : Hdr) (h : BitVec 4) (s : State) : Host.Outcome State Fault Refusal :=
  let i := Instr.mrestore u h
  uniform i (portCheck .t i) (fun s => do
    let hb := s.me.hget h
    if !hLegal hb then ill s i
    else
      leaseCheck s
      pureNever s 7
      let s ← captureMatrix s { parcels := parcelsWord i, handle := hb }
      .ok (s, .fall)) s

/-! The array's side. -/

/-- Put the running command of a cluster back. -/
def setRun (s : State) (cl : Nat) (c : Cmd) : State := s.setCluster cl { s.cluster cl with running := some c }

/-- Change the array of a cluster. -/
def setArr (s : State) (cl : Nat) (a : ArrayState) : State := s.setCluster cl { s.cluster cl with arr := a }

/-- Column j of B for one K-step, and the granule column of a scale (R203, R233). A panel base that is no multiple of 0x4000,
which R203 does not allow and no rule checks, is used as it is (log entry 51). -/
def panelNum (s : State) (cl base off j at' n : Nat) : Nat := s.num (vaultKey cl (base + off + j * 64 + at')) n

/-- Whether any block under a 16 KiB granule row is poisoned. -/
def panelPoison (s : State) (cl base off : Nat) : Bool :=
  (upto 64).any (fun i => s.blockPoison (vaultKey cl (base + off + 256 * i)))

/-- What step `st` of a command reads (R232, R233). -/
def stepData (s : State) (cl : Nat) (c : Cmd) (o : MmaOp) (i st : Nat) : StepData × Bool :=
  let k := s.core (coreOf c.strand)
  let base := bits (hBase c.handle).toNat 0 26
  let sb := bits (hBase c.handle2).toNat 0 26
  let g := stepsPerGranule o.tb
  let b := colBytes o.tb
  let (na, nm, ns) := (aRows o, metaRows o, scaleRows o st)
  let cols := (upto 256).map (fun j => panelNum s cl base (st / g * 16384) j (st % g * b) b)
  let sc := match o.x with
    | .none => []
    | .mx => (upto 256).map (fun j => panelNum s cl sb (st / 64 * 16384) j (st % 64) 1)
    | .s128 => (upto 256).map (fun j => panelNum s cl sb (st / 64 * 16384) j (st / 4 % 16 * 4) 4)
  let p := rowsPoison k o c.lx i (na + nm + ns) || panelPoison s cl base (st / g * 16384) ||
    (o.x != .none && panelPoison s cl sb (st / 64 * 16384))
  (⟨rowsNat k o c.lx i na, rowsNat k o c.lx (i + na) nm, rowsNat k o c.lx (i + na + nm) ns, cols, sc⟩, p)

/-- Whether stores to a granule row of a panel, at an offset from BASE, are still in the skein: the array's read is held behind
them, as every load is (R208, R270, R336). -/
def panelPending (s : State) (h : HBits) (off : Nat) : Bool :=
  pendingPage s (hSpace h) (pageAt s (hSpace h) (hBase h + BitVec.ofNat 56 off)) ||
    pendingPage s (hSpace h) (pageAt s (hSpace h) (hBase h + BitVec.ofNat 56 (off + 16383)))

/-- Whether the panels of step `st` of a command wait for the skein. -/
def stepPending (s : State) (c : Cmd) (o : MmaOp) (st : Nat) : Bool :=
  panelPending s c.handle (st / stepsPerGranule o.tb * 16384) || (o.x != .none && panelPending s c.handle2 (st / 64 * 16384))

/-- The next promotion of the running `mma`, once its rows are full (R234): one step, or four under `.s128`. `rows` counts
the steps done. -/
def runMma (s : State) (cl : Nat) (c : Cmd) : State :=
  let o := mmaOf c
  let x := s.cluster cl
  let per := if o.x = .s128 then 4 else 1
  let k0 := x.arr.kcur.toNat
  let i := rowsBefore o k0 c.rows
  let n := rowsBefore o k0 (c.rows + per) - i
  if !rowsFull (s.core (coreOf c.strand)) o i n || (upto per).any (fun j => stepPending s c o ((k0 + c.rows + j) % 2 ^ 32)) then s
  else
    let ds := (upto per).map (fun j => stepData s cl c o (rowsBefore o k0 (c.rows + j)) ((k0 + c.rows + j) % 2 ^ 32))
    let p := ds.any (·.2)
    let arr := tileStep o (ds.map (·.1)) x.arr
    let arr := { arr with poison := arr.poison || p }
    let rows := c.rows + per
    let done := decide (o.n ≤ rows)
    let arr := if done then { arr with kcur := arr.kcur + BitVec.ofNat 32 o.n, tc := o.tc } else arr
    setRun (setArr s cl arr) cl { c with rows := rows, poison := c.poison || p, done := done, count := o.n }

/-! `mdrain` (R237). -/

/-- Whether a residual is added. -/
def Cmd.drainRes (c : Cmd) : Bool := bit c.parcels.toNat 59
/-- Whether dropout applies. -/
def Cmd.drainDrop (c : Cmd) : Bool := bit c.parcels.toNat 58
/-- Whether the handle is written. -/
def Cmd.drainWh (c : Cmd) : Bool := bit c.parcels.toNat 57
/-- The first band row of the output, if any. -/
def Cmd.drainBand (c : Cmd) : Option Nat := if bits c.parcels.toNat 32 11 = 0 then none else some c.band

/-- A failure of the handle alone (R236, R237). -/
def drainCause (h : HBits) : Option (BitVec 8) :=
  if hSpace h ≠ .loose then some cROLE
  else if reservedDie (hBase h) then some cPERM
  else if (hBase h).toNat % elemBytes (hWidth h) ≠ 0 then some cALIGN
  else none

/-- The elements of row m of the handle's tile inside its extents (R237). -/
def drainElems (h : HBits) (m : Nat) : List Elem :=
  if m < hExt h 1 then
    (upto (min 256 (hExt h 0))).map (fun n =>
      let (va, hi) := elemAddr h (hWidth h) (n + m * hExt h 0)
      ⟨n, 0, va, hi⟩)
  else []

/-- A failure of the handle that a row outside its extents meets too: the wrong space, or a region that is not Loose at its GEN
(R236, R237). -/
def drainRole (s : State) (c : Cmd) : Option (BitVec 8) :=
  let h := c.handle
  if hSpace h ≠ .loose then some cROLE
  else
    match homeCheck s (asStrand s c.strand).myTenant h true 1 [(0, hBase h)] with
    | .role _ => some cROLE
    | _ => none

/-- What a row finds as its residual: the values by column, whether a value is a reserved code (R29, R34), poison, and a failure. -/
structure Residual where
  vals : List FVal := []
  invalid : Bool := false
  poison : Bool := false
  cause : Option (BitVec 8) := none

/-- The residual of row m. An INT32 element enters the addition exactly, and each row is tried anew, whatever an earlier one met (log
entry 57). -/
def drainResidual (s : State) (c : Cmd) (m : Nat) : Eng Residual :=
  let failed (x : Option (BitVec 8)) : Residual := { poison := x.isSome, cause := x }
  let h := c.handle
  let els := drainElems h m
  if !c.drainRes then .ok s {}
  else if els = [] then .ok s (failed (drainRole s c))
  else
    match drainCause h with
    | some x => .ok s (failed (some x))
    | none =>
      match engineLoad s c.strand c.taken h .loose (hWidth h) els with
      | .ok s (vs, p) =>
        let ds := vs.map (decodeFmt ((hFmt h).getD .fp32))
        .ok s { vals := ds.map (·.1), invalid := ds.any (·.2), poison := p }
      | .fail s x => .ok s (failed (some x))
      | .wait s t => .wait s t
      | .stop k => .stop k

/-- The writes to the handle of row m: what failed, how many elements were written, and whether a block is or stays poisoned. A
page that is not present waits (R237). Each row is tried anew (log entry 57). -/
def drainWrites (s : State) (c : Cmd) (m : Nat) (rowPoison : Bool) (outs : List Rounded) :
    Eng (Option (BitVec 8) × Nat × Bool) :=
  let h := c.handle
  let els := drainElems h m
  if !c.drainWh then .ok s (none, 0, false)
  else if els = [] then .ok s (drainRole s c, 0, false)
  else
    match drainCause h with
    | some x => .ok s (some x, 0, false)
    | none =>
      let at' (e : Elem) : Rounded := outs.getD e.i default
      match engineOpen s c.strand c.taken h .loose { wr := true } (hWidth h) els with
      | .ok s r =>
        if els.any (fun e => r.place s e.va == .absent) then .wait s (some (heldReq h .loose (els.map (·.va))))
        else
          match engineStore s c.strand c.taken h (hWidth h) true (fun e => rowPoison || (at' e).poison)
              (els.map (fun e => (e, (at' e).code))) with
          | .ok s p => .ok s (none, els.length, p)
          | .fail s x => .ok s (some x, 0, false)
          | .wait s t => .wait s t
          | .stop k => .stop k
      | .fail s x => .ok s (some x, 0, false)
      | .wait s t => .wait s t
      | .stop k => .stop k

/-- The band rows of output row m: `nb` rows from the ring, each with its own poison (R202, R237). -/
def drainBandRows (w m nb : Nat) (rowPoison : Bool) (outs : List Rounded) : List (Nat × PRow) :=
  let per := 2048 / w
  (upto nb).map (fun j =>
    let part := (outs.drop (per * j)).take per
    (m * nb + j, ⟨rowOfElems w (part.map (·.code)), rowPoison || part.any (·.poison)⟩))

/-- The first failure's cause. -/
def firstCause (a b c : Option (BitVec 8)) (old : BitVec 8) : BitVec 8 := if old ≠ 0 then old else ((a <|> b) <|> c).getD 0

/-- Deliver computed band rows in order while the next one is empty (R172, R202). -/
def pushRows (core : Nat) (age : Word) : List (Nat × PRow) → State → State × List (Nat × PRow)
  | [], s => (s, [])
  | (b, r) :: rest, s =>
    if bandFree s core b age then pushRows core age rest (s.setCore core ((s.core core).bandPut b r))
    else (s, (b, r) :: rest)

/-- Deliver what band rows the running `mdrain` can; it is done when its 256 output rows are. Of the others, only the next waits to
be written: they go in order (R173, R237). -/
def drainPush (s : State) (cl : Nat) (c : Cmd) : State :=
  let (s, rest) := pushRows (coreOf c.strand) c.issued c.out s
  setRun s cl { c with out := rest, blocked := (rest.take 1).map (·.1), done := rest.isEmpty && decide (256 ≤ c.rows) }

/-- The conditions that one output row raises: of the working value where an output is converted from it, and of each
conversion, for every element of the row (R212). -/
def drainFlags (exact : Bool) (xs : List (Nat × Flags)) (hf : Option Fmt) (houts : List Rounded) (bf : Option Fmt)
    (bouts : List Rounded) : Flags :=
  let direct (f : Option Fmt) : Bool := exact && f == some .int32
  let join (rs : List Flags) : Flags := rs.foldl Flags.join {}
  let x := xs.map (·.2)
  let work := if (hf.isNone || direct hf) && (bf.isNone || direct bf) then {} else join x
  work.join ((if hf.isSome then join (houts.map (·.fl)) else {}).join (if bf.isSome then join (bouts.map (·.fl)) else {}))

/-- Conditions ORed into AFLAGS (R38, R212). -/
def orTileFlags (s : State) (cl : Nat) (fl : Flags) : State :=
  let a := (s.cluster cl).arr
  setArr s cl { a with aflags := orAflags a.aflags fl }

/-- The next output row of the running `mdrain` (R212, R237); `rows` counts the rows issued, and a row's band rows are delivered
before the next row is issued. The flags raised are ORed into AFLAGS (R212; log entry 43). -/
def runDrain (s0 : State) (cl : Nat) (c : Cmd) : Ev :=
  let m := c.rows
  let h := c.handle
  let fb := outFmt (bits c.parcels.toNat 60 4)
  if c.out ≠ [] then .ok (drainPush s0 cl c)
  else
    match drainResidual s0 c m with
    | .wait s t => .ok (setRun s cl { c with taken := t })
    | .stop k => .error (.noStorage k)
    | .fail s _ => .ok s
    | .ok s r =>
      let a := (s.cluster cl).arr
      let accs := ((denseFrom 0 65536 0 a.acc).drop (256 * m)).take 256
      let xs := accs.zipIdx.map (fun e =>
        drainValue a r.vals[e.2]? c.drainDrop c.s1.toNat c.s2.toNat m e.2 e.1)
      let exact := a.tc && !c.drainRes && !c.drainDrop
      let conv (f : Fmt) : List Rounded := (accs.zip xs).map (fun e => drainOut f exact e.1 e.2.1)
      let hf := (hFmt h).getD .fp32
      let houts := conv hf
      let bouts := conv fb
      let poison := a.poison || r.poison
      match drainWrites s c m poison houts with
      | .wait s t => .ok (setRun s cl { c with taken := t })
      | .stop k => .error (.noStorage k)
      | .fail s _ => .ok s
      | .ok s (wf, wrote, hp) =>
        let rows := match c.drainBand with
          | some b => (drainBandRows fb.width m (fb.width / 8) poison bouts).map (fun e => ((b + e.1) % 512, e.2))
          | none => []
        let fl := drainFlags exact xs (if c.drainWh then some hf else none) houts (c.drainBand.map (fun _ => fb)) bouts
        let fl := if r.invalid then fl.join nvFlag else fl
        let s := orTileFlags s cl fl
        .ok (drainPush s cl { c with
          rows := m + 1
          out := rows
          taken := none
          status := firstCause r.cause wf none c.status
          poison := c.poison || rows.any (·.2.poison) || hp || r.cause.isSome || wf.isSome
          count := if c.drainWh then c.count + wrote else 65536 })

/-! `msave` and `mrestore` (R238). -/

/-- A failure of the save area's handle alone. -/
def areaCause (h : HBits) : Option (BitVec 8) :=
  if hSpace h ≠ .loose then some cROLE
  else if reservedDie (hBase h) then some cPERM
  else if (hBase h).toNat % 256 ≠ 0 then some cALIGN
  else none

/-- Blocks of the area. -/
def areaBlocks : Nat := 1025

/-- The 32 eight-byte elements of a 256-byte block of an area. -/
def blockElems (h : HBits) (b : Nat) : List Elem :=
  (upto 32).map (fun i => ⟨i, 0, hBase h + BitVec.ofNat 56 (256 * b + 8 * i), false⟩)

/-- Block b of the array's save area. -/
def areaBlock (a : ArrayState) (b : Nat) : PRow :=
  if b < 1024 then ⟨accBlock a.accs b, a.poison⟩
  else ⟨BitVec.ofNat 2048 (joinElems 64 [1 + b2n a.tc * 2 ^ 9 + a.kcur.toNat * 2 ^ 32, a.aflags.toNat]), false⟩

/-- One block of the running `msave`; the entry of one that fails has POISON 1 (log entry 62). -/
def runSave (s : State) (cl : Nat) (c : Cmd) : Ev :=
  let fail (s : State) (x : BitVec 8) : State := setRun s cl { c with status := x, poison := true, done := true, count := 256 * c.rows }
  match areaCause c.handle with
  | some x => .ok (fail s x)
  | none =>
    let row := areaBlock (s.cluster cl).arr c.rows
    let codes := rowElems 64 row.bits
    match engineStore s c.strand c.taken c.handle 64 false (fun _ => row.poison)
        ((blockElems c.handle c.rows).map (fun e => (e, nth codes e.i))) with
    | .wait s t => .ok (setRun s cl { c with taken := t })
    | .stop k => .error (.noStorage k)
    | .fail s x => .ok (fail s x)
    | .ok s p =>
      let n := c.rows + 1
      .ok (setRun s cl { c with
        rows := n, taken := none, poison := c.poison || row.poison || p, done := decide (areaBlocks ≤ n)
        count := if areaBlocks ≤ n then 0x40100 else 256 * n })

/-- The blocks of an area that its home can have taken of a read that waits. -/
def areaHeld (s : State) (h : HBits) : HeldReq :=
  heldArea s h .loose ((List.range areaBlocks).map (fun b => hBase h + BitVec.ofNat 56 (256 * b)))

/-- Read the blocks of an area from block b on: one request, of which a page that is not present holds all. -/
def areaRead (s : State) (c : Cmd) : Nat → Nat → Eng (List (RowBits × Bool) × Nat)
  | 0, b => .ok s ([], b)
  | n + 1, b =>
    match engineLoad s c.strand c.taken c.handle .loose 64 (blockElems c.handle b) with
    | .wait s t => .wait s (if t = c.taken then t else some ((areaHeld s c.handle).join c.taken))
    | .stop k => .stop k
    | .fail s x => .fail (setRun s (clusterOf (coreOf c.strand)) { c with rows := b }) x
    | .ok s (vs, p) =>
      match areaRead s c n (b + 1) with
      | .ok s (r, e) => .ok s ((rowOfElems 64 vs, p) :: r, e)
      | .wait s t => .wait s t
      | .stop k => .stop k
      | .fail s x => .fail s x

/-- The running `mrestore`: it reads the whole area before it changes anything. The entry of one that fails has POISON 1 (log entry 62). -/
def runRestore (s : State) (cl : Nat) (c : Cmd) : Ev :=
  let fail (s : State) (x : BitVec 8) (n : Nat) : State :=
    setRun (setArr s cl { (s.cluster cl).arr with poison := true }) cl
      { c with status := x, poison := true, done := true, count := n }
  match areaCause c.handle with
  | some x => .ok (fail s x 0)
  | none =>
    match areaRead s c areaBlocks 0 with
    | .wait _ t => .ok (setRun s cl { c with taken := t })
    | .stop k => .error (.noStorage k)
    | .fail t x => .ok (fail t x (256 * (match (t.cluster cl).running with
      | some r => r.rows
      | none => 0)))
    | .ok s (rows, _) =>
      let last := ((rows.getD 1024 (0, false)).1).toNat
      let p := (rows.take 1024).any (·.2)
      if bits last 0 8 ≠ 1 then .ok (fail s 0x01 0x40100)
      else
        let xs := (rows.take 1024).flatMap (fun r => (rowElems 32 r.1).map (BitVec.ofNat 32))
        let arr := { (s.cluster cl).arr.setAccs xs with
          tc := bit last 9
          kcur := BitVec.ofNat 32 (bits last 32 32)
          aflags := BitVec.ofNat 5 (bits last 64 5)
          poison := (s.cluster cl).arr.poison || p }
        .ok (setRun (setArr s cl arr) cl { c with poison := rows.any (·.2), done := true, count := 0x40100 })

/-- Run the current command further. -/
def runMatrix (s : State) (cl : Nat) (c : Cmd) : Ev :=
  if c.opc = 0x382 then .ok (setRun (setArr s cl (s.cluster cl).arr.clear) cl { c with done := true })
  else if c.opc = 0x383 then .ok (runMma s cl c)
  else if c.opc = 0x384 then runDrain s cl c
  else if c.opc = 0x385 then runSave s cl c
  else runRestore s cl c

/-- R180, R239: an entry held for some core of a cluster, or a full completion queue of the core whose command is next, holds the
array: it starts no command. -/
def arrayHeld (s : State) (cl core : Nat) : Bool :=
  (upto 8).any (fun j => ((s.core (8 * cl + j)).engine 1).heldEntries != []) || ((s.core core).engine 1).blocked

/-- MATRIX_COMMAND_START (R225): the array starts its next captured command, or continues the one it runs. -/
def startMatrix (s : State) (cl : Nat) : Ev :=
  let x := s.cluster cl
  match x.running with
  | some c => if c.done ∨ s.frozen (coreOf c.strand) then .ok s else runMatrix s cl c
  | none =>
    match x.queue with
    | [] => .ok s
    | c :: rest =>
      if arrayHeld s cl (coreOf c.strand) ∨ s.frozen (coreOf c.strand) then .ok s
      else
        let c := { c with started := true }
        runMatrix (s.setCluster cl { x with queue := rest, running := some c }) cl c

/-- The five bits of AFLAGS as the completion entry carries them (R237): invalid highest. -/
def aflagsCount (a : BitVec 5) : Nat :=
  b2n (a.getLsbD 0) * 2 ^ 31 + b2n (a.getLsbD 1) * 2 ^ 30 + b2n (a.getLsbD 2) * 2 ^ 29 + b2n (a.getLsbD 3) * 2 ^ 28
    + b2n (a.getLsbD 4) * 2 ^ 27

/-- R239: a finished command places its entry, and a spent lease ends (R210). -/
def completeMatrix (s : State) (cl : Nat) : State :=
  let x := s.cluster cl
  match x.running with
  | none => s
  | some c =>
    let core := coreOf c.strand
    if !c.done ∨ ((s.core core).engine 1).heldEntries ≠ [] ∨ s.frozen core then s
    else
      let s := s.setCluster cl { x with running := none }
      let s := reloadRan s cl false
      let count := if c.opc = 0x384 then c.count % 2 ^ 17 + aflagsCount x.arr.aflags else c.count
      let s := if c.opc = 0x382 then s else placeMatrixEntry s core (entryWord c.seq c.status c.poison 1 0 count)
      checkLeaseEnd s cl

/-- MATRIX_COMMAND_START (R225). -/
def execMatrixCommandStart (cluster : Nat) (s : State) : Host.Outcome State Fault Refusal := event (startMatrix s cluster)

/-- MATRIX_COMMAND_COMPLETE (R239). -/
def execMatrixCommandComplete (cluster : Nat) (s : State) : Host.Outcome State Fault Refusal :=
  event (.ok (completeMatrix s cluster))

end Sys2Proof.Machine
end

