-- ==== Sys2Proof/Machine/Barrier.lean ====
section
/-! DEFINITION. The cluster barrier and the end of a strand's part of a stitch (R223, R242, R243). -/

namespace Sys2Proof.Machine
open Sys2Proof

/-- Number of 1 bits of n bits. -/
def ones (n w : Nat) : Nat := ((upto n).filter (fun i => bit w i)).length

/-- CSET of a record. -/
def recCset (s : State) (d n : Nat) : Nat := bits (s.recWord d n 0x10) 0 16

/-- The participants of a record (R218): core numbers in order of logical index. -/
def coresOf (s : State) (d n : Nat) (pk : List Byte) : List Nat :=
  (upto 16).flatMap (fun c => if bit (recCset s d n) c then
    (upto 8).flatMap (fun k => if bit (wordAt pk 0) (16 + k) then [(d * 16 + c) * 8 + k] else []) else [])

/-- E of a record's barrier, as dispatch computed it (R223). -/
def barrierSize (s : State) (t : Stitch) : Nat := (s.recx t.id.die t.id.record).barSize

/-- R242: the phase completes: every waiting arrival of the record returns at once. -/
def completePhase (s : State) (id : LaunchId) : State :=
  let mine (n : Nat) : Bool := match (s.core (coreOf n)).stitch with
    | some t => t.id == id
    | none => false
  let s := (s.strands.map (·.1)).foldl (fun (s : State) n => if mine n && (s.strand n).arrived then unitReturns s n else s) s
  let r := s.recx id.die id.record
  s.setRecx id.die id.record { r with barCount := 0, barPhase := r.barPhase + 1 }

/-- `cbar` (R242): an arrival, then a wait for its phase. -/
def execCbar (u : Hdr) (lim : BitVec 12) (s : State) : Host.Outcome State Fault Refusal :=
  uniform (.cbar u lim) noCheck (fun s =>
    let waiting : Bool := match s.me.wait with
      | some w => w.kind == .cbar
      | none => false
    match s.kore.stitch with
    | none => .ok (s, .fall)
    | some t =>
      if waiting then
        if s.me.arrived then .error (.wait s .cbar (some (limOf lim))) else .ok (s, .fall)
      else
        let r := s.recx t.id.die t.id.record
        if barrierSize s t ≤ r.barCount + 1 then .ok (completePhase s t.id, .fall)
        else
          let s := s.setRecx t.id.die t.id.record { r with barCount := r.barCount + 1 }
          .error (.wait (s.setMe { s.me with arrived := true }) .cbar (some (limOf lim)))) s

/-- `stitch.end` (R243). -/
def execStitchEnd (u : Hdr) (a : BitVec 5) (s : State) : Host.Outcome State Fault Refusal :=
  uniform (.stitchEnd u a) noCheck (fun s =>
    .ok (s.setMe { s.me with phase := .ended, endWord := some (s.sget a) }, .stay)) s

end Sys2Proof.Machine
end

