-- ==== Sys2Proof/Machine/Digest.lean ====
section
/-! DEFINITION. The digest unit (R316) and the Sampler's entries (R318-R322). -/

namespace Sys2Proof.Machine
open Sys2Proof

/-- x · a in GF(2^128) (R316). -/
def gfDouble (a : BitVec 128) : BitVec 128 := if a.msb then (a <<< 1) ^^^ 0x87 else a <<< 1

/-- Product over the bits of b from n - 1 down. -/
def gfMulFrom (a b : BitVec 128) : Nat → BitVec 128 → BitVec 128
  | 0, r => r
  | n + 1, r => gfMulFrom a b n (if b.getLsbD n then gfDouble r ^^^ a else gfDouble r)

/-- Product in GF(2^128). -/
def gfMul (a b : BitVec 128) : BitVec 128 := gfMulFrom a b 128 0

/-- Σ w_i · k^(n - i) over a list of n words w_0 …, by Horner's rule. -/
def gfPoly (k : BitVec 128) (ws : List (BitVec 128)) : BitVec 128 := ws.foldl (fun r w => gfMul (r ^^^ w) k) 0

/-- 128-bit words of a byte list, padded with zero bytes to n words. -/
def words128 : Nat → List Byte → List (BitVec 128)
  | 0, _ => []
  | n + 1, bs => BitVec.ofNat 128 (natOfBytes (bs.take 16)) :: words128 n (bs.drop 16)

/-- The leaves of a message of b bytes (R316). -/
def leaves (h : BitVec 128) : Nat → List Byte → List (BitVec 128)
  | 0, _ => []
  | n + 1, bs => gfPoly h (words128 256 bs) :: leaves h n (bs.drop 4096)

/-- Digest of a byte list under keys H, K (R316). -/
def digest (h k : BitVec 128) (bs : List Byte) : BitVec 128 :=
  let b := bs.length
  gfMul (gfPoly k (leaves h ((b + 4095) / 4096) bs)) k ^^^ gfMul (BitVec.ofNat 128 b) k

/-- Keys H and K of a tenant at a die (R382). -/
def tenantKeys (s : State) (d t : Nat) : BitVec 128 × BitVec 128 :=
  let w := tget 0 (s.die d).tkey t
  (w.setWidth 128, (w >>> 128).setWidth 128)

/-- Entries of the Sampler (R318). -/
def samplerSize : Nat := 8192

/-- Drop the least recently used entries of a tenant until it holds at most n. -/
def evictTo (t n : Nat) (es : List SamplerEntry) : List SamplerEntry :=
  let k := (es.filter (fun e => e.tenant == t)).length - n
  (es.foldl (fun (a : List SamplerEntry × Nat) e =>
    if e.tenant == t && decide (0 < a.2) then (a.1, a.2 - 1) else (a.1 ++ [e], a.2)) ([], k)).1

/-- R318, R320: insert a key with its result handle. -/
def samplerInsert (x : Die) (t : Nat) (key : BitVec 128) (h : HBits) : Die :=
  let quota := tget 0 x.squota t
  if quota = 0 ∨ x.sampler.any (fun e => e.tenant == t && e.key == key) then x
  else
    let es := evictTo t (quota - 1) x.sampler
    if samplerSize ≤ es.length then { x with sampler := es } else { x with sampler := es ++ [⟨t, key, h⟩] }

/-- R319: the entry of a tenant's key; a hit becomes most recently used. -/
def samplerLookup (x : Die) (t : Nat) (key : BitVec 128) : Option (HBits × Die) :=
  match x.sampler.find? (fun e => e.tenant == t && e.key == key) with
  | none => none
  | some e => some (e.result, { x with
      sampler := x.sampler.filter (fun f => f != e) ++ [e]
      hits := x.hits + 1 })

/-- `sinval` (R322): the issuing tenant's entries leave the issuing die's Sampler. -/
def execSinval (u : Hdr) (s : State) : Host.Outcome State Fault Refusal :=
  uniform (.sinval u) noCheck (fun s => do
    pureNever s 6
    let x := s.die s.myDie
    let t := s.myTenant
    .ok (s.setDie s.myDie { x with sampler := x.sampler.filter (fun e => e.tenant != t) }, .fall)) s

end Sys2Proof.Machine
end

