-- ==== Sys2Proof/Machine/Region.lean ====
section
/-! DEFINITION. Parties, arrivals, the flip and the wait of a recast (R258-R266, R293-R295), and the home's own events. -/

namespace Sys2Proof.Machine
open Sys2Proof

/-- A posted `rgn.parties` is taken (R293): the first two checks of R259; a refusal fails the record. -/
def takeParties (s : State) (p : Parties) : State :=
  let d := homeOf (hBase p.handle)
  let r := hRegion p.handle
  let x := s.recx p.id.die p.id.record
  let s := if x.launch = p.id.launch then s.setRecx p.id.die p.id.record { x with pendParties := x.pendParties - 1 } else s
  let st := rgnState s d r
  let ok : Bool := r != 0 && (st == 1 || st == 2) && bits (s.rgnWord d r 0x18) 24 7 == p.tenant &&
    (boltOf s d r (hBase p.handle)).isSome
  if ok then s.setRgnWord d r 8 (putBits (s.rgnWord d r 8) 48 12 p.n.toNat) else failRecord s p.id cPERM

/-- The home takes its oldest posted request. -/
def takePosted (s : State) (d : Nat) : State :=
  match (s.die d).parties with
  | [] => s
  | p :: rest => takeParties (s.setDie d { s.die d with parties := rest }) p

/-- Take every posted request of a home. -/
def takeAllPosted : Nat → State → Nat → State
  | 0, s, _ => s
  | n + 1, s, d => takeAllPosted n (takePosted s d) d

/-- `rgn.parties` (R293). -/
def execRgnParties (u : Hdr) (h : BitVec 4) (n : BitVec 12) (s : State) : Host.Outcome State Fault Refusal :=
  let i := Instr.rgnParties u h n
  uniform i (portCheck .w i) (fun s => do
    let hb := s.me.hget h
    handleCheck s i hb none 0
    pureNever s 6
    let d := homeOf (hBase hb)
    let id := s.myLaunch
    let s := s.setDie d { s.die d with parties := (s.die d).parties ++ [⟨id, s.myTenant, hb, n⟩] }
    let x := s.recx id.die id.record
    .ok (if x.launch = id.launch then s.setRecx id.die id.record { x with pendParties := x.pendParties + 1 } else s, .fall)) s

/-- A recast as an arrival names it; `count` is the number of bolts. -/
structure Ask where
  role : Space
  dig : Bool
  conv : Bool
  first : Nat
  count : Nat
  deriving DecidableEq, Repr, Inhabited

/-- Drop each run that has the role and generation of the one before it (R258). -/
def mergeRuns : List (Nat × Space × Nat) → List (Nat × Space × Nat)
  | [] => []
  | e :: rest =>
    match mergeRuns rest with
    | [] => [e]
    | f :: t => if e.2 = f.2 then e :: t else e :: f :: t

/-- The runs after a recast (R258, R266). -/
def newRuns (rs : List (Nat × Space × Nat)) (bolts : Nat) (q : Ask) (gen : Nat) : List (Nat × Space × Nat) :=
  let hi := q.first + q.count
  let before := rs.filter (fun e => decide (e.1 < q.first))
  let after := rs.zipIdx.filterMap (fun e =>
    if hi < runEnd rs bolts e.2 then some (max e.1.1 hi, e.1.2) else none)
  mergeRuns (before ++ [(q.first, q.role, gen)] ++ after)

/-- What the pending field of a descriptor asks (R257). -/
def pendingAsk (s : State) (d r : Nat) : Ask :=
  let p := s.rgnWord d r 0x10
  let n := bits p 48 13
  ⟨spaceOf (bits p 12 2), bit p 14, bit p 15, bits p 16 32, if n = 0 then rgnBolts s d r else n⟩

/-- ARRIVED. -/
def arrivedOf (s : State) (d r : Nat) : Nat := bits (s.rgnWord d r 0x10) 0 12

/-- R265: the lowest sub-code under which an arrival is refused; 0 for none. One for other bolts than those of a recast in progress differs
from what is pending (log entry 68). A count of all of the region's bolts from bolt 0 on is the whole region (log entry 81). -/
def askRefused (s : State) (d r : Nat) (q : Ask) (first count : Nat) : Nat :=
  let bolts := rgnBolts s d r
  let rs := rgnRunList s d r
  let pend := arrivedOf s d r != 0
  let roles := (runsOver rs bolts q.first (q.first + q.count)).map (·.2.1)
  let part : Bool := !(q.first == 0 && q.count == bolts)
  let desc := s.rgnWord d r 0x18
  let (z, n) := (ringZ s d r, ringN s d r)
  let bad2 : Bool := (count == 0 && first != 0) || decide (4096 < count) || (count != 0 && decide (bolts < first + count))
  let bad5 : Bool :=
    (part && (q.dig || q.conv)) || (q.dig && q.role != .fixed) ||
    (q.conv && (!roles.contains .accrue || Fmt.ofCode (bits desc 32 6) != some .af128)) ||
    (part && (q.role == .stream || roles.contains .stream)) ||
    (q.role == .stream && (z == 0 || n == 0 || decide (65536 * bolts < n * z + 16 * n + 64)))
  if pend && pendingAsk s d r != q then 1
  else if bad2 then 2
  else if 16 < (newRuns rs bolts q (bits (s.rgnWord d r 8) 32 16 + 1)).length then 3
  else if bits (s.rgnWord d r 8) 32 16 = 0xFFFF then 4
  else if bad5 then 5
  else 0

/-- The checks of R259 on the range of an arrival (R294): true when they hold. -/
def askAllowed (s : State) (tenant : Nat) (h : HBits) (d r : Nat) (q : Ask) : Bool :=
  let st := rgnState s d r
  r != 0 && (st == 1 || st == 2) && bits (s.rgnWord d r 0x18) 24 7 == tenant &&
    (runsOver (rgnRunList s d r) (rgnBolts s d r) q.first (q.first + q.count)).all
      (fun e => e.2.1 == hSpace h && e.2.2 == hGen h)

/-- R294: ROLE's TVAL for an arrival; the first bolt is the one that S[A] names, whatever the count (log entry 82). -/
def askTval (s : State) (tenant : Nat) (h : HBits) (d r first : Nat) : Word :=
  let st := rgnState s d r
  if (st = 1 ∨ st = 2) ∧ bits (s.rgnWord d r 0x18) 24 7 = tenant ∧ first < rgnBolts s d r then
    match runAt (rgnRunList s d r) first with
    | some e => roleTval h (spaceCode e.2.1) e.2.2
    | none => roleTval h 0 0
  else roleTval h 0 0

/-- R261: the last arrival has been counted. Accrue entries released earlier are marked, so that the leaving actions wait
for them (R262). -/
def beginRecast (s : State) (d r : Nat) (q : Ask) : State :=
  let s := s.setRgnWord d r 0 (putBits (s.rgnWord d r 0) 61 2 2)
  let x := s.die d
  let hit (e : AccEntry) : Bool := hRegion e.handle == r && (match boltOf s d r e.va with
    | some b => decide (q.first ≤ b) && decide (b < q.first + q.count)
    | none => false)
  s.setDie d { x with released := x.released.map (fun e => if hit e then { e with prior := true } else e) }

/-- R260: an arrival is counted; the recast begins when ARRIVED reaches the party count read at the first arrival, or at
once when the queue manager arrives alone (R320). -/
def countArrival (s : State) (d r : Nat) (q : Ask) (raw : Nat) (alone : Option LaunchId) : State :=
  let n := arrivedOf s d r + 1
  let x := s.rgnx d r
  let x := if n = 1 then { x with need := bits (s.rgnWord d r 8) 48 12 } else x
  let x := if alone.isSome then { x with alone := alone } else x
  let s := s.setRgnx d r x
  let s := s.setRgnWord d r 0x10 (n % 2 ^ 12 + spaceCode q.role * 2 ^ 12 + b2n q.dig * 2 ^ 14 + b2n q.conv * 2 ^ 15
    + q.first % 2 ^ 32 * 2 ^ 16 + raw % 2 ^ 13 * 2 ^ 48)
  if alone.isSome ∨ x.need ≤ n then beginRecast s d r q else s

/-- `recast.arrive` (R294). TVAL of a refusal looks at the bolt that S[A] names (log entry 82). -/
def execRecastArrive (u : Hdr) (role : Space) (dig conv : Bool) (h : BitVec 4) (a c : BitVec 5) (s : State) :
    Host.Outcome State Fault Refusal :=
  let i := Instr.recastArrive u role dig conv h a c
  uniform i (portCheck .w i) (fun s => do
    let hb := s.me.hget h
    handleCheck s i hb none 0
    pureNever s 6
    let d := homeOf (hBase hb)
    let r := hRegion hb
    let t := s.myTenant
    let (first, count) := ((s.sget a).toNat, (s.sget c).toNat)
    let s := match s.kore.stitch with
      | some st => modStitch (releaseStitch s st.id st.lin
          (fun e => hRegion e.handle == r && homeOf e.va == d)) s.myCore st.id (fun st => { st with restartable := false })
      | none => s
    let s := takeAllPosted (s.die d).parties.length s d
    let q : Ask := ⟨role, dig, conv, first, if count = 0 then rgnBolts s d r else count⟩
    let busy := rgnState s d r == 2 &&
      (let p := pendingAsk s d r
       decide (q.first < p.first + p.count) && decide (p.first < q.first + q.count))
    if busy && bits (s.rgnWord d r 0x18) 24 7 == t && r != 0 then .error (.wait s .arrive none)
    else if !askAllowed s t hb d r q then raise s cROLE (askTval s t hb d r first)
    else
      let sub := askRefused s d r q first count
      if sub ≠ 0 then raise s cROLE (askTval s t hb d r first) (BitVec.ofNat 8 sub)
      else
        let s := countArrival s d r q count none
        .ok (s.setMe (s.me.hset h (hput hb 0 2 (spaceCode role))), .fall)) s

/-- R264: a recast over the extent is pending, or a run has not the handle's role or is older than its GEN. -/
def recastPending (s : State) (hb : HBits) : Bool := !(waitingRuns s hb).isEmpty

/-- `recast.wait` (R264, R295). -/
def execRecastWait (u : Hdr) (h : BitVec 4) (lim : BitVec 12) (s : State) : Host.Outcome State Fault Refusal :=
  let i := Instr.recastWait u h lim
  uniform i (portCheck .m i) (fun s => do
    let hb := s.me.hget h
    handleCheck s i hb none 0
    let d := homeOf (hBase hb)
    let r := hRegion hb
    let st := rgnState s d r
    let base := rgnBase s d r
    let at' := vaOff (hBase hb)
    let live : Bool := r != 0 && (st == 1 || st == 2) && vaDie (hBase hb) == rgnDie d r && decide (base ≤ at') &&
      decide (extentEnd hb < base + 65536 * rgnBolts s d r) && bits (s.rgnWord d r 0x18) 24 7 == s.myTenant
    if !live then raise s cPERM ((hBase hb).setWidth 64)
    else
      if recastPending s hb then .error (.wait s (.recast h hb) (some (limOf lim)))
      else
        match extentRuns s hb with
        | [] => raise s cPERM ((hBase hb).setWidth 64)
        | e :: rest =>
          if rest.any (fun f => f.2.2 != e.2.2) then raise s cROLE (roleTval hb (spaceCode e.2.1) e.2.2) 6
          else
            let g := hGen hb
            let x := s.rgnx d r
            let v := hput hb 2 16 e.2.2
            let v := hput v 255 1 (b2n (bit (s.rgnWord d r 0x18) 31))
            let v := if g < x.convGen.toNat then hput (hput v 92 6 0x08) 230 12 0 else v
            let lo := (at' - base) / 65536
            let hi := (extentEnd hb - base) / 65536 + 1
            let met := x.poisoned.any (fun p => decide (g < p.1) && decide (p.2.1 < hi) && decide (lo < p.2.2))
            let v := if met then hput v 253 1 1 else v
            .ok (s.setMe (s.me.hset h v), .fall)) s

/-! The flip (R261-R263). -/

/-- The places of the 256-byte blocks of a region from block b on; none when one cannot be reached. -/
def regionBlocks (s : State) (sp : Space) (d r : Nat) : Nat → Nat → Option (List Nat)
  | 0, _ => some []
  | n + 1, b =>
    match placeOf s sp (rgnVa s d r (256 * b)) with
    | none => none
    | some k => (regionBlocks s sp d r n (b + 1)).map (k :: ·)

/-- A block of 64 FP32 results of a conversion (R44, R263): elements 64 j to 64 j + 63 of the containers. -/
def convertBlock (s : State) (d r : Nat) (aflsb : Int) (src : List Nat) (elems j : Nat) : PRow × Flags :=
  let es := (upto 64).map (fun q =>
    let i := 64 * j + q
    if i < elems then
      let k := src.getD (i / 16) 0
      let b := (tget 0 (s.die d).bounds (r * 2 ^ 47 + (rgnBase s d r) / 16 + i)).toNat
      let x := afToF32 aflsb (s.num (k + 16 * (i % 16)) 16) b
      { x with poison := x.poison || s.blockPoison k }
    else ⟨0, {}, false⟩)
  (⟨rowOfElems 32 (es.map (·.code)), es.any (·.poison)⟩, es.foldl (fun (f : Flags) (x : Rounded) => f.join x.fl) {})

/-- Conversion of a whole region (R263): the rows to write, and the conditions. -/
def convertAll (s : State) (d r : Nat) (aflsb : Int) (src : List Nat) : List (PRow × Flags) :=
  (List.range src.length).map (convertBlock s d r aflsb src (16 * src.length))

/-- Whether the blocks of the saturated containers of a bolt range can be reached: the flip waits for them (R44; log entry 35). -/
def saturatedReach (s : State) (d r lo hi : Nat) : Bool :=
  let base := rgnBase s d r
  let rs := rgnRunList s d r
  (s.die d).bounds.all (fun e =>
    let off := e.1 % 2 ^ 47 * 16
    let b := (off - base) / 65536
    !(e.1 / 2 ^ 47 == r && decide (base ≤ off) && decide (lo ≤ b) && decide (b < hi) && e.2.toNat == boundSat) ||
      (placeOf s (match runAt rs b with | some e => e.2.1 | none => .accrue) (rgnVa s d r (off - base))).isSome)

/-- The containers of a bolt range with saturated bounds poison their blocks (R44), each where its run's space translates it. -/
def saturatedPoison (s : State) (d r lo hi : Nat) : State × Bool :=
  let base := rgnBase s d r
  let rs := rgnRunList s d r
  (s.die d).bounds.foldl (fun (a : State × Bool) (e : Nat × BitVec 32) =>
    let off := e.1 % 2 ^ 47 * 16
    let b := (off - base) / 65536
    if e.1 / 2 ^ 47 = r ∧ base ≤ off ∧ lo ≤ b ∧ b < hi ∧ e.2.toNat = boundSat then
      match placeOf a.1 (match runAt rs b with | some e => e.2.1 | none => .accrue) (rgnVa s d r (off - base)) with
      | some k => (a.1.setBlockPoison k true, true)
      | none => a
    else a) (s, false)

/-- Clear the bound words of a bolt range (R41, R248). -/
def clearBounds (s : State) (d r lo hi : Nat) : State :=
  let base := rgnBase s d r
  let x := s.die d
  s.setDie d { x with bounds := x.bounds.filter (fun (e : Nat × BitVec 32) =>
    let off := e.1 % 2 ^ 47 * 16
    !(e.1 / 2 ^ 47 == r && decide (base + 65536 * lo ≤ off) && decide (off < base + 65536 * hi))) }

/-- R262: replicas of a bolt range go, and the bits of dies left with none of the region. -/
def dropReplicas (s : State) (d r lo hi : Nat) : State :=
  let of (e : Replica) : Bool := e.home == d && e.region == r
  let bolt (e : Replica) : Nat := (vaOff e.va - rgnBase s d r) / 65536
  let keep (e : Replica) : Bool := !(of e && decide (lo ≤ bolt e) && decide (bolt e < hi))
  let s := { s with dies := s.dies.map (fun (e : Nat × Die) => (e.1, { e.2 with replicas := e.2.replicas.filter keep })) }
  let mask := (upto 24).foldl (fun m j =>
    if (s.die j).replicas.any of then m + 2 ^ j else m) 0
  let w := s.rgnWord d r 0x18
  s.setRgnWord d r 0x18 (putBits w 0 24 (Nat.land (bits w 0 24) mask))

/-- Write rows at places. -/
def putRows (s : State) : List (Nat × PRow) → State
  | [] => s
  | (k, r) :: rest => putRows (s.setRowAt k r) rest

/-- The addresses a skein entry touches. -/
def SkeinEntry.touches (e : SkeinEntry) : List (BitVec 56) :=
  match e.op with
  | .store cells pb cl => (cells.map (fun (c : Nat × Byte × Part) => c.1) ++ pb.map (256 * ·) ++ cl.map (256 * ·)).map (fun o => e.va + BitVec.ofNat 56 o)
  | .accrue a => (upto a.op.size).map (fun i => a.va + BitVec.ofNat 56 i)
  | .amo _ _ _ f _ _ => (upto (if f.w64 then 8 else 4)).map (fun i => e.va + BitVec.ofNat 56 i)

/-- Whether a request that a home holds touches some blocks of its die, `meets` by region and block. -/
def HeldReq.touches (t : HeldReq) (d : Nat) (meets : Nat → Nat → Bool) : Bool := t.home == d && t.blocks.any (meets t.region)

/-- Whether no request waits that a home has taken and that touches some blocks: one released, a strand's, a running command's, or a
row's or a message's of a collective (R261, R328). -/
def noneTaken (s : State) (d : Nat) (meets : Nat → Nat → Bool) : Bool :=
  let free (t : Option HeldReq) : Bool := !t.any (·.touches d meets)
  (s.die d).released.all (fun e => !(e.prior && meets (hRegion e.handle) (e.va.toNat / 65536))) &&
    s.strands.all (fun (e : Nat × Strand) => free e.2.taken) &&
    s.cores.all (fun (e : Nat × Core) => e.2.eng.all (fun g => g.2.running.all (fun c => free c.taken))) &&
    s.clusters.all (fun (e : Nat × Cluster) => e.2.running.all (fun c => free c.taken)) &&
    s.dies.all (fun (e : Nat × Die) => e.2.colls.all (fun c =>
      c.tookTiles.all (fun t => free (some t.2)) && c.tookMessages.all (fun t => free (some t.2))))

/-- Whether a 64 KiB block is a bolt of a region among some bolts. -/
def blockInBolts (s : State) (d r first count block : Nat) : Bool :=
  (boltOf s d r (BitVec.ofNat 56 (65536 * block))).any (fun b => decide (first ≤ b) && decide (b < first + count))

/-- The home's own words of a ring: headers and pointer block (R246). -/
def ringOwnWords (s : State) (d r : Nat) : List (BitVec 56) :=
  (upto (2 * ringN s d r)).map (fun j => rgnVa s d r (ringN s d r * ringZ s d r + 8 * j)) ++
    (upto 8).map (fun w => ringPtrVa s d r w)

/-- Whether the flip's conditions hold: requests taken earlier have been performed, the ring is quiescent, the skein holds
nothing for the range (R261 steps 1 and 2), and the home reaches the words it has to clear (R262). -/
def flipReady (s : State) (d r : Nat) (q : Ask) : Bool :=
  let inRange (va : BitVec 56) : Bool := match boltOf s d r va with
    | some b => decide (q.first ≤ b) && decide (b < q.first + q.count)
    | none => false
  let roles := (runsOver (rgnRunList s d r) (rgnBolts s d r) q.first (q.first + q.count)).map (·.2.1)
  let x := s.die d
  rgnState s d r == 2 && (!roles.contains .stream || ringQuiet s d r) &&
    (q.role != .stream || (ringOwnWords s d r).all (fun va => (placeOf s .stream va).isSome)) &&
    x.skein.all (fun e => !e.touches.any inRange) &&
    noneTaken s d (fun t block => t == r && blockInBolts s d r q.first q.count block)

/-- R320: the pure record whose output the queue manager recast becomes Done and inserts its result. -/
def finishPure (s : State) (id : LaunchId) (gen : Nat) (conv : Bool) : State :=
  let x := s.recx id.die id.record
  if x.launch ≠ id.launch ∨ s.recState id.die id.record ≠ 4 then s
  else
    let h := hput (hput (hput x.outHandle 0 2 0) 2 16 gen) 255 1 1
    let h := if conv then hput (hput h 92 6 0x08) 230 12 0 else h
    let s := s.setDie id.die (samplerInsert (s.die id.die) (s.recTenant id.die id.record) x.key h)
    doneRecord s id.die id.record x.orWord false (some h)

/-- The bytes of a region's blocks. -/
def blocksBytes (s : State) (ks : List Nat) : List Byte := ks.flatMap (fun k => s.bytes k 256)

/-- R261: the flip of a recast. A conversion or a digest takes every block of the region through the space of its first run (log entry 65). -/
def flip (s : State) (d r : Nat) : State :=
  let q := pendingAsk s d r
  if !flipReady s d r q then s
  else
    let bolts := rgnBolts s d r
    let hi := q.first + q.count
    let old := runsOver (rgnRunList s d r) bolts q.first hi
    let roles := old.map (·.2.1)
    let sp := roles.headD .loose
    let desc := s.rgnWord d r 0x18
    let leavesAcc := roles.contains .accrue
    let need := q.conv || q.dig
    match (if need then regionBlocks s sp d r (256 * bolts) 0
        else if leavesAcc && !saturatedReach s d r q.first hi then none else some []) with
    | none => s
    | some ks =>
      let s := if roles.contains .fixed then dropReplicas s d r q.first hi else s
      let (s, fl, poisoned) : State × Flags × Bool :=
        if q.conv then
          let rows := convertAll s d r (sext 12 (bits desc 40 12)) ks
          let s := putRows s (ks.zip (rows.map (·.1)))
          (s, rows.foldl (fun (f : Flags) (x : PRow × Flags) => f.join x.2) {}, rows.any (·.1.poison))
        else if leavesAcc then
          let (s, p) := saturatedPoison s d r q.first hi
          (s, {}, p)
        else (s, {}, false)
      let s := if leavesAcc || q.role == .accrue then clearBounds s d r q.first hi else s
      let gen := bits (s.rgnWord d r 8) 32 16 + 1
      let w := s.rgnWord d r 0x18
      let w := if roles.contains .fixed then putBits w 31 1 0 else w
      let w := if q.conv then putBits (putBits w 32 6 0x08) 40 12 0 else w
      let s := s.setRgnWord d r 0x18 w
      let (hk, kk) := tenantKeys s d (bits w 24 7)
      let s := if q.dig then
          let s := s.setNum (rgnKey s d r + 0x20) 16 (digest hk kk (blocksBytes s ks)).toNat
          let s := s.setRgnWord d r 0x30 (65536 * bolts)
          s.setRgnWord d r 0x18 (putBits (s.rgnWord d r 0x18) 31 1 1)
        else s
      let s := s.setRgnWord d r 0x38 (putBits (s.rgnWord d r 0x38) 32 3 (b2n fl.nv + 2 * b2n fl.ov + 4 * b2n poisoned))
      let s := if q.role = .stream then
          (ringOwnWords s d r).foldl (fun s va => setHomeWord s .stream va 0) s
        else s
      let rs := newRuns (rgnRunList s d r) bolts q gen
      let s := rs.zipIdx.foldl (fun s (e : (Nat × Space × Nat) × Nat) =>
        s.setRgnWord d r (0x40 + 8 * e.2) (e.1.1 % 2 ^ 32 + spaceCode e.1.2.1 * 2 ^ 32 + e.1.2.2 % 2 ^ 16 * 2 ^ 34)) s
      let s := ((upto 16).filter (fun j => decide (rs.length ≤ j))).foldl (fun s j => s.setRgnWord d r (0x40 + 8 * j) 0) s
      let s := s.setRgnWord d r 8 (putBits (putBits (s.rgnWord d r 8) 32 16 gen) 60 4 (rs.length - 1))
      let s := s.setRgnWord d r 0x10 0
      let s := s.setRgnWord d r 0 (putBits (s.rgnWord d r 0) 61 2 1)
      let x := s.rgnx d r
      let s := s.setRgnx d r { x with
        convGen := if q.conv then BitVec.ofNat 16 gen else x.convGen
        poisoned := if poisoned then (gen, q.first, hi) :: x.poisoned else x.poisoned
        need := 0
        alone := none
        ringPoison := if q.role = .stream then false else x.ringPoison
        ended := if q.role = .stream then false else x.ended }
      let s := samplerInvalidate s d r
      match x.alone with
      | some id => finishPure s id gen q.conv
      | none => s

/-! The end of a record (R300, R320). -/

/-- Whether a Running record has nothing left to wait for: every stitch retired, every released entry performed or
failed, every posted `rgn.parties` taken (R300). -/
def recordSettled (s : State) (d n : Nat) : Bool :=
  let x := s.recx d n
  s.recState d n == 4 && x.retired == x.total && x.pendAcc == 0 && x.pendParties == 0 && x.suspended == []

/-- R320: the queue manager arrives alone on the declared output region of a pure record, unless a recast of it is in
progress. A refused recast fails the record with ROLE. -/
def arriveAlone (s : State) (d n : Nat) : State :=
  let x := s.recx d n
  let h := x.outHandle
  let od := homeOf (hBase h)
  let r := hRegion h
  let s := takeAllPosted (s.die od).parties.length s od
  let id : LaunchId := ⟨d, n, x.launch⟩
  let af : Bool := Fmt.ofCode (bits (s.rgnWord od r 0x18) 32 6) == some .af128
  let conv := af && (rgnRun s od r 0).2.1 == .accrue
  let q : Ask := ⟨.fixed, true, conv, 0, rgnBolts s od r⟩
  if rgnState s od r = 2 then s
  else if !askAllowed s (s.recTenant d n) h od r q || askRefused s od r q 0 0 != 0 then failRecord s id cROLE
  else countArrival (s.setRecx d n { x with recasting := true }) od r q 0 (some id)

/-- R300, R320: a record that is settled reaches Done; a pure one recasts its output first. -/
def checkDone (s : State) (d n : Nat) : State :=
  let x := s.recx d n
  if !recordSettled s d n || x.recasting then s
  else if x.pure then arriveAlone s d n
  else doneRecord s d n x.orWord false x.out

/-- Every record a queue manager keeps. -/
def checkAllDone (s : State) : State :=
  s.dies.foldl (fun s (e : Nat × Die) => e.2.recx.foldl (fun s (r : Nat × RecX) => checkDone s e.1 r.1) s) s

/-- HOME_ACCESS (R259, R293): the home takes the oldest posted request. -/
def execHomeAccess (die : Nat) (s : State) : Host.Outcome State Fault Refusal :=
  event (.ok (checkAllDone (takePosted s die)))

/-- RECAST_FLIP (R261). -/
def execRecastFlip (die region : Nat) (s : State) : Host.Outcome State Fault Refusal :=
  event (.ok (checkAllDone (flip s die region)))

/-! Released Accrue entries (R222). -/

/-- Whether a recast, a migration or a stopped clock holds a released entry (R259, R328, R368). -/
def entryHeld (s : State) (d : Nat) (e : AccEntry) : Bool :=
  s.frozen e.core || (!e.prior && (migHolds s e.va || (match boltOf s d (hRegion e.handle) e.va with
    | some b => inRecast s d (hRegion e.handle) b
    | none => false)))

/-- Perform the first of the released entries `rest` that is not held, after those in `front`. A full skein holds the later entries of
the same core with the first that finds it full, and no other's (R271; log entry 67). -/
def tryReleased (s : State) (d : Nat) (cores : List Nat) (front : List AccEntry) : List AccEntry → Ev
  | [] => .ok s
  | e :: rest =>
    if entryHeld s d e || cores.contains e.core then tryReleased s d cores (front ++ [e]) rest
    else
      match performEntry (s.setDie d { s.die d with released := front ++ rest }) e with
      | .done s => .ok (checkAllDone s)
      | .failed s _ => .ok s
      | .held t =>
        tryReleased (t.setDie d { t.die d with released := front ++ e :: rest }) d (e.core :: cores) (front ++ [e]) rest
      | .nowhere k => .error (.noStorage k)

/-- ACCRUE_ENTRY_PERFORM (R222). -/
def performReleased (s : State) (d : Nat) : Ev := tryReleased s d [] [] (s.die d).released

/-- ACCRUE_ENTRY_PERFORM (R222). -/
def execAccrueEntryPerform (die : Nat) (s : State) : Host.Outcome State Fault Refusal := event (performReleased s die)

end Sys2Proof.Machine
end

