-- ==== Sys2Proof/Machine/Tasks.lean ====
section
/-! DEFINITION. The record and job instructions (R298-R308) and a record's pricking (R216-R218). -/

namespace Sys2Proof.Machine
open Sys2Proof

/-- Whether a value names a record or a job (R298). -/
def nameLegal (w : Word) : Bool := decide (w.toNat < 2 ^ 17) && decide (nameDie w ≤ 23)

/-- PERM with a sub-code (R301). -/
def recRefuse {α : Type} (s : State) (w : Word) (sub : Nat) : Except Halt α := raise s cPERM w (BitVec.ofNat 8 sub)

/-- The opening checks of an instruction that names a record: PURITY, the name, the record's tenant (R301). -/
def recOpen (s : State) (w : Word) : Except Halt Unit := do
  pureNever s 6
  if !nameLegal w then recRefuse s w 1
  else if s.recTenant (nameDie w) (nameNum w) ≠ s.myTenant then recRefuse s w 2
  else .ok ()

/-- The limits of R299 on a patched value. -/
def patchLegal (f : Nat) (v : Nat) : Bool :=
  if f = 0 then v % 2 ^ 9 == 0 && decide (v < 2 ^ 56)
  else if f = 1 then decide (v ≤ 47)
  else if f = 2 then decide (0 < v) && decide (v < 2 ^ 16)
  else if f = 3 then decide (v < 2 ^ 16)
  else if f = 4 then bits v 56 7 == 0 && bits v 32 24 != 0
  else if f = 5 then decide (v < 2 ^ 17) && decide (bits v 12 5 ≤ 23)
  else if f = 6 then bits v 19 44 == 0 && decide (bits v 12 5 ≤ 23)
  else decide (8 ≤ f) && decide (f ≤ 23)

/-- Entries of a matching table (R312). -/
def matchSize : Nat := 1024

/-- What the arbiter makes of a patch: R301's sub-code, or none when it is taken. The state is looked at before the value (log entry 85). -/
def patchRefused (s : State) (d n f v : Nat) : Option Nat :=
  let st := s.recState d n
  let x := s.die d
  if st = 2 ∨ st = 3 ∨ st = 4 ∨ st = 7 then some 3
  else if !patchLegal f v then some 4
  else if f = 4 ∧ bit v 63 ∧ (x.matching.any (fun e => e.tag.toNat == v % 2 ^ 32) ∨ matchSize ≤ x.matching.length) then some 4
  else none

/-- Whether a patch would carry its tenant past its matching-table limit (R368). -/
def patchLimited (s : State) (d t f v : Nat) : Bool :=
  let x := s.die d
  f == 4 && bit v 63 && decide (tlimMt x t < (x.matching.filter (fun e => e.tenant == t)).length + 1)

/-- Write one field of a record (R299). -/
def patchField (s : State) (d n f v : Nat) : State :=
  if f = 0 then s.setRecWord d n 8 v
  else if f = 1 then (s.setRecBits d n 0 16 6 v).setRecBits d n 0 10 6 v
  else if f = 2 then s.setRecBits d n 0x10 0 16 v
  else if f = 3 then s.setRecBits d n 0x10 16 16 v
  else if f = 4 then
    let s := s.setRecWord d n 0x18 v
    if bit v 63 then
      let x := s.die d
      s.setDie d { x with matching := x.matching ++
        [⟨BitVec.ofNat 32 v, bits v 32 24, 0, n, s.recTenant d n⟩] }
    else s
  else if f = 5 then s.setRecBits d n 0x10 32 17 v
  else if f = 6 then s.setRecWord d n 0x20 v
  else
    let k := f - 8
    (s.setRecWord d n (0x40 + 8 * k) v).setRecBits d n 0x28 k 1 1

/-- R300, R302: a patch that is taken: from Done or Failed, STATUS, REUSED and OVR fall first. -/
def patchRecord (s : State) (d n f v : Nat) : State :=
  let st := s.recState d n
  let s := if st = 5 ∨ st = 6 then
      ((s.setRecBits d n 0 32 32 0).setRecBits d n 0 9 1 0).setRecBits d n 0x28 0 16 0
    else s
  (patchField s d n f v).setRecBits d n 0 0 3 1

/-- `lrec.patch` (R302). -/
def execLrecPatch (u : Hdr) (a f b : BitVec 5) (s : State) : Host.Outcome State Fault Refusal :=
  let i := Instr.lrecPatch u a f b
  uniform i (portCheck .w i) (fun s => do
    let w := s.sget a
    let v := (s.sget b).toNat
    recOpen s w
    match patchRefused s (nameDie w) (nameNum w) f.toNat v with
    | some sub => recRefuse s w sub
    | none =>
      if patchLimited s (nameDie w) s.myTenant f.toNat v then
        .error (.wait (freezeCore s (nameDie w) s.myCore 2) .held none)
      else .ok (patchRecord s (nameDie w) (nameNum w) f.toNat v, .fall)) s

/-- `lrec.arm` (R303). It waits while the page of the record's pricking moves (R328). -/
def execLrecArm (u : Hdr) (a : BitVec 5) (s : State) : Host.Outcome State Fault Refusal :=
  let i := Instr.lrecArm u a
  uniform i (portCheck .w i) (fun s => do
    let w := s.sget a
    recOpen s w
    match armRecord s s.myTenant (nameDie w) (nameNum w) with
    | .ok t =>
      if armHeld s s.myTenant (nameDie w) (nameNum w) then .error (.wait s .held none) else .ok (t, .fall)
    | .error sub => recRefuse s w sub) s

/-- `lrec.wait` (R305). -/
def execLrecWait (u : Hdr) (d a : BitVec 5) (lim : BitVec 12) (s : State) : Host.Outcome State Fault Refusal :=
  uniform (.lrecWait u d a lim) noCheck (fun s => do
    let w := s.sget a
    recOpen s w
    let st := s.recState (nameDie w) (nameNum w)
    if st ≠ 5 ∧ st ≠ 6 then .error (.wait s (.lrec w) (some (limOf lim)))
    else
      let r := s.recWord (nameDie w) (nameNum w) 0
      .ok (s.sset d (BitVec.ofNat 64 (st + bits r 9 1 * 8 + bits r 32 32 * 2 ^ 32)), .fall)) s

/-- The opening checks of a job instruction (R301, R307). -/
def jobOpen (s : State) (w : Word) : Except Halt Unit := do
  pureNever s 6
  if !nameLegal w then recRefuse s w 1
  else if (s.job (nameDie w) (nameNum w)).tenant.toNat ≠ s.myTenant then recRefuse s w 2
  else .ok ()

/-- `job.count` (R308). -/
def execJobCount (u : Hdr) (d a : BitVec 5) (s : State) : Host.Outcome State Fault Refusal :=
  uniform (.jobCount u d a) noCheck (fun s => do
    let w := s.sget a
    jobOpen s w
    .ok (s.sset d ((s.job (nameDie w) (nameNum w)).count.setWidth 64), .fall)) s

/-- `job.wait` (R308). -/
def execJobWait (u : Hdr) (a : BitVec 5) (lim : BitVec 12) (s : State) : Host.Outcome State Fault Refusal :=
  uniform (.jobWait u a lim) noCheck (fun s => do
    let w := s.sget a
    jobOpen s w
    if (s.job (nameDie w) (nameNum w)).count = 0 then .ok (s, .fall)
    else .error (.wait s (.job w) (some (limOf lim)))) s

/-! Prickings (R216). -/

/-- DIMS, VDIM, bounds, tiles, tile counts. -/
def pkDims (bs : List Byte) : Nat := bits (wordAt bs 0) 8 3
/-- VDIM. -/
def pkVdim (bs : List Byte) : Nat := bits (wordAt bs 0) 24 3
/-- Bound of dimension d. -/
def pkBound (bs : List Byte) (d : Nat) : Nat := word32At bs (0x10 + 4 * d)
/-- Tile size of dimension d. -/
def pkTile (bs : List Byte) (d : Nat) : Nat := word32At bs (0x28 + 4 * d)
/-- ORDER field i. -/
def pkOrder (bs : List Byte) (i : Nat) : Nat := bits (wordAt bs 8) (3 * i) 3
/-- N_d: the number of tiles of dimension d. -/
def pkN (bs : List Byte) (d : Nat) : Nat :=
  if pkDims bs ≤ d then 1 else (pkBound bs d + pkTile bs d - 1) / pkTile bs d
/-- Number of stitches. -/
def pkTotal (bs : List Byte) : Nat := ((upto 6).map (pkN bs)).foldl (· * ·) 1
/-- Whether placement is free. -/
def pkFree (bs : List Byte) : Bool := bit (wordAt bs 0) 11
/-- Whether the pure bit is set. -/
def pkPure (bs : List Byte) : Bool := bit (wordAt bs 0) 12
/-- Whether strand i has a section. -/
def pkSect (bs : List Byte) (i : Nat) : Bool := bit (wordAt bs 0) (13 + i)
/-- Code region VA. -/
def pkCode (bs : List Byte) : BitVec 56 := BitVec.ofNat 56 (wordAt bs 0x88)

/-- Whether a pricking keeps the limits of R216. -/
def pkLegal (bs : List Byte) : Bool :=
  let n := pkDims bs
  let has (d : Nat) : Bool := decide (0 < pkBound bs d) && decide (0 < pkTile bs d)
  bits (wordAt bs 0) 0 8 == 1 && decide (1 ≤ n) && decide (n ≤ 6) && decide (pkVdim bs ≤ 5) &&
    bits (wordAt bs 0) 16 8 != 0 &&
    (upto n).all (fun d => (upto n).any (fun i => pkOrder bs i == d)) &&
    (upto 6).all (fun d => !(decide (d < n) || d == pkVdim bs) || has d) &&
    decide (pkTotal bs ≤ 2 ^ 32) && decide (bits (wordAt bs 0x58) 40 17 ≤ 65536)

/-- Tile indices of walker position q: ORDER[0] changes fastest (R217). -/
def walkIdx (bs : List Byte) : List Nat → Nat → List (Nat × Nat)
  | [], _ => []
  | i :: is, q => let d := pkOrder bs i; (d, q % pkN bs d) :: walkIdx bs is (q / pkN bs d)

/-- Tile index of dimension d at position q. -/
def tileIdx (bs : List Byte) (q d : Nat) : Nat :=
  match (walkIdx bs (upto (pkDims bs)) q).find? (fun e => e.1 == d) with
  | some e => e.2
  | none => 0

/-- The linear stitch number (R217). -/
def linearOf (bs : List Byte) (q : Nat) : Nat :=
  (upto 6).reverse.foldl (fun r d => tileIdx bs q d + pkN bs d * r) 0

/-- The steward core of a die (R367). -/
def stewardOf (d : Nat) : Nat := (d * 16 + 15) * 8 + 7

/-- The region of a die that holds an address (R257). -/
def regionAt (s : State) (va : BitVec 56) : Option Nat :=
  let d := homeOf va
  (List.range (2 ^ 18)).find? (fun r =>
    r != 0 && (rgnState s d r == 1 || rgnState s d r == 2) && (boltOf s d r va).isSome)

/-- Positions of the participant of logical index g of P under fixed placement (R218). -/
def fixedRange (g p n : Nat) : Nat × Nat := (g * n / p, (g + 1) * n / p)

end Sys2Proof.Machine
end

