-- ==== Sys2Proof/Machine/Queue.lean ====
section
/-! DEFINITION. The queue manager (R309-R311, R381), the task key (R317), and the start and retirement of stitches (R81,
R82, R217-R220, R313). -/

namespace Sys2Proof.Machine
open Sys2Proof

/-- EPRIO of a record. -/
def State.recEprio (s : State) (d n : Nat) : Nat := bits (s.recWord d n 0) 10 6

/-- Whether the queue manager may offer a core: it has no stitch, is no steward, and its clock runs (R309, R367, R368). -/
def coreFree (s : State) (c : Nat) : Bool := (s.core c).stitch.isNone && !isSteward c && !s.frozen c

/-- The pricking of a record as the queue manager reads it; an unreadable one breaks every limit. -/
def pkOf (s : State) (d n : Nat) : List Byte := ((recPricking s d n).2).getD []

/-- What a record has for a free core. -/
inductive Work where
  | dispatch
  | resume (k : Nat)
  | rerun (k : Nat)
  | fresh (pos : Nat)
  deriving DecidableEq, Repr, Inhabited

/-- Index of the first entry of a list that a test selects. -/
def firstIdx {α : Type} (p : α → Bool) (xs : List α) : Option Nat := (xs.zipIdx.find? (fun e => p e.1)).map (·.2)

/-- The next position of a core of a Running record that has not been issued: the record's counter under free placement
(R219), the core's own range under fixed placement (R218). `g` is the core's logical index of `p`. -/
def nextPos (x : RecX) (free : Bool) (g p : Nat) : Option Nat :=
  if free then (if x.next < x.total then some x.next else none)
  else
    let (lo, hi) := fixedRange g p x.total
    let at' := lo + tget 0 x.done g
    if at' < hi then some at' else none

/-- What a Ready record has for a free core of its cluster set (R309): nothing until every participant is free under fixed
placement. A record that will fail its checks is chosen like any other: one under fixed placement with a steward among its
participants is offered to every core of its cluster set (R381). -/
def readyWork (s : State) (d n c : Nat) : Option Work :=
  let bs := pkOf s d n
  let ps := coresOf s d n bs
  if dieOfCore c ≠ d ∨ !bit (recCset s d n) (c % 128 / 8) then none
  else if !pkLegal bs then some .dispatch
  else if !ps.contains c && (pkFree bs || !ps.any isSteward) then none
  else if pkFree bs || ps.all (fun k => (s.core k).stitch.isNone && !s.frozen k) then some .dispatch
  else none

/-- What a Running record has for a free core (R218-R220). A core's block holds one save at a time, so no other stitch of the
record starts on it while its block holds one (log entry 3). -/
def runningWork (s : State) (d n c : Nat) : Option Work :=
  let bs := pkOf s d n
  let ps := coresOf s d n bs
  let x := s.recx d n
  match firstIdx (fun k => k == c) ps with
  | none => none
  | some g =>
    match (firstIdx (fun (e : Suspended) => e.saved && e.part == g) x.suspended).or
        (if pkFree bs then firstIdx (fun (e : Suspended) => e.saved) x.suspended else none) with
    | some k => some (.resume k)
    | none =>
      match firstIdx (fun (e : Suspended) => !e.saved && (pkFree bs || e.part == g)) x.suspended with
      | some k => some (.rerun k)
      | none => (nextPos x (pkFree bs) g ps.length).map .fresh

/-- What a record has for a free core. -/
def workFor (s : State) (d n c : Nat) : Option Work :=
  if prickHeld s d n then none
  else match s.recState d n with
  | 3 => readyWork s d n c
  | 4 => runningWork s d n c
  | _ => none

/-- How far a tenant stands from the round-robin pointer (R309). -/
def tenantTurn (s : State) (d n : Nat) : Nat := (s.recTenant d n + 128 - (s.die d).rrTenant % 128) % 128

/-- R309: whether record a is chosen before b. -/
def recBefore (s : State) (d a b : Nat) : Bool :=
  let (pa, pb) := (s.recEprio d a, s.recEprio d b)
  let (ta, tb) := (tenantTurn s d a, tenantTurn s d b)
  if pa ≠ pb then decide (pb < pa) else if ta ≠ tb then decide (ta < tb)
  else decide ((s.recx d a).order < (s.recx d b).order)

/-- Put a record among others, the worst first. -/
def placeRec (s : State) (d n : Nat) : List Nat → List Nat
  | [] => [n]
  | m :: ms => if recBefore s d n m then m :: placeRec s d n ms else n :: m :: ms

/-- The records of a die, the one chosen first last. -/
def worstFirst (s : State) (d : Nat) : List Nat := (s.die d).recx.foldl (fun ms (e : Nat × RecX) => placeRec s d e.1 ms) []

/-- The cores that a Ready record needs all at once: its participants under fixed placement, when it passes the checks that it would
fail on any core (R309, R381). -/
def startsOn (s : State) (d n : Nat) : List Nat :=
  let bs := pkOf s d n
  let ps := coresOf s d n bs
  if s.recState d n = 3 ∧ pkLegal bs ∧ !pkFree bs ∧ !ps.any isSteward then ps else []

/-- The record of a list, the worst first, that wins a free core, and what it has for it: the best, but for one under fixed placement
that a better one leaves short of a participant (R309). -/
def winnerOf (s : State) (d : Nat) : List Nat → Nat → Option (Nat × Work)
  | [], _ => none
  | n :: better, c =>
    match winnerOf s d better c with
    | some w => some w
    | none => match workFor s d n c with
      | none => none
      | some w => if (startsOn s d n).all (fun k => (winnerOf s d better k).isNone) then some (n, w) else none

/-- The record a free core is offered to, and what it has for the core. -/
def winner (s : State) (c : Nat) : Option (Nat × Work) :=
  if !coreFree s c then none else winnerOf s (dieOfCore c) (worstFirst s (dieOfCore c)) c

/-- The pointer advances past a tenant that has been served: one whose record has started or resumed a stitch (R309; log entry 69). -/
def serve (s : State) (d n : Nat) : State := s.setDie d { s.die d with rrTenant := (s.recTenant d n + 1) % 128 }

/-! Starting a stitch. -/

/-- The partition of a pricking: as written, or the 2,048 rows divided among the strands with sections (R102). -/
def pkPart (bs : List Byte) : BitVec 24 :=
  let w := bits (wordAt bs 0x58) 0 24
  if w ≠ 0 then BitVec.ofNat 24 w
  else
    let k := ones 3 (bits (wordAt bs 0) 13 3)
    let each := if k = 0 then 0 else 128 / k
    BitVec.ofNat 24 (joinElems 8 ((upto 3).map (fun i => if pkSect bs i then each else 0)))

/-- R102: the checks on the partition. -/
def partLegal (bs : List Byte) (part : BitVec 24) : Bool :=
  decide (bits part.toNat 0 8 + bits part.toNat 8 8 + bits part.toNat 16 8 ≤ 128) &&
    (upto 3).all (fun i => !pkSect bs i || decide (256 ≤ partSize part i))

/-- R82: the rows of every partition become zero and clean; after a stitch of the same launch, v0 to v255 are kept. -/
def startRows (k : Core) (part : BitVec 24) (keep : Bool) : List (Nat × PRow) :=
  let inPart (j : Nat) : Option Nat :=
    (upto 3).findSome? (fun i =>
      let b := partBase part i
      if b ≤ j ∧ j < b + partSize part i then some (j - b) else none)
  k.vfile.filter (fun e => match inPart e.1 with
    | some off => keep && decide (off < 256)
    | none => true)

/-- Size of the code region from its VA on, in bytes. -/
def codeSize (s : State) (va : BitVec 56) : Nat :=
  match regionAt s va with
  | some r =>
    let d := homeOf va
    rgnBase s d r + 65536 * rgnBolts s d r - vaOff va
  | none => 0

/-- A strand at stitch start (R81, R101). -/
def startStrand (s : State) (d n : Nat) (bs : List Byte) (i : Nat) (lin valid : Nat) (idx : Nat → Nat) (key : Word) : Strand :=
  let code := pkCode bs
  let entry := bits (wordAt bs 0x90) (20 * i) 20
  let hnd := wordAt bs 0x48
  let w50 := wordAt bs 0x50
  let spill := s.recWord d n 0x38
  let x : Strand := {
    phase := .running
    sect := true
    pc := alignPc (code.setWidth 64 + BitVec.ofNat 64 (4 * entry))
    codeBase := code.setWidth 64
    codeLen := codeSize s code
    pure := pkPure bs
    plive := BitVec.ofNat 8 (bits w50 24 8) &&& 0xFE
    wlim := min (bits w50 0 17) 65536
    spillSize := BitVec.ofNat 8 (bits spill 56 8)
    spillBase := BitVec.ofNat 56 spill
    thnd := if hnd = 0 then 0 else code + BitVec.ofNat 56 hnd
    srkey := if pkPure bs then key else 0
    stcyc := s.cycle
    stitchNum := BitVec.ofNat 32 lin }
  let x := (upto 6).foldl (fun (x : Strand) j => x.sset (BitVec.ofNat 5 (j + 1)) (BitVec.ofNat 64 (idx j))) x
  let x := (x.sset 7 (BitVec.ofNat 64 lin)).sset 8 (BitVec.ofNat 64 valid)
  (upto 8).foldl (fun (x : Strand) j => x.hset (BitVec.ofNat 4 j) (slotHandle s d n bs j)) x

/-- The stitch of a position (R216, R217). -/
def newStitch (s : State) (d n : Nat) (bs : List Byte) (g pos : Nat) : Stitch :=
  let out := pricksOut bs
  let sq := bits (wordAt bs 0x58) 40 17
  { id := ⟨d, n, (s.recx d n).launch⟩
    lin := BitVec.ofNat 32 (linearOf bs pos)
    part := g
    pos := pos
    tenant := s.recTenant d n
    t0 := pkTile bs 0
    t1 := pkTile bs 1
    sections := BitVec.ofNat 3 (bits (wordAt bs 0) 13 3)
    outSlot := out
    outHandle := (out.map (slotHandle s d n bs)).getD 0
    budget := wordAt bs 0x60
    stageQ := if sq = 0 then 65536 else sq
    dkey := BitVec.ofNat 64 (wordAt bs 0x70)
    dsalt := BitVec.ofNat 64 (wordAt bs 0x78)
    dkeep := BitVec.ofNat 32 (word32At bs 0x80)
    dscale := BitVec.ofNat 32 (word32At bs 0x84)
    prick := BitVec.ofNat 56 (s.recWord d n 8) }

/-- The valid count of a position (R217); none while its array cannot be read or its page moves (R328), with whether it is forbidden. -/
def validCount (s : State) (bs : List Byte) (pos : Nat) : State × Except Bool Nat :=
  let v := pkVdim bs
  let i := tileIdx bs pos v
  let va := wordAt bs 0x40
  if va = 0 then (s, .ok (min (pkTile bs v) (pkBound bs v - i * pkTile bs v)))
  else if migHolds s (BitVec.ofNat 56 (va + 4 * i)) then (s, .error false)
  else
    match translate s .fixed (BitVec.ofNat 56 (va + 4 * i)) { rd := true } with
    | (s, .ok k) => (s, .ok (s.num k 4))
    | (s, .absent) => (s, .error false)
    | (s, _) => (s, .error true)

/-- A core made ready for a stitch (R81, R178, R179, R188): band empty, token queues, channels and engines as at start. A late reply of
an earlier stitch is over (R314); a core frozen at a limit is none that starts one (R368). -/
def freshCore (k : Core) (part : BitVec 24) (portmap : BitVec 8) (rows : List (Nat × PRow)) (t : Stitch) : Core :=
  { k with
    part := part
    portmap := portmap
    partNext := none
    portNext := none
    vfile := rows
    band := (k.band.map (fun (e : Nat × PRow) => (e.1, { e.2 with poison := false }))).filter (fun e => e.2 != {})
    full := 0
    reserved := []
    tok := []
    wptr := []
    eng := []
    bankloss := []
    stitch := some t
    prev := some t.id
    freeze := k.freeze.filter (fun f => f.limit != 0)
    stopReq := false }

/-- R111: a stitch that never issued a unit fails with WINDOW, sub-codes 7 and 8: the strands of the core, whose SPILLD is 0,
hold the cause (log entry 52). -/
def windowFails (s : State) (c : Nat) (id : LaunchId) (sub : BitVec 8) : State :=
  let x : Strand := { stcyc := s.cycle }
  let s := (upto 3).foldl (fun (s : State) i =>
    s.setStrand (3 * c + i) (x.setTrap { cause := cWINDOW, sub := sub, tval := sub.setWidth 64 })) s
  failRecord s id cWINDOW

/-- R81: the bobbin walker starts a stitch at a position on a core, with PART and PORTMAP of the pricking unless a privileged
write set the values of this start (R144). A position whose valid count cannot be read yet waits;
a partition that breaks R102 fails the stitch with WINDOW, sub-code 7. -/
def startStitch (s : State) (d n : Nat) (bs : List Byte) (c g pos : Nat) : State :=
  match validCount s bs pos with
  | (_, .error false) => s
  | (s, .error true) => failRecord s ⟨d, n, (s.recx d n).launch⟩ cPERM
  | (s, .ok valid) =>
    let part := (s.core c).partNext.getD (pkPart bs)
    let portmap := (s.core c).portNext.getD (BitVec.ofNat 8 (bits (wordAt bs 0x50) 32 8))
    let t := newStitch s d n bs g pos
    if !partLegal bs part then windowFails s c t.id 7
    else
      let k := s.core c
      let keep := k.prev == some t.id
      let key : Word := (s.recx d n).key.setWidth 64
      let s := s.setCore c (freshCore k part portmap (startRows k part keep) t)
      let s := (upto 3).foldl (fun (s : State) i =>
        s.setStrand (3 * c + i) (if pkSect bs i then
            startStrand s d n bs i t.lin.toNat valid (tileIdx bs pos) key
          else { stcyc := s.cycle })) s
      serve s d n

/-- Take one work item for a core: the record's bookkeeping, and the position. -/
def takePos (s : State) (d n g : Nat) (free : Bool) : Work → State × Option Nat
  | .fresh pos =>
    let x := s.recx d n
    let x := if free then { x with next := x.next + 1 } else { x with done := tset 0 x.done g (tget 0 x.done g + 1) }
    (s.setRecx d n x, some pos)
  | .rerun k =>
    let x := s.recx d n
    (s.setRecx d n { x with suspended := x.suspended.eraseIdx k }, (x.suspended[k]?).map (·.pos))
  | _ => (s, none)

/-- Start the work of a core, when a Running record wins it. -/
def startOn (s : State) (d n c : Nat) (w : Work) : State :=
  let bs := pkOf s d n
  let ps := coresOf s d n bs
  match firstIdx (fun k => k == c) ps with
  | none => s
  | some g =>
    match takePos s d n g (pkFree bs) w with
    | (t, some pos) =>
      let r := startStitch t d n bs c g pos
      if (r.core c).stitch.isSome ∨ r.recState d n ≠ 4 then r else s
    | (_, none) => s

/-- STITCH_START (R81, R219). -/
def execStitchStart (core : Nat) (s : State) : Host.Outcome State Fault Refusal :=
  event (.ok (match winner s core with
    | some (n, .fresh p) => startOn s (dieOfCore core) n core (.fresh p)
    | some (n, .rerun k) => startOn s (dieOfCore core) n core (.rerun k)
    | _ => s))

/-! Dispatch checks (R381) and the task key (R317). -/

/-- The handle slots of a record, with their numbers, but for all-zero ones. -/
def slotsOf (s : State) (d n : Nat) (bs : List Byte) : List (Nat × HBits) :=
  ((upto 8).map (fun k => (k, slotHandle s d n bs k))).filter (fun e => e.2 != 0)

/-- Whether a region is live with a valid digest. -/
def digestValid (s : State) (d r : Nat) : Bool :=
  r != 0 && (rgnState s d r == 1 || rgnState s d r == 2) && bit (s.rgnWord d r 0x18) 31

/-- A region's digest. -/
def regionDigest (s : State) (d r : Nat) : Nat := s.num (rgnKey s d r + 0x20) 16

/-- Whether strides and extents, a pair for each dimension, step through consecutive elements without gap or overlap, in some
order of the dimensions, `n` elements being covered already. -/
def strideChain : Nat → List (Nat × Nat) → Nat → Bool
  | 0, xs, _ => xs == []
  | k + 1, xs, n => match xs.find? (fun e => e.1 == n) with
    | some e => strideChain k (xs.erase e) (n * e.2)
    | none => xs == []

/-- Whether the elements of a handle are those of one run of memory (R195, R279). -/
def hDense (h : HBits) : Bool :=
  strideChain 4 (((upto 4).filter (fun d => decide (1 < hExt h d))).map (fun d => (hStride h d, hExt h d))) 1

/-- R381 check 3, last part: the output handle's extent is a whole region of one run that is Loose or Accrue. -/
def wholeOutput (s : State) (h : HBits) : Bool :=
  let d := homeOf (hBase h)
  let r := hRegion h
  let role := (rgnRun s d r 0).2.1
  r != 0 && (rgnState s d r == 1 || rgnState s d r == 2) && rgnRuns s d r == 1 && (role == .loose || role == .accrue) &&
    vaOff (hBase h) == rgnBase s d r && hDense h && hCount h * hWidth h == 8 * 65536 * rgnBolts s d r

/-- GEN of the run that holds a handle's BASE. -/
def runGen (s : State) (h : HBits) : Option Nat :=
  let d := homeOf (hBase h)
  match boltOf s d (hRegion h) (hBase h) with
  | some b => (runAt (rgnRunList s d (hRegion h)) b).map (·.2.2)
  | none => none

/-- The checks of R381 before the Sampler: the status and sub-code of the first that fails. -/
def dispatchFails (s : State) (d n : Nat) (bs : List Byte) : Option (BitVec 8 × BitVec 8) :=
  let slots := slotsOf s d n bs
  let out := pricksOut bs
  let args := slots.filter (fun e => some e.1 != out)
  let codeDv : Bool := match regionAt s (pkCode bs) with
    | some r => digestValid s (homeOf (pkCode bs)) r
    | none => false
  if !pkLegal bs then some (cILL, 0)
  else if !pkFree bs ∧ (coresOf s d n bs).any isSteward then some (cPERM, 0)
  else if !pkPure bs then none
  else if !codeDv ∨ args.any (fun e => !digestValid s (homeOf (hBase e.2)) (hRegion e.2)) then some (cPURITY, 1)
  else if !(match out with
    | some k => wholeOutput s (slotHandle s d n bs k)
    | none => false) then some (cPURITY, 8)
  else if slots.any (fun e => runGen s e.2 != some (hGen e.2)) then some (cROLE, 0)
  else none

/-- The message of a task key (R317), as bytes. -/
def keyMessage (s : State) (d n : Nat) (bs : List Byte) : List Byte :=
  let out := pricksOut bs
  let code := match regionAt s (pkCode bs) with
    | some r => regionDigest s (homeOf (pkCode bs)) r
    | none => 0
  let slot (e : Nat × HBits) : List Byte :=
    let h := e.2
    let hd := homeOf (hBase h)
    let dig := if out = some e.1 then 0 else regionDigest s hd (hRegion h)
    bytesOf 16 dig ++ bytesOf 16 (hfield h 92 128) ++ bytesOf 16 (hfield h 220 26)
      ++ bytesOf 16 (e.1 % 8 + (vaOff (hBase h) - rgnBase s hd (hRegion h)) % 2 ^ 56 * 2 ^ 8)
  bytesOf 16 code ++ (slotsOf s d n bs).flatMap slot ++ bs.take 0xA0

/-- The task key of a pure record (R317). -/
def taskKey (s : State) (d n : Nat) (bs : List Byte) : BitVec 128 :=
  let (h, k) := tenantKeys s d (s.recTenant d n)
  digest h k (keyMessage s d n bs)

/-- The first stitches of a record that runs: on every participant under fixed placement, on the offered core under free
placement (R218, R219, R309). -/
def firstStitches (s : State) (d n : Nat) (bs : List Byte) (c : Nat) : State :=
  let cs := if pkFree bs then [c] else coresOf s d n bs
  cs.foldl (fun (s : State) k => match workFor s d n k with
    | some (.fresh p) => startOn s d n k (.fresh p)
    | _ => s) s

/-- R300, R381: the record a core was offered to is dispatched. One that ends at dispatch does not count as served (log entry 69). -/
def dispatch (s : State) (d n c : Nat) : State :=
  let bs := pkOf s d n
  match dispatchFails s d n bs with
  | some (st, sub) => failDispatch s d n st sub
  | none =>
    let key := if pkPure bs then taskKey s d n bs else 0
    let out := ((pricksOut bs).map (slotHandle s d n bs)).getD 0
    match (if pkPure bs then samplerLookup (s.die d) (s.recTenant d n) key else none) with
    | some (h, x) => doneRecord (s.setDie d x) d n 0 true (some h)
    | none =>
      let s := s.setRecx d n { s.recx d n with
        total := pkTotal bs, key := key, outHandle := out, declares := (pricksOut bs).isSome, pure := pkPure bs
        barSize := (coresOf s d n bs).length * ones 3 (bits (wordAt bs 0) 13 3) }
      let s := s.setRecBits d n 0 0 3 4
      firstStitches (serve s d n) d n bs c

/-- RECORD_DISPATCH (R309, R381): the first free core of the die whose offer a Ready record wins. -/
def execRecordDispatch (die : Nat) (s : State) : Host.Outcome State Fault Refusal :=
  event (.ok (((upto 127).findSome? (fun j =>
    let c := 128 * die + j
    match winner s c with
    | some (n, .dispatch) => some (dispatch s die n c)
    | _ => none)).getD s))

/-! Retirement. -/

/-- Whether an engine command of a core is still queued, running or held (R220). -/
def coreBusy (s : State) (c : Nat) : Bool :=
  let k := s.core c
  let cl := s.cluster (clusterOf c)
  k.eng.any (fun (e : Nat × Engine) => e.2.queue != [] || e.2.running != [] || e.2.heldEntries != []) ||
    (pendingCmds cl).any (fun q => coreOf q.strand == c)

/-- Whether the core that issued a collective still runs the stitch it issued it for, or no stitch as then. -/
def issuerRuns (s : State) (c : Coll) : Bool :=
  match (s.core c.core).stitch with
  | some t => t.id == c.id && t.lin == c.lin
  | none => c.id == {}

/-- R358: a collective completes with its entry and its recorded word; a command of it that still waits to start goes. -/
def finishColl (s : State) (d : Nat) (c : Coll) (status : BitVec 8) : State :=
  let w := entryWord c.seq status c.poison 3 0 ((c.wrote + 7) / 8)
  let x := s.die d
  let s := s.setDie d (recordWord { x with
    colls := x.colls.filter (fun q => q.num != c.num)
    tracks := x.tracks.filter (fun t => t.num != c.num) } c.num w)
  let k := s.core c.core
  let x := k.engine 3
  let k := if c.started then k else k.setEngine 3 { x with queue := x.queue.filter (fun q => q.coll != some (d, c.num.toNat)) }
  if issuerRuns s c then s.setCore c.core (placeEntry k 3 w none) else s

/-- Whether a started collective of the stitch that a core runs is outstanding (R186, R358). -/
def collBusy (s : State) (c : Nat) : Bool :=
  s.dies.any (fun e => e.2.colls.any (fun (q : Coll) => q.core == c && q.started && issuerRuns s q))

/-- The collectives of a stitch that has failed or was discarded end with it: what they wait for is bounded by its budget (R313, R354;
log entry 37). -/
def endColls (s : State) (t : Stitch) : State :=
  s.dies.foldl (fun s e => (e.2.colls.filter (fun c => c.id == t.id && c.lin == t.lin)).foldl (fun s c =>
    finishColl s e.1 { c with poison := true } (if c.status = 0 then cSTITCH else c.status)) s) s

/-- The core gives its lease up, with the commands it still has queued, and its requests (R229). -/
def dropLease (s : State) (c : Nat) : State :=
  let cl := clusterOf c
  let x := s.cluster cl
  let s := s.setCluster cl { x with requests := x.requests.filter (fun (q : LeaseReq) => q.core != c) }
  match x.lease with
  | some l => if l.core = c then endLease s cl else s
  | none => s

/-- The core has no stitch any more. -/
def freeCoreOf (s : State) (c : Nat) : State :=
  let s := dropLease s c
  let s := (upto 3).foldl (fun (s : State) i => s.setStrand (3 * c + i) { s.strand (3 * c + i) with
    phase := .idle, wait := none, held := [], absent := [], amoReply := none, taken := none, saved := 0, age := none, got := [],
    arrived := false }) s
  s.setCore c { s.core c with stitch := none, eng := [], reserved := [], stopReq := false }

/-- Commands of a failed stitch, running or queued, go with it. They do not count in CLEASE.DISC (log entry 78). -/
def dropCommands (s : State) (c : Nat) : State :=
  let cl := clusterOf c
  let x := s.cluster cl
  s.setCluster cl { x with
    queue := x.queue.filter (fun q => coreOf q.strand != c)
    running := x.running.filter (fun q => coreOf q.strand != c) }

/-- The status words of the strands of a core, ORed (R243). -/
def endWords (s : State) (c : Nat) : BitVec 32 :=
  (upto 3).foldl (fun (w : BitVec 32) i => match (s.strand (3 * c + i)).endWord with
    | some e => w ||| e.setWidth 32
    | none => w) 0

/-- Whether strand i of a core still runs. -/
def strandRuns (s : State) (c i : Nat) : Bool := (s.strand (3 * c + i)).phase == .running

/-- R220: the stitch of a core retires, once the rings it read can be reached. A failed stitch frees its core once its strands have
stopped. -/
def retire (s : State) (c : Nat) : State :=
  match (s.core c).stitch with
  | none => s
  | some t =>
    if (upto 3).any (strandRuns s c) then s
    else if t.failed || (s.core c).stopReq then
      freeCoreOf (dropCommands (endColls (settleRings (dropStitch s t.id t.lin) t false) t) c) c
    else if coreBusy s c || collBusy s c || s.frozen c || !ringsReach s t then s
    else
      let w := endWords s c
      let s := releaseStitch s t.id t.lin (fun _ => true)
      let s := freeCoreOf (settleRings s t true) c
      let x := s.recx t.id.die t.id.record
      let s := if x.launch = t.id.launch then
          s.setRecx t.id.die t.id.record { x with retired := x.retired + 1, orWord := x.orWord ||| w }
        else s
      checkDone s t.id.die t.id.record

/-- STITCH_RETIRE (R220). -/
def execStitchRetire (core : Nat) (s : State) : Host.Outcome State Fault Refusal := event (.ok (retire s core))

/-- A system-class trap of the stitch of a core: each running strand's trap registers, then the stitch fails and firmware
is notified (R114). -/
def trapAll (s : State) (c : Nat) (t : TrapInfo) : State :=
  let s := (upto 3).foldl (fun (s : State) i =>
    let n := 3 * c + i
    if strandRuns s c i then
      let s := withdrawArrival s n
      let s := abandonUnit s n
      s.setStrand n ((s.strand n).setTrap t)
    else s) s
  let n := 3 * c
  let s := failStitch s n t.cause
  let d := dieOfCore c
  s.setDie d { s.die d with notices := .system n (BitVec.ofNat 16 (t.sub.toNat * 256 + t.cause.toNat)) :: (s.die d).notices }

/-- The cycle at which STCYC of a core's stitch read 0. -/
def stitchBase (s : State) (c : Nat) : Word := (s.strand (3 * c)).stcyc

/-- The budget of a stitch: 0 stands for 2^32 (R313). -/
def budgetOf (t : Stitch) : Nat := if t.budget = 0 then 2 ^ 32 else t.budget

/-- STITCH_BUDGET_EXPIRY (R313). -/
def execStitchBudgetExpiry (core : Nat) (s : State) : Host.Outcome State Fault Refusal :=
  event (.ok (match (s.core core).stitch with
    | none => s
    | some t =>
      if !t.failed && !s.frozen core && decide (budgetOf t ≤ (s.cycle - stitchBase s core).toNat) then
        trapAll s core { cause := cSTITCH, tval := BitVec.ofNat 64 (budgetOf t) }
      else s))

/-- EPRIO_AGING (R310). -/
def execEprioAging (die rec' : Nat) (s : State) : Host.Outcome State Fault Refusal :=
  let x := s.recx die rec'
  event (.ok (if s.recState die rec' = 3 ∧ 2 ^ 20 ≤ (s.cycle - x.readyAt).toNat then
      let p := s.recEprio die rec'
      (s.setRecx die rec' { x with readyAt := s.cycle }).setRecBits die rec' 0 10 6 (if p < 47 then p + 1 else p)
    else s))

/-- FIRMWARE_WRITES_STATE (R300): as written; a record made Ready begins a launch, one that leaves Running loses a raised
EPRIO (R310). -/
def execFirmwareWritesState (die rec' : Nat) (st : BitVec 3) (s : State) : Host.Outcome State Fault Refusal :=
  let s' := if s.recState die rec' = 4 ∧ st ≠ 4 then dropEprio s die rec' else s
  fwEvent s (.ok (if st = 3 then makeReady s' die rec' else s'.setRecBits die rec' 0 0 3 st.toNat))

/-- TENANT_SAMPLER_REMOVAL (R370). -/
def execTenantSamplerRemoval (tenant : Nat) (s : State) : Host.Outcome State Fault Refusal :=
  fwEvent s (.ok { s with dies := s.dies.map (fun (e : Nat × Die) => (e.1, { e.2 with
    sampler := e.2.sampler.filter (fun q => q.tenant != tenant) })) })

end Sys2Proof.Machine
end

