-- ==== Sys2Proof/Machine/Preempt.lean ====
section
/-! DEFINITION. Pre-emption and resumption of stitches (R186-R188, R213-R215, R220, R298, R311). -/

namespace Sys2Proof.Machine
open Sys2Proof

/-- Whether a Ready record, whose pricking can be read, lacks cores and core c is one it needs (R311, R328). -/
def needsCore (s : State) (d n c : Nat) : Bool :=
  let bs := pkOf s d n
  let ps := coresOf s d n bs
  !prickHeld s d n && s.recState d n == 3 && pkLegal bs && ps.contains c && !(s.core c).stitch.isNone &&
    (if pkFree bs then !(ps.any (coreFree s)) else true)

/-- The launch priority of the stitch of a core. -/
def stitchPrio (s : State) (c : Nat) : Nat := corePrio s c

/-- R311: some Ready record of a higher level needs this core, and no stitch of a lower level runs on another core it
needs. -/
def mayPreempt (s : State) (c : Nat) : Bool :=
  let d := dieOfCore c
  (s.die d).recx.any (fun (e : Nat × RecX) =>
    needsCore s d e.1 c && decide (stitchPrio s c < s.recEprio d e.1) &&
      (coresOf s d e.1 (pkOf s d e.1)).all (fun k => (s.core k).stitch.isNone || decide (stitchPrio s c ≤ stitchPrio s k)))

/-- Core number inside its cluster: the number of its lease-save slot. -/
def slotOf (c : Nat) : Nat := c % 8

/-- Put a command among others, oldest first; `next` is the engine's next sequence number. -/
def insertCmd (next : BitVec 16) (c : Cmd) : List Cmd → List Cmd
  | [] => [c]
  | q :: qs => if (next - q.seq).toNat < (next - c.seq).toNat then c :: q :: qs else q :: insertCmd next c qs

/-- The commands of engine e of a core that its save holds, those started and those queued, oldest first (R187). -/
def savedCmds (k : Core) (e : Nat) : List Cmd :=
  ((k.engine e).running ++ (k.engine e).queue).foldr (insertCmd (k.engine e).nextSeq) []

/-- CORENUM's value (R178). -/
def corenumOf (c : Nat) : Nat := dieOfCore c * 2 ^ 11 + clusterOf c % 16 * 2 ^ 7 + c % 8

/-- Pad a byte list to n bytes. -/
def padTo (n : Nat) (bs : List Byte) : List Byte := (bs ++ zeros n).take n

/-- The core save area of R187, as rows. -/
def coreArea (s : State) (c : Nat) : List PRow :=
  let k := s.core c
  let w (v : Nat) : List Byte := bytesOf 8 v
  let head :=
    w (1 + corenumOf c * 2 ^ 8) ++ w (k.part.toNat + k.portmap.toNat * 2 ^ 32)
    ++ w (byteFields 8 (fun q => (k.tq q).count + 64 * b2n (k.tq q).ovf)).toNat
    ++ (upto 4).flatMap (fun ch => w (k.wptrOf ch).toNat)
    ++ w (byteFields 4 (fun e => min 16 (savedCmds k e).length)).toNat
    ++ w (byteFields 4 (fun e => (k.engine e).comp.length)).toNat
    ++ w (joinElems 16 ((upto 4).map (fun e => (k.engine e).nextSeq.toNat)))
    ++ zeros 48 ++ bytesOf 64 k.full.toNat ++ bytesOf 64 (bandPoison k).toNat ++ zeros 768
    ++ (upto 4).flatMap (fun e => padTo 1024 (((savedCmds k e).take 16).flatMap cmdRecord))
    ++ (upto 4).flatMap (fun e => padTo 256 ((k.engine e).comp.flatMap (fun q => w q.toNat)))
  bytesRows 32 head ++ (upto 512).map (fun b => tget {} k.band b)

/-- The block of the participant of logical index g (R298). -/
def blockVa (s : State) (d n g : Nat) : BitVec 56 := BitVec.ofNat 56 (s.recWord d n 0x30 + g * 0xA8000)

/-- The strand areas of a block: strand, address (R298). -/
def strandAreas (s : State) (c : Nat) (base : BitVec 56) : List (Nat × BitVec 56) :=
  let part := (s.core c).part
  let sect := (upto 3).filter (fun i => (s.strand (3 * c + i)).sect)
  (sect.foldl (fun (a : List (Nat × BitVec 56) × Nat) i =>
    (a.1 ++ [(i, base + BitVec.ofNat 56 a.2)], a.2 + 0x2000 + 256 * partSize part i)) ([], 0x22000)).1

/-- Write areas one after another for a strand; a page that is held leaves everything to a later try. -/
def writeAreas (s : State) (n : Nat) : List (BitVec 56 × List PRow) → Except Halt State
  | [] => .ok s
  | (va, rows) :: rest => do
    let s ← storeRows (asStrand s n) va rows
    writeAreas s n rest

/-- The kind of a lease's budget and what is left of it, as its slot and CLEASE hold them (R214, R224). -/
def leaseLeft (s : State) (l : Lease) : Bool × Nat :=
  (l.byCycles, if l.byCycles then l.left - (coreNow s l.core - l.granted).toNat else l.left)

/-- R213, R214: the array writes the slot of a core and releases the lease; a slot it was still running commands of is valid no
longer (R215). Answers the lease as the queue manager keeps it and the commands as captured. -/
def saveSlot (s : State) (c : Nat) (t : Stitch) (l : Lease) : State × (Nat × Nat × Bool × Nat) × List Cmd :=
  let cl := clusterOf c
  let x := s.cluster cl
  let k := slotKey cl (slotOf c)
  let (byC, left) := leaseLeft s l
  let s := (List.range 1024).foldl (fun (s : State) b => s.setRowAt (k + 256 * b) ⟨accBlock x.arr.accs b, x.arr.poison⟩) s
  let w (v : Nat) : List Byte := bytesOf 8 v
  let stopped := x.running.isSome
  let r := x.running.getD {}
  let s := match l.reload with
    | some (src, slot, _) => clearSlot s src slot
    | none => s
  let tail :=
    w (1 + 2 ^ 8 + b2n x.arr.tc * 2 ^ 9 + x.arr.kcur.toNat * 2 ^ 32)
    ++ w (t.id.record % 2 ^ 12 + t.id.die * 2 ^ 12 + t.lin.toNat * 2 ^ 32)
    ++ w (x.arr.aflags.toNat + b2n byC * 2 ^ 16 + left % 2 ^ 17 * 2 ^ 24)
    ++ w (if stopped then r.rows % 2 ^ 16 + 2 ^ 16 else 0) ++ w (if stopped then r.parcels.toNat else 0)
    ++ w (if stopped then r.s1.toNat + r.s2.toNat * 2 ^ 32 else 0)
    ++ bytesOf 32 (if stopped then r.handle.toNat else 0)
    ++ w x.queue.length ++ x.queue.flatMap cmdRecord
  let s := s.setBytes (k + 0x40000) (padTo 0x20000 tail)
  let s := (List.range 512).foldl (fun (s : State) b => s.setBlockPoison (k + 0x40000 + 256 * b) false) s
  (s.setCluster cl { s.cluster cl with lease := none, queue := [], running := none },
    (cl, slotOf c, byC, left), pendingCmds x)

/-- Whether the array still works on a command of the core that pre-emption lets finish: any but an `mdrain` at a boundary of its
output rows (R213). -/
def arrayBusy (s : State) (c : Nat) : Bool :=
  match (s.cluster (clusterOf c)).running with
  | some r => coreOf r.strand == c && (r.opc != 0x384 || r.done || r.out != [])
  | none => false

/-- Whether pre-emption of a core waits: a frozen core (R368), an atomic in the skein, a started scatter-accumulate command
or collective, a command of the array in progress (R186, R213). -/
def preemptWaits (s : State) (c : Nat) : Bool :=
  s.frozen c || (upto 3).any (fun i => (s.strand (3 * c + i)).amoReply.isSome) ||
    ((s.core c).engine 2).running != [] || collBusy s c || arrayBusy s c

/-- The strands stop at their unit boundaries (R186 step 1). -/
def stopUnits (s : State) (c : Nat) : State :=
  (upto 3).foldl (fun (s : State) i => abandonUnit (withdrawArrival s (3 * c + i)) (3 * c + i)) s

/-- Put a stitch among the record's suspended ones, when its launch still runs. -/
def suspend (s : State) (t : Stitch) (x : Suspended) : State :=
  let r := s.recx t.id.die t.id.record
  if r.launch = t.id.launch ∧ s.recState t.id.die t.id.record = 4 then
    s.setRecx t.id.die t.id.record { r with suspended := r.suspended ++ [x] }
  else s

/-- R211, R213, R220: the array stops the `mdrain` of a discarded stitch; run again, the stitch finds a cleared array. -/
def stopArray (s : State) (c : Nat) (t : Stitch) : State :=
  let x := s.cluster (clusterOf c)
  s.setCluster (clusterOf c) { x with
    running := x.running.filter (fun q => coreOf q.strand != c)
    lastGrant := if x.lastGrant = some (c, t.id, t.lin) then none else x.lastGrant }

/-- R220: discard a restartable stitch: it runs again from its start. -/
def discardStitch (s : State) (c : Nat) (t : Stitch) : State :=
  let s := stopArray (stopUnits s c) c t
  let s := endColls (settleRings (dropStitch s t.id t.lin) t false) t
  let s := freeCoreOf s c
  suspend s t { part := t.part, pos := t.pos }

/-- The lease with which a saved stitch comes back, and its kept commands: the one it holds, written to its slot (R213), or the one
it still asks for since it was resumed, whose slot stands (R215). -/
def saveLease (s : State) (c : Nat) (t : Stitch) : State × Option (Nat × Nat × Bool × Nat) × List Cmd :=
  let x := s.cluster (clusterOf c)
  let asked := match x.requests.find? (fun r => r.core == c && r.resume.isSome) with
    | some r => (r.resume.map (fun (q : Nat × Nat) => (q.1, q.2, r.byCycles, r.budget)), r.kept)
    | none => (none, [])
  match x.lease with
  | some l =>
    if l.core = c then
      let (s, lease, kept) := saveSlot s c t l
      (s, some lease, kept)
    else (s, asked)
  | none => (s, asked)

/-- Whether `unlease` has been issued for the lease that a saved stitch comes back with (R215, R228; log entry 19). -/
def leaseEnds (s : State) (c : Nat) : Bool :=
  let x := s.cluster (clusterOf c)
  x.lease.any (fun l => l.core == c && l.ending) || x.requests.any (fun r => r.core == c && r.resume.isSome && r.ending)

/-- R186: save a stitch and free its core. Nothing is saved while a store of the save waits; one past its tenant's limit freezes the
core (R368). -/
def saveStitch (s0 : State) (c : Nat) (t : Stitch) : Ev :=
  let s := stopUnits s0 c
  let (s, lease, kept) := saveLease s c t
  let base := blockVa s t.id.die t.id.record t.part
  let areas := (strandAreas s c base).map (fun (e : Nat × BitVec 56) =>
    (e.2, saveRows s (3 * c + e.1) (s.strand (3 * c + e.1)).pc)) ++ [(base, coreArea s c)]
  let k := s.core c
  let sus : Suspended := {
    part := t.part, pos := t.pos, saved := true, stitch := t, lease := lease, leaseEnding := leaseEnds s0 c, kept := kept
    cmds := (upto 4).map (fun e => (e, savedCmds k e))
    heldEntries := (upto 4).map (fun e => (e, (k.engine e).heldEntries))
    ended := (upto 3).filterMap (fun i => match (s.strand (3 * c + i)).endWord with
      | some w => some (i, w)
      | none => none)
    stcyc := stitchBase s c }
  match writeAreas s (3 * c) areas with
  | .ok s => .ok (suspend (freeCoreOf (asStrand s s0.cur) c) t sus)
  | .error (.stop (.noStorage q)) => .error (.noStorage q)
  | .error (.trap _ i) => .ok (failStitch s0 (3 * c) i.cause)
  | .error (.wait t _ _) => .ok (if t.frozen c then freezeCore s0 (homeOf base) c 1 else s0)

/-- PREEMPT_STITCH (R186, R213, R220, R311): a restartable stitch is discarded, once the rings it read can be reached, another one is
saved. -/
def execPreemptStitch (core : Nat) (discard : Bool) (s : State) : Host.Outcome State Fault Refusal :=
  event (match (s.core core).stitch with
    | none => .ok s
    | some t =>
      if t.failed || (s.core core).stopReq || preemptWaits s core || !mayPreempt s core then .ok s
      else if discard != t.restartable then .ok s
      else if discard then .ok (if ringsReach s t then discardStitch s core t else s)
      else saveStitch s core t)

/-! Resumption (R188, R215). -/

/-- 64 bits of a byte list as a row set. -/
def rowSetAt (bs : List Byte) (off : Nat) : BitVec 512 := BitVec.ofNat 512 (natOfBytes ((bs.drop off).take 64))

/-- Engine e as a core save area holds it: its commands restart in their saved order (R188 step 3). Commands beyond the 16 record
places of R187 are kept beside the area, whose count byte is then 16 (log entry 19). -/
def areaEngine (bs : List Byte) (sus : Suspended) (c e : Nat) : Engine :=
  let n := bits (wordAt bs 0x38) (8 * e) 8
  let m := bits (wordAt bs 0x40) (8 * e) 8
  let kept := tget [] sus.cmds e
  let cmds := (upto (max n (if n = 16 then kept.length else n))).map (fun i =>
    let q := kept.getD i {}
    let q := if i < 16 then cmdOf ((bs.drop (0x400 + 1024 * e + 64 * i)).take 64) q else q
    { q with strand := 3 * c + q.strand % 3, taken := none })
  { nextSeq := BitVec.ofNat 16 (bits (wordAt bs 0x48) (16 * e) 16)
    queue := cmds.filter (fun q => !q.started)
    running := cmds.filter (fun q => q.started)
    comp := (upto m).map (fun i => BitVec.ofNat 64 (wordAt bs (0x1400 + 256 * e + 8 * i)))
    heldEntries := tget [] sus.heldEntries e }

/-- The core of a resumed stitch from its save area (R187, R188 step 1). -/
def areaCore (k : Core) (c : Nat) (rows : List PRow) (sus : Suspended) : Core :=
  let bs := rowsBytes (rows.take 32)
  let pz := rowSetAt bs 0xC0
  let base := freshCore k (BitVec.ofNat 24 (wordAt bs 8)) (BitVec.ofNat 8 (bits (wordAt bs 8) 32 8)) k.vfile
    { sus.stitch with resumed := true }
  let band := (upto 512).foldl (fun (t : List (Nat × PRow)) b =>
    tset {} t b ⟨(rows.getD (32 + b) {}).bits, pz.getLsbD b⟩) []
  let tok := (upto 8).foldl (fun (t : List (Nat × TokQ)) q =>
    let v := bits (wordAt bs 0x10) (8 * q) 8
    tset {} t q ⟨bits v 0 6, bit v 6⟩) []
  let wptr := (upto 4).foldl (fun (t : List (Nat × Word)) ch => tset 0 t ch (BitVec.ofNat 64 (wordAt bs (0x18 + 8 * ch)))) []
  let eng := (upto 4).foldl (fun (t : List (Nat × Engine)) e => tset {} t e (areaEngine bs sus c e)) []
  { base with band := band, full := rowSetAt bs 0x80, tok := tok, wptr := wptr, eng := eng }

/-- A strand of a resumed stitch before its area is read: what the area has no place for (R101, R217). -/
def resumedStrand (s : State) (sus : Suspended) (bs : List Byte) : Strand :=
  let code := pkCode bs
  { phase := .running
    sect := true
    codeBase := code.setWidth 64
    codeLen := codeSize s code
    pure := pkPure bs
    stcyc := sus.stcyc
    stitchNum := sus.stitch.lin }

/-- Restore the strands with sections one after another; false when an area does not fit (R188 step 2, R117). -/
def restoreStrands (s : State) (c : Nat) (sus : Suspended) (bs : List Byte) : List (Nat × BitVec 56) → Except Halt (State × Bool)
  | [] => .ok (s, true)
  | (i, va) :: rest => do
    let n := 3 * c + i
    let ps := partSize (s.core c).part i
    let (s, rows) ← loadRows (asStrand s n) [] va (32 + ps)
    if !headerFits ps rows then .ok (s, false)
    else
      let x := restoreStrand (resumedStrand s sus bs) ps rows
      let x := match sus.ended.find? (fun (e : Nat × Word) => e.1 == i) with
        | some e => { x with phase := .ended, endWord := some e.2 }
        | none => x
      let s := (s.setCore c (restorePart (s.core c) i (rows.drop 32))).setStrand n x
      restoreStrands s c sus bs rest

/-- R188, R215: resume suspended stitch number k of a record on a core, whose block its next save goes to (R186, R298). -/
def resumeStitch (s0 : State) (d n c k : Nat) : Ev :=
  let x := s0.recx d n
  match x.suspended[k]? with
  | none => .ok s0
  | some sus =>
    let bs := pkOf s0 d n
    let base := blockVa s0 d n sus.part
    let g := (firstIdx (fun k => k == c) (coresOf s0 d n bs)).getD sus.part
    let s := s0.setRecx d n { x with suspended := x.suspended.eraseIdx k }
    let id := sus.stitch.id
    let bad (cause : BitVec 8) : Ev := .ok (if cause = cWINDOW then windowFails s c id 8 else failRecord s id cause)
    match loadRows ((asStrand s (3 * c)).setMe {}) [] base 544 with
    | .error (.stop (.noStorage q)) => .error (.noStorage q)
    | .error (.trap _ i) => bad i.cause
    | .error (.wait _ _ _) => .ok s0
    | .ok (s1, rows) =>
      if bits (wordAt (rowsBytes (rows.take 1)) 0) 0 8 ≠ 1 then bad cWINDOW
      else
        let s1 := s1.setCore c (areaCore (s1.core c) c rows { sus with stitch := { sus.stitch with part := g } })
        let s1 := (upto 3).foldl (fun (s : State) i =>
          s.setStrand (3 * c + i) { stcyc := sus.stcyc, sect := pkSect bs i }) s1
        match restoreStrands s1 c sus bs (strandAreas s1 c base) with
        | .error (.stop (.noStorage q)) => .error (.noStorage q)
        | .error (.trap _ i) => bad i.cause
        | .error (.wait _ _ _) => .ok s0
        | .ok (_, false) => bad cWINDOW
        | .ok (s2, true) =>
          let s2 := asStrand s2 s0.cur
          let cl := clusterOf c
          let y := s2.cluster cl
          let s2 := match sus.lease with
            | some (src, slot, byC, left) => s2.setCluster cl { y with requests := y.requests ++
                [{ core := c, strand := 3 * c + 2, byCycles := byC, budget := left, at_ := s2.cycle
                   resume := some (src, slot), kept := sus.kept, ending := sus.leaseEnding }] }
            | none => s2
          .ok (serve s2 d n)

/-- STITCH_RESUME (R188, R215). -/
def execStitchResume (core : Nat) (s : State) : Host.Outcome State Fault Refusal :=
  event (match winner s core with
    | some (n, .resume k) => resumeStitch s (dieOfCore core) n core k
    | _ => .ok s)

end Sys2Proof.Machine
end

