-- ==== Sys2Proof/Machine/Pages.lean ====
section
/-! DEFINITION. Firmware's acts on pages and frozen cores (R269-R274, R314, R368), and the expiry of waits (R55, R113,
R175). -/

namespace Sys2Proof.Machine
open Sys2Proof

/-- Where the leaf entry of a page stands, when the levels above it are present. -/
def pageLeaf (s : State) (sp : Space) (va : BitVec 56) : Option Nat :=
  let raf := (rafOf s sp va).toNat
  if !bit raf 63 then none
  else leafKey s (homeOf va) (bits raf 12 44 * 2 ^ 12) (vaOff va) (walkLevels (bits raf 60 2))

/-- PAGE_MAP (R269): firmware writes the leaf of a page. Held pieces find it when their strands try again. -/
def execPageMap (die : Nat) (sp : Space) (va : BitVec 56) (leaf : BitVec 64) (s : State) :
    Host.Outcome State Fault Refusal :=
  fwEvent s (.ok (match pageLeaf s sp va with
    | some k => if homeOf va = die then s.setNum k 8 leaf.toNat else s
    | none => s))

/-- What an entry needs of its page (R254). -/
def SkeinOp.need : SkeinOp → Need
  | .store .. => { wr := true }
  | .accrue _ => { wr := true }
  | .amo .. => { rd := true, wr := true }

/-- R272: an entry ends without replay. -/
def discardEntry (s : State) (d : Nat) (e : SkeinEntry) (cause : BitVec 8) : State :=
  let s := s.setDie d { s.die d with notices := .discarded e.id e.va cause :: (s.die d).notices }
  match e.op with
  | .amo n t _ _ _ _ =>
    if (s.strand n).amoReply = some (.pending t) then s.setStrand n { s.strand n with amoReply := some (.failed cause) } else s
  | _ => failRecord s e.id cause

/-- R270: perform an entry at the place of its address. An atomic answers the strand that still waits for it. -/
def replayEntry (s : State) (e : SkeinEntry) (k : Nat) : State :=
  match e.op with
  | .store cells pb clean =>
    storeCells s (cells.map (fun (c : Nat × Byte × Part) => (k + c.1, c.2))) (pb.map (k / 256 + ·)) (clean.map (k / 256 + ·))
  | .accrue a => applyUpdate s a k
  | .amo n t op f x y =>
    let (s, old) := amoAt s k op f x y
    if (s.strand n).amoReply = some (.pending t) then
      s.setStrand n { s.strand n with amoReply := some (.old (BitVec.ofNat 64 old)) }
    else s

/-- The first entry of a skein whose page is mapped, with the entries around it. -/
def firstMapped (s : State) : List SkeinEntry → Option (List SkeinEntry × SkeinEntry × List SkeinEntry)
  | [] => none
  | e :: es =>
    if (translate s e.space e.va {}).2 = .absent then
      (firstMapped s es).map (fun r => (e :: r.1, r.2))
    else some ([], e, es)

/-- SKEIN_REPLAY (R270, R272): the oldest entry whose page is mapped. -/
def replayOne (s : State) (d : Nat) : Ev :=
  match firstMapped s (s.die d).skein with
  | none => .ok s
  | some (before, e, after) =>
    let (s, x) := translate s e.space e.va e.op.need
    let s := s.setDie d { s.die d with skein := before ++ after }
    match x with
    | .ok k => .ok (replayEntry s e k)
    | .nowhere k => .error (.noStorage k)
    | _ => .ok (discardEntry s d e cPERM)

/-- SKEIN_REPLAY (R270). -/
def execSkeinReplay (die : Nat) (s : State) : Host.Outcome State Fault Refusal := event (replayOne s die)

/-- R269, R272: a page declared unmappable: the pieces that its home holds for it fail with ABSENT and its entries are discarded. -/
def unmappable (s : State) (d : Nat) (sp : Space) (va : BitVec 56) : State :=
  let page := pageAt s sp va
  let mine (e : SkeinEntry) : Bool := e.space == sp && pageAt s sp e.va == page
  let gone := (s.die d).skein.filter mine
  let s := s.setDie d { s.die d with skein := (s.die d).skein.filter (fun e => !mine e) }
  let s := gone.foldl (fun (s : State) e => discardEntry s d e cABSENT) s
  let held (t : HeldReq) : Bool := t.space == sp && t.blocks.any (fun b => pageAt s sp (BitVec.ofNat 56 (65536 * b)) == page)
  { s with strands := s.strands.map (fun (e : Nat × Strand) =>
      (e.1, if e.2.wait.any (·.kind == .held) && e.2.taken.any held then { e.2 with absent := (sp, page) :: e.2.absent } else e.2)) }

/-- PAGE_UNMAPPABLE (R272). -/
def execPageUnmappable (die : Nat) (sp : Space) (va : BitVec 56) (s : State) : Host.Outcome State Fault Refusal :=
  fwEvent s (.ok (if homeOf va = die ∧ (translate s sp va {}).2 = .absent then unmappable s die sp va else s))

/-- TLB_INVALIDATE_ALL (R274). -/
def execTlbInvalidateAll (die : Nat) (sp : Space) (s : State) : Host.Outcome State Fault Refusal :=
  let x := s.die die
  fwEvent s (.ok (s.setDie die { x with tlb := x.tlb.filter (fun e => e.space != sp) }))

/-- TLB_INVALIDATE_PAGE (R274). -/
def execTlbInvalidatePage (die : Nat) (sp : Space) (va : BitVec 56) (s : State) : Host.Outcome State Fault Refusal :=
  let x := s.die die
  fwEvent s (.ok (s.setDie die { x with tlb := x.tlb.filter (fun e =>
    !(e.space == sp && e.page == pageOf e.psize.toNat va)) }))

/-! Freezes. -/

/-- A command's ages, a number of cycles later. -/
def Cmd.later (q : Cmd) (dt : Word) : Cmd := { q with issued := q.issued + dt, tokSince := q.tokSince.map (· + dt) }

/-- The commands of a core's engines, a number of cycles later. -/
def laterCmds (k : Core) (dt : Word) : Core :=
  { k with eng := k.eng.map (fun e => (e.1, { e.2 with
      queue := e.2.queue.map (·.later dt), running := e.2.running.map (·.later dt) })) }

/-- The clock of a core stood still for a number of cycles: STCYC, its waits and its lease do not count them (R314, R368), and the
ages of its units and commands keep their order (R171, R173). -/
def shiftClock (s : State) (c n : Nat) : State :=
  let dt : Word := BitVec.ofNat 64 n
  let s := s.setCore c (laterCmds (s.core c) dt)
  let s := (upto 3).foldl (fun (s : State) i =>
    let x := s.strand (3 * c + i)
    s.setStrand (3 * c + i) { x with
      stcyc := x.stcyc + dt
      age := x.age.map (· + dt)
      wait := x.wait.map (fun w => { w with since := w.since + dt }) }) s
  let cl := clusterOf c
  let own (q : Cmd) : Cmd := if coreOf q.strand = c then q.later dt else q
  let y := s.cluster cl
  let s := if y.queue = [] && y.running.isNone then s
    else s.setCluster cl { y with queue := y.queue.map own, running := y.running.map own }
  let y := s.cluster cl
  match y.lease with
  | some l => if l.core = c then s.setCluster cl { y with lease := some { l with granted := l.granted + dt } } else s
  | none => s

/-- R368: a thawed core goes on; its held request is presented again. -/
def thaw (s : State) (c : Nat) : State :=
  match (s.core c).freeze with
  | none => s
  | some f =>
    let s := shiftClock s c (s.cycle - f.since).toNat
    s.setCore c { s.core c with freeze := none }

/-- R368: firmware fails the record of a frozen core: its stitch, and the entries it released to this die. -/
def failFrozen (s : State) (d c : Nat) : State :=
  let s := match (s.core c).stitch with
    | some t => failRecord s t.id cPERM
    | none => s
  let x := s.die d
  let gone := x.released.filter (fun e => e.core == c)
  let s := s.setDie d { x with released := x.released.filter (fun e => e.core != c) }
  gone.foldl (fun (s : State) e => failRecord (entryDone s e) e.id cPERM) s

/-- CORE_THAW (R368): the core at the head of FRZ. -/
def execCoreThaw (die : Nat) (fail : Bool) (s : State) : Host.Outcome State Fault Refusal :=
  let x := s.die die
  fwEvent s (.ok (match x.frz with
    | [] => s
    | (c, _) :: rest =>
      let s := thaw (s.setDie die { x with frz := rest }) c
      if fail then failFrozen s die c else s))

/-- LATE_FREEZE (R314): in fixed-latency mode a reply later than declared stops a core, the steward's too, for as long as it is late. -/
def execLateFreeze (core cycles : Nat) (s : State) : Host.Outcome State Fault Refusal :=
  let k := s.core core
  let waits := k.stitch.isSome || (upto 3).any (strandRuns s core)
  event (.ok (if bit (s.die (dieOfCore core)).dmode.toNat 63 && waits && !s.frozen core && decide (0 < cycles) then
      let s := shiftClock s core (min cycles 65536)
      s.setCore core { s.core core with freeze := some { late := cycles, since := s.cycle } }
    else s))

/-- LATE_EXPIRY (R314): a freeze that reaches 65,536 cycles raises LATE in the core's strands. -/
def execLateExpiry (core : Nat) (s : State) : Host.Outcome State Fault Refusal :=
  let k := s.core core
  event (.ok (match k.freeze with
    | some f =>
      if f.limit = 0 ∧ 65536 ≤ f.late ∧ 65536 ≤ (s.cycle - f.since).toNat then
        let t := s.setCore core { k with freeze := none }
        if k.stitch.isSome || (upto 3).any (strandRuns s core) then trapAll t core { cause := cLATE, tval := 65536 } else t
      else s
    | none => s))

/-! Expiry. -/

/-- The wait of a strand that has reached its limit: neither frozen nor stopped. -/
def expired (s : State) (n : Nat) : Option WaitKind :=
  let x := s.strand n
  match x.wait with
  | some w => match w.lim with
    | some l =>
      if x.phase = .running ∧ !s.frozen (coreOf n) ∧ l ≤ (s.cycle - w.since).toNat then some w.kind else none
    | none => none
  | none => none

/-- An expiry of strand n, when its wait is of the kind and what it waits for still fails. -/
def expiry (s : State) (n : Nat) (kind : WaitKind → Bool) : Host.Outcome State Fault Refusal :=
  event (.ok (match expired s n with
    | some k => if kind k then expireWait s n k else s
    | none => s))

/-- BAND_WAIT_EXPIRY (R175). -/
def execBandWaitExpiry (strand : Nat) (s : State) : Host.Outcome State Fault Refusal :=
  let k := s.core (coreOf strand)
  expiry s strand (fun w => match w with
    | .bandFull r => !k.isFull r
    | .bandEmpty r => !canTake s strand r
    | _ => false)

/-- CMDQ_WAIT_EXPIRY (R179). -/
def execCmdqWaitExpiry (strand : Nat) (s : State) : Host.Outcome State Fault Refusal :=
  let c := coreOf strand
  expiry s strand (fun w => match w with
    | .cmdq e => decide (cmdqSize ≤ queueLen s c e + olderCmds (asStrand s strand) e)
    | _ => false)

/-- TOK_TAKE_EXPIRY (R193): the tokens are not there, or an older take still waits for them. -/
def execTokTakeExpiry (strand : Nat) (s : State) : Host.Outcome State Fault Refusal :=
  let k := s.core (coreOf strand)
  expiry s strand (fun w => match w with
    | .tok q n => decide ((k.tq q).count < n) ||
      (n != 0 && olderTake s (coreOf strand) q (ageOf s strand) (numOf strand))
    | _ => false)

/-- CPWAIT_EXPIRY (R197). -/
def execCpwaitExpiry (strand : Nat) (s : State) : Host.Outcome State Fault Refusal :=
  let k := s.core (coreOf strand)
  expiry s strand (fun w => match w with
    | .cpwait ch t => decide (2 ^ 63 ≤ (k.wptrOf ch - t).toNat)
    | _ => false)

/-- CQPOP_EXPIRY (R199): the queue holds no entry beyond those that older pops are due. -/
def execCqpopExpiry (strand : Nat) (s : State) : Host.Outcome State Fault Refusal :=
  let k := s.core (coreOf strand)
  expiry s strand (fun w => match w with
    | .cqpop e => decide ((k.engine e).comp.length ≤ olderPops (asStrand s strand) e)
    | _ => false)

/-- MRESTORE_WAIT_EXPIRY (R235). -/
def execMrestoreWaitExpiry (strand : Nat) (s : State) : Host.Outcome State Fault Refusal :=
  let cl := s.cluster (clusterOf (coreOf strand))
  expiry s strand (fun w => w == .mrestore && (pendingCmds cl).any (fun c => c.opc == 0x386 && !c.done))

/-- CBAR_EXPIRY (R242): the arrival is withdrawn. -/
def execCbarExpiry (strand : Nat) (s : State) : Host.Outcome State Fault Refusal :=
  expiry s strand (fun w => w == .cbar && (s.strand strand).arrived)

/-- RECAST_WAIT_EXPIRY (R295): the flip the strand waits for has not come. -/
def execRecastWaitExpiry (strand : Nat) (s : State) : Host.Outcome State Fault Refusal :=
  expiry s strand (fun w => match w with
    | .recast _ hb => recastPending s hb
    | _ => false)

/-- RING_WAIT_EXPIRY (R284-R286): the ring still has no place or no slot for the request. -/
def execRingWaitExpiry (strand : Nat) (s : State) : Host.Outcome State Fault Refusal :=
  expiry s strand (fun w => match w with
    | .sts _ hb =>
      let d := homeOf (hBase hb)
      decide (ringN s d (hRegion hb) ≤ ringPtr s d (hRegion hb) 0 - ringPtr s d (hRegion hb) 2)
    | .lds _ hb =>
      let d := homeOf (hBase hb)
      decide (ringPtr s d (hRegion hb) 0 ≤ ringPtr s d (hRegion hb) 1)
    | _ => false)

/-- LREC_WAIT_EXPIRY (R305). -/
def execLrecWaitExpiry (strand : Nat) (s : State) : Host.Outcome State Fault Refusal :=
  expiry s strand (fun w => match w with
    | .lrec v => let st := s.recState (nameDie v) (nameNum v)
                 st != 5 && st != 6
    | _ => false)

/-- JOB_WAIT_EXPIRY (R308). -/
def execJobWaitExpiry (strand : Nat) (s : State) : Host.Outcome State Fault Refusal :=
  expiry s strand (fun w => match w with
    | .job v => (s.job (nameDie v) (nameNum v)).count != 0
    | _ => false)

end Sys2Proof.Machine
end

