-- ==== Sys2Proof/Machine/Layout.lean ====
section
/-! DEFINITION. The layout-pair descriptor of a collective and the exchange it stands for (R351-R353). -/

namespace Sys2Proof.Machine
open Sys2Proof

/-- Size of axis x. -/
def lpAxis (bs : List Byte) (x : Nat) : Nat := bits (wordAt bs 8) (16 * x) 16
/-- Global extent of dimension d. -/
def lpExt (bs : List Byte) (d : Nat) : Nat := bits (wordAt bs 0x10) (16 * d) 16
/-- NA, RANK, OP, TRK, TROWS, TAG. -/
def lpNa (bs : List Byte) : Nat := bits (wordAt bs 0) 8 2
/-- RANK. -/
def lpRank (bs : List Byte) : Nat := bits (wordAt bs 0) 10 3
/-- OP. -/
def lpOp (bs : List Byte) : Nat := bits (wordAt bs 0) 13 3
/-- TRK. -/
def lpTrk (bs : List Byte) : Bool := bit (wordAt bs 0) 16
/-- TROWS. -/
def lpTrows (bs : List Byte) : Nat := bits (wordAt bs 0) 24 8
/-- TAG. -/
def lpTag (bs : List Byte) : BitVec 32 := BitVec.ofNat 32 (bits (wordAt bs 0) 32 32)
/-- The source layout. -/
def lpSrc (bs : List Byte) : Nat := bits (wordAt bs 0x18) 0 16
/-- The destination layout. -/
def lpDst (bs : List Byte) : Nat := bits (wordAt bs 0x18) 16 16
/-- SHIFT. -/
def lpShift (bs : List Byte) : Nat := bits (wordAt bs 0x18) 32 16
/-- SAXIS. -/
def lpSaxis (bs : List Byte) : Nat := bits (wordAt bs 0x18) 48 2
/-- The source handle. -/
def lpSrcH (bs : List Byte) : HBits := BitVec.ofNat 256 (natOfBytes ((bs.drop 0x20).take 32))
/-- The destination handle. -/
def lpDstH (bs : List Byte) : HBits := BitVec.ofNat 256 (natOfBytes ((bs.drop 0x40).take 32))
/-- M. -/
def lpM (bs : List Byte) : Nat := bits (wordAt bs 0x60) 0 32
/-- The product of the axis sizes. -/
def lpMembers (bs : List Byte) : Nat := lpAxis bs 0 * lpAxis bs 1 * lpAxis bs 2
/-- Module and die of member k. -/
def lpMember (bs : List Byte) (k : Nat) : Nat × Nat :=
  let w := word32At bs (0x100 + 4 * k)
  (bits w 0 11, bits w 11 5)

/-- The axis that shards dimension d of a layout; none when it is replicated. -/
def layAxis (lay d : Nat) : Option Nat := if bits lay (2 * d) 2 = 3 then none else some (bits lay (2 * d) 2)
/-- The dimension that a layout shards on axis x. -/
def layDim (lay x : Nat) : Option Nat := (upto 4).find? (fun d => layAxis lay d == some x)
/-- The partial-sum flag of axis x. -/
def layPart (lay x : Nat) : Bool := bit lay (8 + x)
/-- The root flag of axis x. -/
def layRoot (lay x : Nat) : Bool := bit lay (11 + x)

/-- The exchange along one axis (R352). -/
inductive Exch where
  | none | permute | broadcast | gather | slice | allToAll | allReduce | reduceScatter
  deriving DecidableEq, Repr, Inhabited

/-- R352's table: the exchange of axis x, when its combination is listed. -/
def exchOf (bs : List Byte) (x : Nat) : Option Exch :=
  let s := layDim (lpSrc bs) x
  let d := layDim (lpDst bs) x
  let sp := layPart (lpSrc bs) x
  let dp := layPart (lpDst bs) x
  if layRoot (lpSrc bs) x then (if s.isNone && d.isNone && !sp && !dp then some .broadcast else .none)
  else if !sp && !dp then
    if s == d then some (if lpSaxis bs == x && lpShift bs % lpAxis bs x != 0 then .permute else .none)
    else if d.isNone then some .gather
    else if s.isNone then some .slice
    else some .allToAll
  else if s.isSome || !sp then .none
  else if dp then (if d.isNone then some .none else .none)
  else if d.isNone then some .allReduce
  else some .reduceScatter

/-- Whether the exchange of some axis reduces. -/
def lpReduces (bs : List Byte) : Bool :=
  (upto 3).any (fun x => exchOf bs x == some .allReduce || exchOf bs x == some .reduceScatter)

/-- Mesh coordinate x of member k. -/
def meshAt (bs : List Byte) (k x : Nat) : Nat :=
  match x with
  | 0 => k % lpAxis bs 0
  | 1 => k / lpAxis bs 0 % lpAxis bs 1
  | _ => k / (lpAxis bs 0 * lpAxis bs 1)

/-- Length of dimension d of a shard. -/
def partLen (bs : List Byte) (lay d : Nat) : Nat :=
  match layAxis lay d with
  | some x => lpExt bs d / lpAxis bs x
  | none => lpExt bs d
/-- First global index of dimension d of member k's shard. -/
def partOff (bs : List Byte) (lay k d : Nat) : Nat :=
  match layAxis lay d with
  | some x => meshAt bs k x * partLen bs lay d
  | none => 0
/-- Elements of a shard. -/
def shardCount (bs : List Byte) (lay : Nat) : Nat := ((upto 4).map (partLen bs lay)).foldl (· * ·) 1

/-- Whether member j's source goes to member k at all: the coordinates an axis pairs (R352). -/
def pairs (bs : List Byte) (j k : Nat) : Bool :=
  (upto 3).all (fun x => match exchOf bs x with
    | some .none => meshAt bs j x == meshAt bs k x
    | some .slice => meshAt bs j x == meshAt bs k x
    | some .permute => (meshAt bs j x + lpShift bs) % lpAxis bs x == meshAt bs k x
    | some .broadcast => meshAt bs j x == 0
    | _ => true)

/-- Whether dimension d keeps its place in the shard: it is sharded on the permuted axis. -/
def keepsPlace (bs : List Byte) (d : Nat) : Bool :=
  match layAxis (lpSrc bs) d with
  | some x => exchOf bs x == some .permute
  | none => false

/-- Local coordinate d of flat element e of a shard (R279). -/
def localAt (bs : List Byte) (lay e d : Nat) : Nat :=
  e / ((upto d).map (partLen bs lay)).foldl (· * ·) 1 % partLen bs lay d

/-- Local coordinate d at member k of what stands at local coordinate l of member j's source. -/
def moveAt (bs : List Byte) (j k d l : Nat) : Option Nat :=
  if keepsPlace bs d then some l
  else
    let g := l + partOff bs (lpSrc bs) j d
    let lo := partOff bs (lpDst bs) k d
    if lo ≤ g ∧ g < lo + partLen bs (lpDst bs) d then some (g - lo) else none

/-- The element of member k's destination that element e of member j's source becomes, if any. -/
def moveElem (bs : List Byte) (j k e : Nat) : Option Nat :=
  if !pairs bs j k then none
  else
    (upto 4).reverse.foldl (fun (r : Option Nat) d =>
      match r, moveAt bs j k d (localAt bs (lpSrc bs) e d) with
      | some f, some l => some (l + partLen bs (lpDst bs) d * f)
      | _, _ => none) (some 0)

/-- How many elements of member j's source go to member k. -/
def pairCount (bs : List Byte) (j k : Nat) : Nat :=
  if !pairs bs j k then 0
  else ((upto 4).map (fun d => ((upto (partLen bs (lpSrc bs) d)).filter (fun l => (moveAt bs j k d l).isSome)).length)).foldl (· * ·) 1

/-- Whether a list of bytes is all zero. -/
def allZero (bs : List Byte) : Bool := bs.all (· == 0)

/-- Reserved values and must-be-zero bytes of the header (R351). -/
def lpFieldsOk (bs : List Byte) : Bool :=
  let w := wordAt bs 0
  bits w 0 8 == 1 && decide (1 ≤ lpNa bs) && decide (1 ≤ lpRank bs) && decide (lpRank bs ≤ 4) && decide (lpOp bs ≤ 5) &&
    bits w 17 7 == 0 && decide (1 ≤ lpTrows bs) && bits (wordAt bs 8) 48 16 == 0 &&
    (upto 3).all (fun x => decide (1 ≤ lpAxis bs x) && (decide (x < lpNa bs) || lpAxis bs x == 1)) &&
    (upto 4).all (fun d => decide (d < lpRank bs) || lpExt bs d == 1) &&
    bits (lpSrc bs) 14 2 == 0 && bits (lpDst bs) 11 5 == 0 && lpSaxis bs != 3 && bits (wordAt bs 0x18) 50 14 == 0 &&
    bits (wordAt bs 0x60) 32 32 == 0 && allZero ((bs.drop 0x68).take 0x98)

/-- The member table: M of them, reserved bits zero, this die listed once (R352). -/
def lpMembersOk (bs : List Byte) (me : Nat × Nat) : Bool :=
  lpM bs == lpMembers bs &&
    (List.range (lpM bs)).all (fun k => bits (word32At bs (0x100 + 4 * k)) 16 16 == 0 && decide ((lpMember bs k).2 ≤ 23)) &&
    ((List.range (lpM bs)).filter (fun k => lpMember bs k == me)).length == 1

/-- The layouts: listed combinations, no axis that shards two dimensions, exact divisions, one exchange (R352). -/
def lpLayoutsOk (bs : List Byte) : Bool :=
  let lays := [lpSrc bs, lpDst bs]
  lays.all (fun lay => (upto 3).all (fun x => decide (((upto 4).filter (fun d => layAxis lay d == some x)).length ≤ 1))) &&
    lays.all (fun lay => (upto 4).all (fun d => match layAxis lay d with
      | some x => lpExt bs d % lpAxis bs x == 0
      | none => true)) &&
    (upto 3).all (fun x => (exchOf bs x).isSome) &&
    decide (((upto 3).filter (fun x => !(exchOf bs x == some .none || exchOf bs x == some .slice))).length ≤ 1)

/-- R353's pairings of formats and operation. -/
def reduceOk (src dst : Fmt) (op : Nat) : Bool :=
  (src == .int32 && dst == .int32) || (src == .int64 && dst == .int64) ||
    ((src == .fp32 || src == .fp16 || src == .bf16) && dst == .af128 && op == 0)

/-- The handles (R352): spaces, counts, formats. -/
def lpHandlesOk (bs : List Byte) : Bool :=
  let s := lpSrcH bs
  let d := lpDstH bs
  let red := lpReduces bs
  let srcOk : Bool := hSpace s == .loose || (hSpace s == .fixed && !lpTrk bs)
  let dstOk : Bool := if red then hSpace d == .accrue else hSpace d == .loose
  let fmts : Bool := match hFmt s, hFmt d with
    | some f, some g => if red then reduceOk f g (lpOp bs) else f == g
    | _, _ => false
  let empty := shardCount bs (lpSrc bs) == 0
  hLegal s && hLegal d && srcOk && dstOk && fmts &&
    (empty || (hCount s == shardCount bs (lpSrc bs) && hCount d == shardCount bs (lpDst bs)))

/-- Bits of a tile of the source shard: TROWS rows under TRK, the whole shard otherwise (R354). -/
def tileBits (bs : List Byte) : Nat :=
  if lpTrk bs then lpTrows bs * 2048 else shardCount bs (lpSrc bs) * hWidth (lpSrcH bs)
/-- Number of tiles. -/
def tileCount (bs : List Byte) : Nat :=
  let all := shardCount bs (lpSrc bs) * hWidth (lpSrcH bs)
  if all = 0 then 0 else (all + tileBits bs - 1) / tileBits bs

/-- Whether the engine accepts a descriptor (R352, R354). -/
def lpAccepted (bs : List Byte) (me : Nat × Nat) : Bool :=
  lpFieldsOk bs && lpMembersOk bs me && lpLayoutsOk bs && lpHandlesOk bs && (!lpTrk bs || decide (tileCount bs ≤ 256))

end Sys2Proof.Machine
end

