-- ==== Sys2Proof/Machine/Fabric.lean ====
section
/-! DEFINITION. Collectives and the fabric's events (R349-R359). -/

namespace Sys2Proof.Machine
open Sys2Proof

/-- Collectives a die may have outstanding (R350), tracker entries (R354), numbers whose words are held (R358). -/
def collSize : Nat := 64
/-- Tracker entries of a die. -/
def trackSize : Nat := 256

/-- Byte-wide elements of the Loose read of a descriptor. -/
def descElems (h : HBits) (lo n : Nat) : List Elem :=
  (List.range n).map (fun i => ⟨i, 0, hBase h + BitVec.ofNat 56 (lo + i), false⟩)

/-- Read n bytes of a descriptor as a Loose load by a uniform instruction (R357). -/
def readDesc (s : State) (h : HBits) (lo n : Nat) : Except Halt (State × List Byte × Bool) := do
  let (s, got, absent, perm, poison) ← loadElems s h .loose false 8 (descElems h lo n)
  match pieceTrap absent perm with
  | some t => .error (.trap s { t with lanes := 0 })
  | none => .ok (s, got.map (fun e => BitVec.ofNat 8 e.2), poison)

/-- Whether collective number n is one of the 256 whose words a die holds when X is its next number (R358, R359). -/
def heldNum (x n : BitVec 16) : Bool := decide ((x - 1 - n).toNat ≤ 255)

/-- Tracker entries of a collective: one for each tile of its source shard (R354). -/
def newTracks (bs : List Byte) (num : BitVec 16) : List Track :=
  let all := shardCount bs (lpSrc bs) * hWidth (lpSrcH bs)
  (List.range (tileCount bs)).map (fun i => ⟨num, i, min (tileBits bs) (all - i * tileBits bs), 0⟩)

/-- R357, R352: a captured collective runs, unless its descriptor was refused: then it moves nothing and completes with ILL. -/
def beginColl (s : State) (d : Nat) (c : Coll) : State :=
  let c := { c with started := true }
  if c.status = cILL then finishColl s d c cILL
  else s.setDie d { s.die d with colls := (s.die d).colls.map (fun q => if q.num = c.num then c else q) }

/-- The collective that a captured command names starts on the core that runs its stitch now; one that was cancelled before (R358)
has its recorded word for an entry. -/
def startNamed (s : State) (core : Nat) (q : Cmd) : State :=
  match q.coll with
  | none => s
  | some (d, n) =>
    match (s.die d).colls.find? (fun c => c.num.toNat == n) with
    | some c => beginColl s d { c with core := core, strand := q.strand }
    | none => match (s.die d).collWords.find? (fun e => e.1 == n) with
      | some e => s.setCore core (placeEntry (s.core core) 3 e.2 none)
      | none => s

/-- R179, R180: engine 3 of a core starts the first command of its queue. -/
def startCollective (s : State) (core : Nat) : State :=
  let k := s.core core
  let x := k.engine 3
  if x.blocked ∨ s.frozen core then s
  else
    match x.queue with
    | q :: rest => startNamed (s.setCore core (k.setEngine 3 { x with queue := rest })) core q
    | [] => s

/-- R357 steps 3 and 4: a `reshard` is captured as a command of engine 3, which starts it at once when it may start one (R180). -/
def startColl (s : State) (i : Instr) (h : HBits) (d : BitVec 5) (bs : List Byte) (ok : Bool) : Except Halt State := do
  let x := s.die s.myDie
  let num := x.collNext
  let seq := (s.kore.engine 3).nextSeq
  let s ← captureCmd s 3 { parcels := parcelsWord i, handle := h, strand := s.cur, coll := some (s.myDie, num.toNat) }
  let me := (x.module_.toNat, s.myDie)
  let j := ((List.range (lpM bs)).find? (fun k => lpMember bs k == me)).getD 0
  let lin : BitVec 32 := match s.kore.stitch with
    | some t => t.lin
    | none => 0
  let c : Coll := {
    num := num, core := s.myCore, strand := s.cur, seq := seq, id := s.myLaunch, lin := lin, tenant := s.myTenant
    check := Config.collectiveCheck (bs.take 0x20 ++ bs.drop 0x100), started := false
    src := lpSrcH bs, dst := lpDstH bs, desc := bs }
  let c := if ok then { c with
      tiles := if lpTrk bs then [] else List.range (tileCount bs)
      left := ((List.range (lpM bs)).map (fun k => (k, pairCount bs k j))).filter (fun e => e.2 != 0) }
    else { c with status := cILL, poison := true }
  let next := num + 1
  let s := s.setDie s.myDie { x with
    collNext := next
    colls := x.colls ++ [c]
    tracks := if ok && lpTrk bs then x.tracks ++ newTracks bs num else x.tracks
    collWords := x.collWords.filter (fun (e : Nat × Word) => heldNum next (BitVec.ofNat 16 e.1)) }
  .ok (startCollective (s.sset d (BitVec.ofNat 64 (num.toNat + s.myDie * 2 ^ 16))) s.myCore)

/-- `reshard` (R357): the limit of 64 collectives, then the tracker entries (R354), then the command queue. -/
def execReshard (u : Hdr) (d : BitVec 5) (h : BitVec 4) (s : State) : Host.Outcome State Fault Refusal :=
  let i := Instr.reshard u d h
  uniform i (portCheck .w i) (fun s => do
    let hb := s.me.hget h
    handleCheck s i hb (some .loose) 0
    pureNever s 6
    alignCheck s hb (hWidth hb) 0 0
    let (s, head, p) ← readDesc s hb 0 0x100
    let x := s.die s.myDie
    let me := (x.module_.toNat, s.myDie)
    let table := lpM head == lpMembers head
    let (s, tail, q) ← if table then readDesc s hb 0x100 (4 * lpM head) else .ok (s, [], false)
    let bs := head ++ tail
    let ok := table && lpAccepted bs me
    if collSize ≤ x.colls.length then .error (.wait s .collectives (some s.me.wlim))
    else if ok && lpTrk bs && decide (trackSize < x.tracks.length + tileCount bs) then
      .error (.wait s (.trackers (tileCount bs)) (some s.me.wlim))
    else
      let s ← startColl (setPs s h (p || q)) i hb d bs ok
      .ok (s, .fall)) s

/-- What `cwait` finds under a name (R359): none while the collective has not completed. -/
def collWord (s : State) (w : Word) : Option Word :=
  let x := s.die s.myDie
  let n : BitVec 16 := w.setWidth 16
  let old : Word := BitVec.ofNat 64 (1 * 2 ^ 40)
  if bits w.toNat 16 5 ≠ s.myDie then some old
  else if heldNum x.collNext n then (x.collWords.find? (fun e => e.1 == n.toNat)).map (·.2)
  else if (n - x.collNext).toNat < 2 ^ 15 then none
  else some old

/-- `cwait` (R359). -/
def execCwait (u : Hdr) (d a : BitVec 5) (lim : BitVec 12) (s : State) : Host.Outcome State Fault Refusal :=
  uniform (.cwait u d a lim) noCheck (fun s => do
    pureNever s 6
    match collWord s (s.sget a) with
    | some w => .ok (s.sset d w, .fall)
    | none => .error (.wait s (.cwait (s.sget a)) (some (limOf lim)))) s

/-- CWAIT_EXPIRY (R359). -/
def execCwaitExpiry (strand : Nat) (s : State) : Host.Outcome State Fault Refusal :=
  expiry s strand (fun w => match w with
    | .cwait v => (collWord (asStrand s strand) v).isNone
    | _ => false)

/-- RESHARD_WAIT_EXPIRY (R354, R357). -/
def execReshardWaitExpiry (strand : Nat) (s : State) : Host.Outcome State Fault Refusal :=
  let x := s.die (dieOfStrand strand)
  expiry s strand (fun w => match w with
    | .collectives => decide (collSize ≤ x.colls.length)
    | .trackers n => decide (trackSize < x.tracks.length + n)
    | _ => false)

/-! The engine's side. -/

/-- A core number past every core: the context of a collective whose stitch has ended. -/
def noCore : Nat := 3072

/-- Make an access for the record that issued a collective: as its strand while its stitch runs, else as a strand of that
launch on no core. -/
def withColl {α : Type} (s : State) (c : Coll) (f : State → Nat → Eng α) : Eng α :=
  if issuerRuns s c then f s c.strand
  else
    let clean (t : State) : State := (t.setCore noCore {}).setStrand (3 * noCore) {}
    match f (s.setCore noCore { stitch := some { id := c.id, lin := c.lin, tenant := c.tenant } }) (3 * noCore) with
    | .ok t a => .ok (clean t) a
    | .fail t x => .fail (clean t) x
    | .wait _ t => .wait s t
    | .stop k => .stop k

/-- A failure that a shard's handle alone decides (R326, R357, R184). -/
def shardCause (h : HBits) : Option (BitVec 8) :=
  if dieWrong h (some (hSpace h)) then some cPERM
  else if (hBase h).toNat % elemBytes (hWidth h) ≠ 0 then some cALIGN
  else none

/-- A row of a tile as it was read: source elements with their codes, and poison. -/
abbrev SentRow := List (Nat × Nat) × Bool

/-- Cut element numbers [lo, hi) into rows of n. -/
def elemRows (n lo : Nat) : Nat → List (List Nat)
  | 0 => []
  | k + 1 => ((List.range n).map (lo + ·)) :: elemRows n (lo + n) k

/-- Read the rows of a tile one after another; after a failed row every row is zero and poisoned (R184, R357). `prior` is what the home
has taken of the tile earlier. -/
def readRows (s : State) (c : Coll) (prior : Option HeldReq) (cause : BitVec 8) :
    List (List Nat) → Eng (List SentRow × BitVec 8)
  | [] => .ok s ([], cause)
  | r :: rs =>
    let h := c.src
    let w := hWidth h
    let dead (s : State) (x : BitVec 8) : Eng (List SentRow × BitVec 8) :=
      match readRows s c prior x rs with
      | .ok s (t, y) => .ok s ((r.map (fun e => (e, 0)), true) :: t, y)
      | .wait s t => .wait s t
      | .fail s x => .fail s x
      | .stop k => .stop k
    if cause ≠ 0 then dead s cause
    else
      match shardCause h with
      | some x => dead s x
      | none =>
        let els := r.zipIdx.map (fun e =>
          let (va, hi) := elemAddr h w e.1
          (⟨e.2, 0, va, hi⟩ : Elem))
        match withColl s c (fun s n => engineLoad s n prior h (hSpace h) w els) with
        | .ok s (vs, p) =>
          match readRows s c prior cause rs with
          | .ok s (t, y) => .ok s ((r.zip vs, p) :: t, y)
          | .wait s t => .wait s t
          | .fail s x => .fail s x
          | .stop k => .stop k
        | .fail s x => dead s x
        | .wait s t => .wait s t
        | .stop k => .stop k

/-- The rows of element numbers of tile i. -/
def tileElems (bs : List Byte) (i : Nat) : List (List Nat) :=
  let w := max 1 (hWidth (lpSrcH bs))
  let count := shardCount bs (lpSrc bs)
  let lo := i * tileBits bs / w
  let hi := min (lo + tileBits bs / w) count
  let per := perRow (lpSrcH bs)
  (elemRows per lo ((hi - lo + per - 1) / per)).map (fun r => r.filter (fun e => decide (e < hi)))

/-- The messages of a row that member j of a die sends (R352). -/
def rowMessages (bs : List Byte) (c : Coll) (d j : Nat) (fmt : Fmt) (row : SentRow) : List Message :=
  (List.range (lpM bs)).filterMap (fun k =>
    let cells := row.1.filterMap (fun e => (moveElem bs j k e.1).map (fun f => (f, e.2)))
    if cells = [] then none
    else some {
      module_ := (lpMember bs k).1, die := (lpMember bs k).2, tag := lpTag bs, check := c.check, sender := d, member := j
      num := c.num, fmt := fmt, cells := cells, poison := row.2 })

/-- Replace a collective of a die. -/
def setColl (s : State) (d : Nat) (c : Coll) : State :=
  s.setDie d { s.die d with colls := (s.die d).colls.map (fun q => if q.num = c.num then c else q) }

/-- What the home can have taken of a tile of a collective (R261). -/
def tileHeld (s : State) (c : Coll) (i : Nat) : HeldReq :=
  heldArea s c.src (hSpace c.src) ((tileElems c.desc i).flatMap (fun r => r.map (fun e => (elemAddr c.src (hWidth c.src) e).1)))

/-- R354: read tile i of a collective and send it; rows after one that failed, in this tile or an earlier one, fail with it
(R184, R357). A tile that waits is read as a whole later. -/
def sendTile (s : State) (d : Nat) (c : Coll) (i : Nat) : Eng Unit :=
  let bs := c.desc
  let prior := (c.tookTiles.find? (fun t => t.1 == i)).map (·.2)
  let me := ((s.die d).module_.toNat, d)
  let j := ((List.range (lpM bs)).find? (fun k => lpMember bs k == me)).getD 0
  match readRows s c prior c.srcFail (tileElems bs i) with
  | .stop k => .stop k
  | .wait s t =>
    .wait (if t = prior then s
      else setColl s d { c with tookTiles := tput (tdel c.tookTiles i) i ((tileHeld s c i).join prior) }) t
  | .fail s x => .fail s x
  | .ok s (rows, cause) =>
    let ms := rows.flatMap (rowMessages bs c d j ((hFmt c.src).getD .fp32))
    let s := setColl s d { c with
      tiles := c.tiles.filter (· != i)
      tookTiles := tdel c.tookTiles i
      unsent := c.unsent + ms.length
      srcFail := cause
      status := if c.status = 0 then cause else c.status
      poison := c.poison || cause != 0 || rows.any (·.2) }
    let s := s.setDie d { s.die d with tracks := (s.die d).tracks.filter (fun t => !(t.num == c.num && t.tile == i)) }
    .ok { s with messages := s.messages ++ ms } ()

/-- Send the first tile of a list that need not wait. -/
def sendFirst (s : State) (d : Nat) : List (BitVec 16 × Nat) → Ev
  | [] => .ok s
  | (n, i) :: rest =>
    match (s.die d).colls.find? (fun c => c.num == n && c.started) with
    | none => sendFirst s d rest
    | some c =>
      match sendTile s d c i with
      | .ok s _ => .ok s
      | .wait s _ => sendFirst s d rest
      | .fail s _ => .ok s
      | .stop k => .error (.noStorage k)

/-- TILE_TRANSFER (R354): a triggered tile of a started collective, else the next tile of an untracked shard; one that waits keeps
no other from being sent. -/
def transferTile (s : State) (d : Nat) : Ev :=
  let x := s.die d
  sendFirst s d ((x.tracks.filter (fun t => decide (t.size ≤ t.count))).map (fun t => (t.num, t.tile)) ++
    (x.colls.filter (fun c => c.tiles != [])).map (fun c => (c.num, c.tiles.headD 0)))

/-- TILE_TRANSFER (R354). -/
def execTileTransfer (die : Nat) (s : State) : Host.Outcome State Fault Refusal := event (transferTile s die)

/-- What a delivery makes of the machine: performed, with the bits written and whether a block of them is poisoned; failed,
with nothing of the row written (R184); or held, with the request that the home has taken. -/
inductive Delivered where
  | done (s : State) (wrote : Nat) (poison : Bool)
  | failed (cause : BitVec 8)
  | held (s : State) (taken : Option HeldReq)
  | stop (k : Nat)

/-- What the home can have taken of the contributions of a message (R261). -/
def messageHeld (s : State) (c : Coll) (m : Message) : HeldReq :=
  heldArea s c.dst .accrue (m.cells.map (fun e => (elemAddr c.dst (hWidth c.dst) e.1).1))

/-- Perform the contributions of a reducing exchange one after another (R353): `n` bits have been, `p` says that a block of them
is poisoned. `prior` is what the home has taken of the message earlier. -/
def addAll (s : State) (c : Coll) (m : Message) (prior : Option HeldReq) : List (Nat × Nat) → Nat → Bool → Delivered
  | [], n, p => .done s n p
  | (e, v) :: rest, n, p =>
    let h := c.dst
    let w := hWidth h
    let op : AccOp := if hFmt h = some .af128 then afOp m.fmt h v else intOp (lpOp c.desc) w h v
    let va := (elemAddr h w e).1
    let entry : AccEntry := ⟨c.id, c.lin, c.core, c.tenant, h, va, op, m.poison, prior.any (·.covers h [va])⟩
    match takeUpdate s entry with
    | .done t => addAll t c m prior rest (n + w) (p || m.poison || poisonAt t .accrue va)
    | .failed _ y => .failed y
    | .held t =>
      .held t (if homeCheck s c.tenant h entry.prior op.size [(0, va)] = .held then prior else some ((messageHeld s c m).join prior))
    | .nowhere k => .stop k

/-- Write the elements of a message that does not reduce, as a copy-out row is written (R357, R184). -/
def writeAll (s : State) (c : Coll) (m : Message) (prior : Option HeldReq) : Delivered :=
  let h := c.dst
  let w := hWidth h
  let els := m.cells.zipIdx.map (fun e =>
    let (va, hi) := elemAddr h w e.1.1
    ((⟨e.2, 0, va, hi⟩ : Elem), e.1.2))
  match withColl s c (fun s n => engineStore s n prior h w false (fun _ => m.poison) els) with
  | .ok s p => .done s (m.cells.length * w) p
  | .fail _ x => .failed x
  | .wait s t => .held s t
  | .stop k => .stop k

/-- Perform a message at a member (R353, R357): a row after one that failed fails with it (R184). -/
def receive (s : State) (c : Coll) (m : Message) (prior : Option HeldReq) : Delivered :=
  match (if c.dstFail = 0 then shardCause c.dst else some c.dstFail) with
  | some x => .failed x
  | none => if lpReduces c.desc then addAll s c m prior m.cells 0 false else writeAll s c m prior

/-- A message of this module's queue, apart from poison that the link added (R349). -/
def sameMessage (m q : Message) : Bool := { m with poison := q.poison } == q && (m.poison || !q.poison)

/-- What the home holds of a message, whether or not the link has poisoned it since. -/
def tookMessage (c : Coll) (m : Message) : Option HeldReq :=
  (c.tookMessages.find? (fun e => { e.1 with poison := m.poison } == m)).map (·.2)

/-- A message of a collective is held by the home. -/
def holdMessage (c : Coll) (m : Message) (t : HeldReq) : Coll :=
  { c with tookMessages := c.tookMessages.filter (fun e => { e.1 with poison := m.poison } != m) ++ [(m, t)] }

/-- A message has been performed: it leaves the queue, and its sender has one fewer on its way (R358). -/
def performed (s : State) (m : Message) : State :=
  match s.messages.find? (sameMessage m) with
  | none => s
  | some q =>
    let s := { s with messages := s.messages.erase q }
    match (s.die m.sender).colls.find? (fun c => c.num == m.num) with
    | some c => setColl s m.sender { c with unsent := c.unsent - 1 }
    | none => s

/-- R312, R358: what a message leaves in its collective: the bits it wrote, poison met, or the failure. -/
def received (s : State) (c : Coll) (m : Message) (wrote : Nat) (poison : Bool) (cause : BitVec 8) : State :=
  let bytes (n : Nat) : Nat := (n + 7) / 8
  let n' := tget 0 c.left m.member - m.cells.length
  let s := setColl s m.die { c with
    left := tset 0 c.left m.member n'
    wrote := c.wrote + wrote
    tookMessages := c.tookMessages.filter (fun e => { e.1 with poison := m.poison } != m)
    dstFail := if c.dstFail = 0 then cause else c.dstFail
    status := if c.status = 0 then cause else c.status
    poison := c.poison || m.poison || poison || cause != 0 }
  let n := bytes (c.wrote + wrote) - bytes c.wrote
  performed (if n = 0 then s else countTag s m.die m.tag n) m

/-- MESSAGE_DELIVERY (R312, R349, R357): a message for another module leaves the package. One for this module is performed
by the collective of its TAG that still waits for its sender, and ends a collective whose check word differs with ILL. -/
def deliver (s : State) (m : Message) : Ev :=
  let x := s.die m.die
  if m.module_ ≠ x.module_.toNat then .ok (performed s m)
  else
    match x.colls.find? (fun c => c.started && lpTag c.desc == m.tag && (c.check != m.check || decide (0 < tget 0 c.left m.member))) with
    | none => .ok s
    | some c =>
      if c.check ≠ m.check then .ok (performed (finishColl s m.die c cILL) m)
      else if s.frozen c.core then .ok s
      else
        match receive s c m (tookMessage c m) with
        | .stop k => .error (.noStorage k)
        | .held t taken =>
          -- nothing of a held message is performed; a core frozen at a limit stays so (R368)
          let s := match taken with
            | some q => if tookMessage c m = some q then s else setColl s m.die (holdMessage c m q)
            | none => s
          .ok (if t.frozen c.core && c.core != noCore then freezeCore s (homeOf (hBase c.dst)) c.core 1 else s)
        | .done s n p => .ok (received s c m n p 0)
        | .failed x => .ok (received s c m 0 false x)

/-- MESSAGE_DELIVERY (R312, R349). -/
def execMessageDelivery (m : Message) (s : State) : Host.Outcome State Fault Refusal := event (deliver s m)

/-- Whether a collective has nothing left to send or to receive (R358). -/
def collDone (x : Die) (c : Coll) : Bool :=
  c.started && c.tiles == [] && x.tracks.all (fun t => t.num != c.num) && c.unsent == 0 && c.left == []

/-- ENGINE_COMMAND_START (R179): a copy channel starts its next command; the scatter-accumulate engine starts or
continues one; a collective that engine 3 could not start when it was captured starts (R180, R357). Matrix commands are the
array's. -/
def execEngineCommandStart (core engine chan : Nat) (s : State) : Host.Outcome State Fault Refusal :=
  event (.ok (if engine = 0 then startCopy s core chan else if engine = 2 then startScatter s core
    else if engine = 3 then startCollective s core else s))

/-- COLLECTIVE_COMPLETE (R358). -/
def execCollectiveComplete (die num : Nat) (s : State) : Host.Outcome State Fault Refusal :=
  let x := s.die die
  event (.ok (match x.colls.find? (fun c => c.num.toNat == num) with
    | some c => if collDone x c then finishColl s die c c.status else s
    | none => s))

/-- R350, R358: a write of FABCAN completes that collective at once with WAIT. -/
def cancelColl (s : State) (d : Nat) (num : BitVec 16) : State :=
  let s := s.setDie d { s.die d with fabCan := num }
  match (s.die d).colls.find? (fun c => c.num == num) with
  | some c => finishColl s d c cWAIT
  | none => s

/-- COLLECTIVE_CANCEL (R358). -/
def execCollectiveCancel (die num : Nat) (s : State) : Host.Outcome State Fault Refusal :=
  fwEvent s (.ok (cancelColl s die (BitVec.ofNat 16 num)))

/-- FLIT_RETRY (R325, R349): a retry reorders nothing and changes no value. -/
def execFlitRetry (_die _link : Nat) (s : State) : Host.Outcome State Fault Refusal := event (.ok s)

/-- The die of scale-out port p (R349). -/
def portDie (p : Nat) : Nat := [0, 1, 2, 3, 4, 5, 6, 11, 12, 17, 18, 19, 20, 21, 22, 23].getD (p / 2) 24

/-- PORT_LINK_UP_CHANGE (R350): FABPORT.UP of a port of the die. -/
def execPortLinkUpChange (die port : Nat) (up : Bool) (s : State) : Host.Outcome State Fault Refusal :=
  let x := s.die die
  event (.ok (if portDie port = die then
      s.setDie die { x with portUp := if up then x.portUp ||| (1#32 <<< port) else x.portUp &&& ~~~(1#32 <<< port) }
    else s))

end Sys2Proof.Machine
end

