-- ==== Sys2Proof/Machine/Package.lean ====
section
/-! DEFINITION. Page migration (R327-R329), the host submission rings (R330-R333) and the control-window registers (R14,
R224, R252, R274, R323, R329, R333, R350, R366, R368, R382). -/

namespace Sys2Proof.Machine
open Sys2Proof

/-! Migration. -/

/-- PSIZE of the page a request names. -/
def migSize (s : State) (q : MigReq) : Nat := bits (rafOf s q.space q.va).toNat 60 2
/-- The page. -/
def migPage (s : State) (q : MigReq) : BitVec 56 := pageAt s q.space q.va
/-- Its epoch. -/
def pageEpoch (x : Die) (page : BitVec 56) : BitVec 8 := tget 0 x.epochs (page.toNat / 65536)
/-- Its leaf entry, when the levels above are present. -/
def migLeaf (s : State) (q : MigReq) : Option (Nat × Nat) := (pageLeaf s q.space q.va).map (fun k => (k, s.num k 8))

/-- Whether the bolt of an address is Stream or Accrue. -/
def boltPinned (s : State) (va : BitVec 56) : Bool :=
  match regionAt s va with
  | some r =>
    let d := homeOf va
    match boltOf s d r va with
    | some b => (runAt (rgnRunList s d r) b).any (fun e => e.2.1 == .stream || e.2.1 == .accrue)
    | none => false
  | none => false

/-- Whether a page stays where it is (R327): a page any bolt of which is Stream or Accrue, a page that is not present or lies in a
vault, a page of 512 MiB or 16 GiB. The offset bits of the request's address are ignored (R329). -/
def migPinned (s : State) (q : MigReq) : Bool :=
  let size := migSize s q
  let role : Bool := size < 2 && (List.range (2 ^ pageBits size / 65536)).any (fun i =>
    boltPinned s (migPage s q + BitVec.ofNat 56 (65536 * i)))
  let leaf : Bool := match migLeaf s q with
    | some (_, w) => !bit w 0 || bit w 4 || entryBad true w
    | none => true
  q.space == .stream || q.space == .accrue || role || leaf || decide (2 ≤ size)

/-- Whether a page lies in host memory. -/
def migAtHost (s : State) (q : MigReq) : Bool := match migLeaf s q with
  | some (_, w) => bit w 3
  | none => false

/-- Post a result to the copy of the registers that submitted the request (R329). -/
def postResult (s : State) (d : Nat) (q : MigReq) (result : Nat) : State :=
  let x := s.die d
  let now := if vaDie q.va = d then b2n (migAtHost s q) * 2 ^ 60 + (pageEpoch x (migPage s q)).toNat else 0
  let w : Word := BitVec.ofNat 64 (result * 2 ^ 61 + now)
  let set (r : MigRegs) : MigRegs := { r with cmd := r.cmd &&& ~~~(1#64 <<< 63), res := w }
  s.setDie d (if q.host then { x with migHost := set x.migHost } else { x with migFw := set x.migFw })

/-- R328 step 1: the result that ends a request at once. A page that the die does not own is not its unit's to move (R327, R334): the
request is refused (log entry 74). -/
def migCheck (s : State) (d : Nat) (q : MigReq) : Option Nat :=
  if vaDie q.va ≠ d then some 4
  else if bits q.cmd.toNat 0 8 ≠ (pageEpoch (s.die d) (migPage s q)).toNat then some 2
  else if bit q.cmd.toNat 62 == migAtHost s q ∧ (migLeaf s q).isSome then some 3
  else if migPinned s q then some 4
  else none

/-- The unit takes requests in order until one passes its check (R328). -/
def migAdvance : Nat → State → Nat → State
  | 0, s, _ => s
  | n + 1, s, d =>
    match (s.die d).migQueue with
    | [] => s
    | q :: rest =>
      match migCheck s d q with
      | none => s
      | some r => migAdvance n (postResult (s.setDie d { s.die d with migQueue := rest }) d q r) d

/-- The first request of the queue ends with a result; what was held proceeds, and the unit takes the next (R328). -/
def migEnd (s : State) (d result : Nat) : State :=
  match (s.die d).migQueue with
  | [] => s
  | q :: rest => heldForwards (migAdvance rest.length (postResult (s.setDie d { s.die d with migQueue := rest }) d q result) d)

/-- The bits of MIGCMD that R329 gives: a write drops the others (R14; log entry 40). -/
def migFields : Word := 0xC6FFFFFFFFFFF0FF

/-- R329: MIGVA and MIGCMD are written; GO submits. While the copy's request is still with the unit, the write of MIGCMD is dropped whole
(log entry 75). -/
def submitMig (s : State) (d : Nat) (host : Bool) (va : BitVec 56) (cmd : Word) : State :=
  let x := s.die d
  let old := if host then x.migHost else x.migFw
  if bit old.cmd.toNat 63 then s
  else
    let cmd := cmd &&& migFields
    let r : MigRegs := { va := va, cmd := cmd, res := if bit cmd.toNat 63 then 0 else old.res }
    let x := if host then { x with migHost := r } else { x with migFw := r }
    if bit cmd.toNat 63 then
      let n := x.migQueue.length
      let s := s.setDie d { x with migQueue := x.migQueue ++ [⟨host, va, cmd⟩] }
      if n = 0 then migAdvance 1 s d else s
    else s.setDie d x

/-- MIGRATION_REQUEST (R328, R329). -/
def execMigrationRequest (die : Nat) (host : Bool) (va : BitVec 56) (cmd : BitVec 64) (s : State) :
    Host.Outcome State Fault Refusal :=
  if host then hostEvent s (.ok (submitMig s die true va cmd)) else fwEvent s (.ok (submitMig s die false va cmd))

/-- Move n bytes from one place to another: what lay at the target goes, and so does its poison. -/
def moveBytes (s : State) (src dst n : Nat) : State :=
  let inside (lo m k : Nat) : Bool := decide (lo ≤ k) && decide (k < lo + m)
  let cells := s.mem.filter (fun c => inside src n c.1)
  let blocks := s.poison.filter (fun c => inside (src / 256) (n / 256) c.1)
  let mem := s.mem.filter (fun c => !inside dst n c.1)
  let poison := s.poison.filter (fun c => !inside (dst / 256) (n / 256) c.1)
  { s with
    mem := cells.foldl (fun m (c : Nat × Byte) => tset 0 m (dst + (c.1 - src)) c.2) mem
    poison := blocks.foldl (fun m (c : Nat × Bool) => tset false m (dst / 256 + (c.1 - src / 256)) c.2) poison }

/-- R328 steps 3 and 4: copy and flip, once every request to the page that was taken earlier has been performed and the skein holds
none. Host memory is reached over a link at 64 GT/s only (R361). A page that has become one that stays where it is ends the request
with REFUSED (log entry 74). -/
def migFlip (s : State) (d : Nat) : Ev :=
  match (s.die d).migQueue with
  | [] => .ok s
  | q :: _ =>
    let page := migPage s q
    let busy := (s.die d).skein.any (fun e => pageAt s e.space e.va == pageAt s e.space page) ||
      !noneTaken s d (fun _ block => pageOf (migSize s q) (BitVec.ofNat 56 (65536 * block)) == page)
    match migLeaf s q with
    | none => .ok (migEnd s d 4)
    | some (k, w) =>
      if migPinned s q then .ok (migEnd s d 4)
      else if busy then .ok s
      else
        let host := bit q.cmd.toNat 62
        let w' := putBits (putBits w 12 44 (bits q.cmd.toNat 12 44)) 3 1 (b2n host)
        let p := migSize s q
        match leafPlace page p w {}, leafPlace page p w' {} with
        | .ok a, .ok b =>
          if (bit w 3 || host) && !memOpen s then .ok s else
          let s := (moveBytes s a b (2 ^ pageBits p)).setNum k 8 w'
          let x := s.die d
          let e := pageEpoch x page
          let s := s.setDie d { x with
            epochs := tset 0 x.epochs (page.toNat / 65536) (e + 1)
            tlb := x.tlb.filter (fun t => pageOf t.psize.toNat page != t.page) }
          .ok (migEnd s d 1)
        | .nowhere a, _ => .error (.noStorage a)
        | _, .nowhere b => .error (.noStorage b)
        | _, _ => .ok (migEnd s d 4)

/-- MIGRATION_FLIP (R328). -/
def execMigrationFlip (die : Nat) (s : State) : Host.Outcome State Fault Refusal := event (migFlip s die)

/-! Host rings. -/

/-- A ring of a die. -/
def State.ring (s : State) (d n : Nat) : HostRing := tget {} (s.die d).hostRings n
/-- Replace it. -/
def State.setRing (s : State) (d n : Nat) (r : HostRing) : State :=
  s.setDie d { s.die d with hostRings := tset {} (s.die d).hostRings n r }

/-- An error word (R333). -/
def errWord (cause sub : Nat) (seq : BitVec 32) : Word := BitVec.ofNat 64 (2 ^ 63 + cause * 2 ^ 40 + sub * 2 ^ 32 + seq.toNat)

/-- Whether STALEPKT has stopped a ring (R332). -/
def HostRing.stopped (r : HostRing) : Bool := bit r.err.toNat 63 && bits r.err.toNat 40 8 == 0x13

/-- R332: STALEPKT with a reason: the ring stops and the host is interrupted. -/
def stalePkt (s : State) (d n reason : Nat) (seq : BitVec 32) : State :=
  let s := s.setRing d n { s.ring d n with err := errWord 0x13 reason seq, upto := none, firstRead := none }
  { s with boot := { s.boot with irqs := s.boot.irqs + 1 } }

/-- R331 step 1: a kick. -/
def kick (s : State) (d n : Nat) (k : BitVec 32) : State :=
  let r := s.ring d n
  let s := s.setRing d n { r with kick := k }
  let j := (k - r.next).toNat
  if r.stopped then s
  else if !r.en then stalePkt s d n 3 k
  else if j ≤ 255 then
    let far : Bool := match r.upto with
      | some u => decide ((u - r.next).toNat < j)
      | none => true
    if far then s.setRing d n { s.ring d n with upto := some k } else s
  else if 2 ^ 32 - 256 ≤ j then s
  else stalePkt s d n 2 k

/-- HOST_KICK (R331). -/
def execHostKick (die ring : Nat) (k : BitVec 32) (s : State) : Host.Outcome State Fault Refusal :=
  hostEvent s (.ok (kick s die ring k))

/-- Place of the packet of slot k of a ring (R330). -/
def packetKey (s : State) (d n : Nat) (k : BitVec 32) : Nat :=
  hbmKey d ((s.die d).hsqBase.toNat + 0x8000 * n + 128 * (k.toNat % 256))

/-- The fields a packet writes: field numbers of R299 and their values (R330, R331). -/
def packetFields (s : State) (p : Nat) : List (Nat × Nat) :=
  let w := s.num (p + 0x10) 8
  [(0, s.num (p + 8) 8), (1, bits w 0 6), (2, bits w 16 16), (3, bits w 32 16), (5, s.num (p + 0x18) 8), (6, s.num (p + 0x20) 8)]

/-- What becomes of a packet: it is applied, refused whole with a sub-code, or held with its record's arm. -/
inductive Packet where
  | applied (s : State)
  | refused (sub : Nat)
  | held

/-- R331 step 3: apply a packet in one step, or answer the sub-code that refuses it whole. One that arms a record whose pricking lies in a
page that moves waits (R328). -/
def applyPacket (s : State) (d n p : Nat) : Packet :=
  let name : Word := BitVec.ofNat 64 (s.num p 8)
  let rec' := nameNum name
  let t := (s.ring d n).tenant.toNat
  let fs := packetFields s p
  if !nameLegal name ∨ nameDie name ≠ d then .refused 1
  else if s.recTenant d rec' ≠ t then .refused 2
  else
    match fs.findSome? (fun f => patchRefused s d rec' f.1 f.2) with
    | some sub => .refused sub
    | none =>
      let s' := fs.foldl (fun (s : State) f => patchRecord s d rec' f.1 f.2) s
      if !bit (s.num (p + 0x28) 8) 0 then .applied s'
      else if armHeld s' t d rec' then .held
      else match armRecord s' t d rec' with
        | .ok s => .applied s
        | .error sub => .refused sub

/-- A slot has been handled (R331 step 4). -/
def slotDone (s : State) (d n : Nat) : State :=
  let r := s.ring d n
  s.setRing d n { r with
    next := r.next + 1
    firstRead := none
    upto := if r.upto = some r.next then none else r.upto }

/-- SEQ_POLL (R331): a read of SEQ of the slot NEXT, and again every 64 cycles after the first; no read is made once 4,096 cycles
have passed. -/
def seqPoll (s : State) (d n : Nat) : State :=
  let r := s.ring d n
  let p := packetKey s d n r.next
  if r.stopped ∨ !r.en ∨ r.upto.isNone then s
  else
    let first := r.firstRead.getD s.cycle
    if 4096 ≤ (s.cycle - first).toNat ∨ (s.cycle - first).toNat % 64 ≠ 0 then s
    else if s.num (p + 0x78) 4 = r.next.toNat then
      match applyPacket s d n p with
      | .applied t => slotDone t d n
      | .refused sub => slotDone (s.setRing d n { r with err := errWord 0x0C sub r.next }) d n
      | .held => s.setRing d n { r with firstRead := none }
    else s.setRing d n { r with firstRead := some first }

/-- SEQ_POLL (R331). -/
def execSeqPoll (die ring : Nat) (s : State) : Host.Outcome State Fault Refusal := event (.ok (seqPoll s die ring))

/-- STALEPKT_TIMEOUT (R331, R332). -/
def execStalepktTimeout (die ring : Nat) (s : State) : Host.Outcome State Fault Refusal :=
  let r := s.ring die ring
  event (.ok (match r.firstRead with
    | some f => if 4096 ≤ (s.cycle - f).toNat ∧ !r.stopped then stalePkt s die ring 1 r.next else s
    | none => s))

/-- HSQERR_CLEAR (R332). -/
def execHsqerrClear (die ring : Nat) (s : State) : Host.Outcome State Fault Refusal :=
  let r := s.ring die ring
  hostEvent s (.ok (s.setRing die ring { r with err := r.err &&& ~~~(1#64 <<< 63) }))

/-! Control-window registers. -/

/-- Bits [lo + n - 1 : lo] of a register write, in place. -/
def keepBits (v : Word) (lo n : Nat) : Word := BitVec.ofNat 64 (bits v.toNat lo n * 2 ^ lo)

/-- An indexed register: the index of an offset in an array of n registers `step` bytes apart, when it is one. -/
def regIdx (off base step n : Nat) : Option Nat :=
  if base ≤ off ∧ off < base + step * n ∧ (off - base) % step = 0 then some ((off - base) / step) else none

/-- A write to a die-wide register of R274, R323, R329, R333, R350. -/
def writeDieReg (s : State) (d off : Nat) (v : Word) : Option State :=
  let x := s.die d
  let put (y : Die) : Option State := some (s.setDie d y)
  if off = 0x1000 then put { x with rgnBase := keepBits v 16 40 }
  else if off = 0x1008 then
    let sp := spaceOf (bits v.toNat 56 2)
    put { x with tlbInv := keepBits v 63 1 ||| keepBits v 56 2 ||| keepBits v 0 56, tlb := x.tlb.filter (fun e => !(e.space == sp && (bit v.toNat 63 || e.page == pageOf e.psize.toNat (v.setWidth 56)))) }
  else if off = 0x1010 then put { x with skHigh := BitVec.ofNat 16 (bits v.toNat 32 16) }
  else if off = 0x1018 then put { x with skThr := BitVec.ofNat 15 (bits v.toNat 0 15) }
  else if off = 0x2000 then put { x with recBase := keepBits v 20 36 }
  else if off = 0x2008 then put { x with dmode := keepBits v 63 1 ||| keepBits v 0 48 }
  else if off = 0x2410 then put { x with hits := v.setWidth 32 }
  else if off = 0x2800 then put { x with migFw := { x.migFw with va := v.setWidth 56 } }
  else if off = 0x2808 then some (submitMig s d false x.migFw.va v)
  else if off = 0x3000 then put { x with hsqBase := keepBits v 20 36 }
  else if off = 0x4000 then put { x with module_ := BitVec.ofNat 11 (bits v.toNat 0 11) }
  else if off = 0x4008 then
    put { x with portEn := BitVec.ofNat 32 ((upto 32).foldl (fun m p => if portDie p = d ∧ bit v.toNat p then m + 2 ^ p else m) 0) }
  else if off = 0x4018 then
    some (cancelColl s d (v.setWidth 16))
  else none

/-- The fields of an attribute-file entry (R252). -/
def rafBits (v : Word) : Word := keepBits v 63 1 ||| keepBits v 60 2 ||| keepBits v 12 44

/-- A write to an indexed register of R252, R323, R326, R333, R368, R382. -/
def writeIdxReg (s : State) (d off : Nat) (v : Word) : Option State :=
  let x := s.die d
  let put (y : Die) : Option State := some (s.setDie d y)
  let raf := rafBits v
  match regIdx off 0x1100 8 128 with
  | some k => put { x with raf := tset 0 x.raf k raf }
  | none =>
  match regIdx off 0x1500 8 128 with
  | some k => if d = 0 then put { x with hostRaf := tset 0 x.hostRaf k raf } else some s
  | none =>
  match regIdx off 0x2010 8 128 with
  | some t => put { x with squota := tset 0 x.squota t (min (bits v.toNat 0 14) 8192) }
  | none =>
  match regIdx off 0x3100 8 16 with
  | some n => some (s.setRing d n { s.ring d n with en := bit v.toNat 63, tenant := BitVec.ofNat 7 (bits v.toNat 32 7) })
  | none =>
  match regIdx off 0x3200 8 16 with
  | some n => some (kick s d n (v.setWidth 32))
  | none =>
  match regIdx off 0x3300 8 16 with
  | some n => some (if bit v.toNat 63 then s.setRing d n { s.ring d n with err := (s.ring d n).err &&& ~~~(1#64 <<< 63) } else s)
  | none =>
  match regIdx off 0x5000 8 128 with
  | some t => put { x with
      tlimMt := tset 1024 x.tlimMt t (min (bits v.toNat 32 11) 1024)
      tlimSk := tset 16384 x.tlimSk t (bits v.toNat 0 15) }
  | none =>
  match regIdx off 0x6000 8 512 with
  | some k =>
    let old := tget 0 x.tkey (k / 4)
    put { x with tkey := tset 0 x.tkey (k / 4) (BitVec.ofNat 256 (putBits old.toNat (64 * (k % 4)) 64 v.toNat)) }
  | none => none

/-- A write to a register of die 0's host edge (R366); HDMOPEN takes writes in Running only. -/
def writeEdgeReg (s : State) (off : Nat) (v : Word) : Option State :=
  if off = 0x0108 then
    some { s with boot := { s.boot with hdmDrop := s.boot.hdmDrop &&& ~~~(BitVec.ofNat 16 (bits v.toNat 48 16)) } }
  else
    match regIdx off 0x0200 8 18 with
    | some n =>
      some (if s.boot.state = .running then { s with boot := { s.boot with hdmOpen := tset 0 s.boot.hdmOpen n v } } else s)
    | none => none

/-- A write to a register of cluster c of a die (R224). -/
def writeClusterReg (s : State) (d c r : Nat) (v : Word) : State :=
  let n := d * 16 + c
  let x := s.cluster n
  s.setCluster n (if r = 0 then { x with rtop := BitVec.ofNat 6 (min (bits v.toNat 0 6) 43) }
    else if r = 8 then { x with
      disc := x.disc &&& ~~~(BitVec.ofNat 16 (bits v.toNat 20 16))
      grants := BitVec.ofNat 16 (bits v.toNat 0 16) }
    else { x with early := BitVec.ofNat 16 (bits v.toNat 32 16) })

/-- Offset of the registers of cluster c: behind the registers that the manual places, one cluster after another, with gaps that it
leaves open (log entry 10). -/
def clusterAt (c : Nat) : Nat := 0x7000 + 24 * c + 8 * ((upto (c + 1)).map Config.clusterGap).sum

/-- Offset of the tenants of the jobs of a die, 8 bytes for each, behind the cluster registers (R307; log entry 36). -/
def jobsAt : Nat := clusterAt 15 + 24 + 8 * Config.jobGap

/-- The cluster and register of an offset in the cluster registers (R224). -/
def clusterReg (off : Nat) : Option (Nat × Nat) :=
  (upto 16).findSome? (fun c => [0, 8, 16].findSome? (fun r => if off = clusterAt c + r then some (c, r) else none))

/-- Jobs of a die (R307). -/
def jobCount : Nat := 4096

/-- A write by firmware to its die's control window: reserved and read-only fields are ignored (R14). -/
def writeReg (s : State) (d off : Nat) (v : Word) : State :=
  match writeDieReg s d off v with
  | some t => t
  | none =>
    match writeIdxReg s d off v with
    | some t => t
    | none =>
      match (if d = 0 then writeEdgeReg s off v else none) with
      | some t => t
      | none =>
        match clusterReg off with
        | some (c, r) => writeClusterReg s d c r v
        | none =>
          match regIdx off jobsAt 8 jobCount with
          | some j => s.setJob d j { s.job d j with tenant := v.setWidth 7 }
          | none => s

/-- FW_REGISTER_WRITE (R14). -/
def execFwRegisterWrite (die off : Nat) (val : BitVec 64) (s : State) : Host.Outcome State Fault Refusal :=
  fwEvent s (.ok (writeReg s die off val))

/-! Reads of the control window (R14): firmware's, and the host's where a register is the host's too. -/

/-- A word of fields: each a value, its lowest bit and its width. -/
def fieldWord (fs : List (Nat × Nat × Nat)) : Word := BitVec.ofNat 64 (fs.map (fun f => f.1 % 2 ^ f.2.2 * 2 ^ f.2.1)).sum

/-- A die-wide register of R274, R323, R329, R333, R350, R368; `host` reads the host's copy of the migration registers. -/
def readDieReg (s : State) (d off : Nat) (host : Bool) : Option Word :=
  let x := s.die d
  let m := if host then x.migHost else x.migFw
  if off = 0x1000 then some x.rgnBase
  else if off = 0x1008 then some x.tlbInv
  else if off = 0x1010 then
    some (fieldWord [(b2n (decide (skeinSize ≤ x.skein.length)), 63, 1), (x.skHigh.toNat, 32, 16), (x.skein.length, 0, 15)])
  else if off = 0x1018 then some (fieldWord [(x.skThr.toNat, 0, 15)])
  else if off = 0x2000 then some x.recBase
  else if off = 0x2008 then some x.dmode
  else if off = 0x2410 then some (fieldWord [(x.sampler.length, 32, 14), (x.hits.toNat, 0, 32)])
  else if off = 0x2418 then some (fieldWord [(x.matching.length, 0, 11)])
  else if off = 0x2800 then some (m.va.setWidth 64)
  else if off = 0x2808 then some m.cmd
  else if off = 0x2810 then some m.res
  else if off = 0x3000 then some x.hsqBase
  else if off = 0x4000 then some (fieldWord [(x.module_.toNat, 0, 11)])
  else if off = 0x4008 then some (fieldWord [(x.portUp.toNat, 32, 32), (x.portEn.toNat, 0, 32)])
  else if off = 0x4010 then some (fieldWord [(x.tracks.length, 32, 9), (x.colls.length, 0, 7)])
  else if off = 0x4018 then some (fieldWord [(x.fabCan.toNat, 0, 16)])
  else if off = 0x5800 then
    match x.frz with
    | (c, l) :: _ => some (fieldWord [(1, 63, 1), (l, 8, 8), (c, 0, 7)])
    | [] => some 0
  else none

/-- An indexed register of R252, R323, R326, R333, R368. -/
def readIdxReg (s : State) (d off : Nat) : Option Word :=
  let x := s.die d
  let raf := regIdx off 0x1100 8 128
  let hraf := if d = 0 then regIdx off 0x1500 8 128 else none
  let quota := regIdx off 0x2010 8 128
  let ctl := regIdx off 0x3100 8 16
  let hkick := regIdx off 0x3200 8 16
  let err := regIdx off 0x3300 8 16
  let tlim := regIdx off 0x5000 8 128
  (((((((raf.map (tget 0 x.raf)).or (hraf.map (tget 0 x.hostRaf))).or
    (quota.map (fun t => fieldWord [(tget 0 x.squota t, 0, 14)]))).or
    (ctl.map (fun n => fieldWord [(b2n (s.ring d n).en, 63, 1), ((s.ring d n).tenant.toNat, 32, 7), ((s.ring d n).next.toNat, 0, 32)]))).or
    (hkick.map (fun n => fieldWord [((s.ring d n).kick.toNat, 0, 32)]))).or
    (err.map (fun n => (s.ring d n).err))).or
    (tlim.map (fun t => fieldWord [(tlimMt x t, 32, 11), (tlimSk x t, 0, 15)])))

/-- STATE of BOOTST (R363). -/
def BootState.code : BootState → Nat
  | .dark => 0
  | .receiving => 1
  | .verifying => 2
  | .running => 3
  | .rejected => 4

/-- BOOTST (R366). -/
def bootst (b : Boot) : Word :=
  BitVec.ofNat 64 (b.rej.toNat * 2 ^ 40 + b.svn.toNat % 256 * 2 ^ 32 + b.err.toNat * 2 ^ 8 + b.state.code)

/-- A register of die 0's host edge (R366). -/
def readEdgeReg (s : State) (off : Nat) : Option Word :=
  if off = 0x0100 then some (bootst s.boot)
  else if off = 0x0108 then some (fieldWord [(s.boot.hdmDrop.toNat, 48, 16)])
  else if off = 0x0110 then some (fieldWord [(s.boot.svn.toNat, 0, 32)])
  else (regIdx off 0x0200 8 18).map (tget 0 s.boot.hdmOpen)

/-- A register of cluster c of a die (R224): CVPART, CLEASE, CSTAGE. -/
def readClusterReg (s : State) (d c r : Nat) : Word :=
  let x := s.cluster (d * 16 + c)
  if r = 0 then fieldWord [(x.rtop.toNat, 0, 6)]
  else if r = 8 then
    let own := match x.lease with
      | some l =>
        let (byCycles, left) := leaseLeft s l
        [(1, 63, 1), (l.core, 60, 3), (corePrio s l.core, 54, 6), (b2n byCycles, 53, 1), (left, 36, 17)]
      | none => []
    fieldWord (own ++ [(x.disc.toNat, 20, 16), (x.grants.toNat, 0, 16)])
  else fieldWord [(x.early.toNat, 32, 16), (x.staging.length, 0, 17)]

/-- Whether a host read over CXL.io is answered: over a trained link, and before Running, or on a link below 64 GT/s, of the registers of
die 0's host edge alone, which bring-up needs (R8, R361, R366; log entry 40). -/
def hostReads (s : State) (d off : Nat) : Bool :=
  s.boot.linkWidth != 0 && ((d == 0 && (readEdgeReg s off).isSome) || (s.boot.state == .running && memOpen s))

/-- A read of a die's control window, by firmware or by the host: reserved fields, and offsets that hold no register, read 0 (R14), and so
does what a host read is not answered. -/
def readReg (s : State) (d off : Nat) (host : Bool) : Word :=
  if host && !hostReads s d off then 0
  else if (regIdx off 0x6000 8 512).isSome then 0 -- the tenant keys are write-only (R382)
  else
    (((((readDieReg s d off host).or (readIdxReg s d off)).or (if d = 0 then readEdgeReg s off else none)).or
      ((clusterReg off).map (fun e => readClusterReg s d e.1 e.2))).or
      ((regIdx off jobsAt 8 jobCount).map (fun j => (s.job d j).tenant.setWidth 64))).getD 0

/-- POWER_THROTTLE (R371): idle issue cycles change timing only. -/
def execPowerThrottle (die : Nat) (s : State) : Host.Outcome State Fault Refusal :=
  event (.ok (s.setDie die { s.die die with throttled := true }))

/-- DIE_POWER_WITHIN_CAP (R371). -/
def execDiePowerWithinCap (die : Nat) (s : State) : Host.Outcome State Fault Refusal :=
  event (.ok (s.setDie die { s.die die with throttled := false }))

end Sys2Proof.Machine
end

