-- ==== Sys2Proof/Machine/Boot.lean ====
section
/-! DEFINITION. The host edge, bring-up and attestation (R361-R366, R369, R371, R372), and parcels that are no
instruction (R57, R70, R73). -/

namespace Sys2Proof.Machine
open Sys2Proof

/-- The trap of a rejected parcel sequence (R70, R73). -/
def rejectTrap : Reject → TrapInfo
  | .ill v => { cause := cILL, tval := v }
  | .orphan _ v => { cause := cORPHAN, tval := v }
  | .pfxkind v => { cause := cPFXKIND, tval := v }

/-- The parcel of the unit that TPC names, counted from its first: ORPHAN names a prefix (R70). -/
def rejectAt : Reject → Nat
  | .orphan k _ => k
  | _ => 0

/-- ILLEGAL_ENCODING (R57, R70, R73): a rejected parcel sequence raises its trap, whatever the guard (R67). -/
def execIllegalEncoding (r : Reject) (s : State) : Host.Outcome State Fault Refusal :=
  let s' := s.setMe { s.me with pc := s.me.pc + BitVec.ofNat 64 (4 * rejectAt r) }
  settle (.illegalEncoding r) s (.error (.trap s' (rejectTrap r)))

/-- Whether granule g of the HDM range is open (R366). -/
def granuleOpen (s : State) (g : Nat) : Bool := (tget 0 s.boot.hdmOpen (g / 64)).getLsbD (g % 64)

/-- The place of a byte of the HDM range (R361). -/
def hdmKey (a : Nat) : Nat := hbmKey (a / hbmSize) (a % hbmSize)

/-- HOST_HDM_READ (R362): a closed granule answers poisoned data. -/
def execHostHdmRead (addr len : Nat) (s : State) : Host.Outcome State Fault Refusal :=
  let as := (List.range len).map (addr + ·)
  hostEvent s (.ok (if as.any (fun a => !granuleOpen s (a / 2 ^ 30)) then
      { s with boot := { s.boot with hostRead := [], hostReadPoison := true } }
    else { s with boot := { s.boot with
      hostRead := as.map (fun a => s.byte (hdmKey a))
      hostReadPoison := as.any (fun a => s.blockPoison (hdmKey a)) } }))

/-- HOST_HDM_WRITE (R362): a write that meets a closed granule is dropped and counted. -/
def execHostHdmWrite (addr : Nat) (data : List Byte) (s : State) : Host.Outcome State Fault Refusal :=
  let as := data.zipIdx.map (fun e => (addr + e.2, e.1))
  hostEvent s (.ok (if as.any (fun a => !granuleOpen s (a.1 / 2 ^ 30)) then
      { s with boot := { s.boot with
        hdmDrop := if s.boot.hdmDrop = BitVec.allOnes 16 then s.boot.hdmDrop else s.boot.hdmDrop + 1 } }
    else storeCells s (as.map (fun a => (hdmKey a.1, a.2, Part.full))) []))

/-- The module after a reset (R363 state Dark): host memory is not the module's. The model's own agenda and counter of
free values stay (log entries 3, 4). -/
def resetState (s : State) : State :=
  { State.reset with
    mem := s.mem.filter (fun c => decide (hostKey 0 ≤ c.1))
    poison := s.poison.filter (fun c => decide (hostKey 0 / 256 ≤ c.1))
    agenda := s.agenda
    freeCtr := s.freeCtr }

/-- POWER_ON_RESET (R363). -/
def execPowerOnReset (s : State) : Host.Outcome State Fault Refusal := event (.ok (resetState s))

/-- THERMAL_RESET (R371): hardware resets every die. -/
def execThermalReset (_die : Nat) (s : State) : Host.Outcome State Fault Refusal := event (.ok (resetState s))

/-- LINK_TRAIN (R361): x16, x8 or x4; below 64 GT/s the condition is reported in BOOTST.ERR. -/
def execLinkTrain (rate width : Nat) (s : State) : Host.Outcome State Fault Refusal :=
  event (.ok (if width = 16 ∨ width = 8 ∨ width = 4 then
      { s with boot := { s.boot with
        linkRate := min rate 64, linkWidth := width
        err := if rate < 64 then 5 else if s.boot.err = 5 then 0 else s.boot.err } }
    else s))

/-- Complete a mailbox command. -/
def mail (s : State) (c : MailCode) : State := { s with boot := { s.boot with mailboxCode := c } }

/-- Whether the host reaches the mailbox. -/
def mailOpen (s : State) : Bool := s.boot.linkWidth != 0

/-- TRANSFER_PART (R363). -/
def execTransferPart (data : List Byte) (s : State) : Host.Outcome State Fault Refusal :=
  event (.ok (if !mailOpen s then s
    else match s.boot.state with
      | .receiving => mail { s with boot := { s.boot with image := s.boot.image ++ data } } .success
      | .verifying => mail s .busy
      | .running => mail s .unsupported
      | _ => mail { s with boot := { s.boot with
          state := .receiving, image := data, reports := [], rej := 0
          err := if s.boot.linkRate < 64 then 5 else 0 } } .success))

/-- TRANSFER_END (R363). -/
def execTransferEnd (s : State) : Host.Outcome State Fault Refusal :=
  event (.ok (if !mailOpen s then s
    else match s.boot.state with
      | .receiving => mail { s with boot := { s.boot with state := .verifying, reports := [], sentAt := s.cycle } } .success
      | .verifying => mail s .busy
      | _ => s))

/-- TRANSFER_ABORT (R363). -/
def execTransferAbort (s : State) : Host.Outcome State Fault Refusal :=
  event (.ok (if !mailOpen s then s
    else match s.boot.state with
      | .receiving => mail { s with boot := { s.boot with state := .dark, image := [] } } .success
      | .verifying => mail s .busy
      | _ => s))

/-- The sensors of R372. -/
inductive Sensor where
  | diePower | junction | hbm | ecc | coolantIn | coolantOut
  deriving DecidableEq, Repr

/-- Its number. -/
def Sensor.number : Sensor → Nat
  | .diePower => 0
  | .junction => 1
  | .hbm => 2
  | .ecc => 3
  | .coolantIn => 4
  | .coolantOut => 5

/-- The telemetry of R372: power, junction temperature, HBM temperature and ECC correction count of each die, then the coolant's
inlet and outlet temperatures. The manual gives no values (log entry 10). -/
def telemetry (s : State) : List Byte :=
  let reading (d : Nat) (q : Sensor) : List Byte := bytesOf 4 (Config.sensor q.number d s.freeCtr).toNat
  (upto 24).flatMap (fun d => [.diePower, .junction, .hbm, .ecc].flatMap (reading d)) ++ [.coolantIn, .coolantOut].flatMap (reading 0)

/-- The module's feature words that are not 0 (R374, R376). -/
def featureReport : List Byte := (upto 6).flatMap (fun (n : Nat) => bytesOf 8 (featureWord n).toNat)

/-- What a read over MCTP answers, out of band and in every state: BOOTST and the telemetry (R372; log entry 55). -/
def mctpRead (s : State) : List Byte := bytesOf 8 (bootst s.boot).toNat ++ telemetry s

/-- STATUS_READ (R363, R372, R376): BOOTST, and in Running the telemetry and the feature words. -/
def execStatusRead (s : State) : Host.Outcome State Fault Refusal :=
  event (.ok (if !mailOpen s then s
    else
      let t : List Byte := if s.boot.state = .running then telemetry s ++ featureReport else []
      mail { s.free with boot := { s.boot with mailbox := bytesOf 8 (bootst s.boot).toNat ++ t } } .success))

/-- Bytes [lo, lo + n) of an image. -/
def imagePart (b : List Byte) (lo n : Nat) : List Byte := (b.drop lo).take n

/-- R365: the ERR of the first check that an image fails at a die; 0 when it is accepted. -/
def imageErr (b : List Byte) (d : Nat) : BitVec 8 :=
  let len := natOfBytes (imagePart b 8 8)
  let key := imagePart b 0x40 97
  if natOfBytes (imagePart b 0 4) ≠ 0x4B534657 ∨ natOfBytes (imagePart b 4 1) ≠ 1 ∨ len % 4096 ≠ 0 ∨ 64 * 2 ^ 20 < len ∨
      b.length ≠ len then 1
  else if sha384 key ≠ Config.fusedKeyDigest d then 2
  else if natOfBytes (imagePart b 0x10 4) < (Config.fusedSvn d).toNat then 3
  else if !ecdsaVerify key (imagePart b 0x100 96) (sha384 (b.take 0x100 ++ b.drop 0x200)) then 4
  else 0

/-- The image as a die has it: die 0 took the transfer, the others what it forwarded (R363, R366; log entry 53). -/
def imageAt (b : Boot) (d : Nat) : List Byte := if d = 0 then b.image else Config.forwarded d b.sentAt b.image

/-- R363: the ROM of a die puts the payload of its image into its HBM, with what firmware needs to be fetched (log entry 8). -/
def loadFirmware (s : State) (d : Nat) (img : List Byte) : State :=
  let s := s.setBytes (hbmKey d (Config.firmwareFrame d)) (img.drop 0x200)
  let s := (Config.firmwareTable d).foldl (fun (s : State) (e : Nat × Byte) => s.setByte (hbmKey d e.1) e.2) s
  let x := s.die d
  s.setDie d { x with raf := (Config.firmwareRaf d).foldl (fun t (e : Nat × Word) => tset 0 t (e.1 % 128) (rafBits e.2)) x.raf }

/-- The module's private identity key (R369). -/
def identityKey : Nat := scalarOf (Config.identityNumber Config.fusedSecret)

/-- Its public identity key, as bytes. -/
def identityPublic : List Byte := pointBytes (curveMul 384 identityKey curveG)

/-- The steward strand of a die as firmware starts (R57, R101, R363, R367; log entries 8, 45). -/
def stewardStrand (s : State) (d : Nat) : Strand :=
  let (base, len) := Config.firmwareCode d
  { phase := .running, sect := true, mode := true, pc := alignPc ((Config.firmwareEntry d).setWidth 64)
    codeBase := base.setWidth 64, codeLen := len, stcyc := s.cycle }

/-- Each die's payload is loaded and its steward core starts firmware. -/
def startStewards (s : State) (b : Boot) : State :=
  (upto 24).foldl (fun (s : State) d =>
    let c := stewardOf d
    let s := loadFirmware s d (imageAt b d)
    let s := s.setCore c { s.core c with part := 0x000080, portmap := 0 }
    s.setStrand (3 * c) (stewardStrand s d)) s

/-- Dies of the module. -/
def dieCount : Nat := 24

/-- The reports are complete: Running when every die accepts, with the identity key of this bring-up (R369), else Rejected with the
lowest ERR and a bit for each rejecting die (R363, R365). -/
def verdict (s : State) : State :=
  let b := s.boot
  let bad := b.reports.filter (fun e => e.2 != 0)
  if b.reports.length < dieCount then s
  else if bad = [] then
    let s := { s with boot := { b with
      state := .running, svn := BitVec.ofNat 32 (natOfBytes (imagePart b.image 0x10 4))
      imageDigest := sha384 b.image, image := [], identity := identityPublic } }
    startStewards s b
  else
    let low := bad.foldl (fun (m : Nat) e => min m e.2.toNat) 255
    { s with boot := { b with
      state := .rejected, err := BitVec.ofNat 8 low, image := []
      rej := BitVec.ofNat 24 ((bad.map (fun e => 2 ^ e.1)).sum) } }

/-- IMAGE_VERIFY (R365): a die reports once. -/
def execImageVerify (die : Nat) (s : State) : Host.Outcome State Fault Refusal :=
  let b := s.boot
  event (.ok (if b.state ≠ .verifying ∨ dieCount ≤ die ∨ b.reports.any (fun e => e.1 == die) then s
    else verdict { s with boot := { b with reports := b.reports ++ [(die, imageErr (imageAt b die) die)] } }))

/-- What an attestation signs (R369). -/
def attestMessage (s : State) (nonce : BitVec 256) : List Byte :=
  bytesOf 32 nonce.toNat ++ beBytes 48 s.boot.imageDigest.toNat ++ bytesOf 4 s.boot.svn.toNat
    ++ beBytes 48 (Config.fusedKeyDigest 0).toNat ++ bytesOf 4 (Config.fusedSvn 0).toNat
    ++ bytesOf 8 (s.die 0).module_.toNat
    ++ (upto 24).flatMap (fun d => (upto 128).flatMap (fun t =>
      bytesOf 8 (tlimMt (s.die d) t * 2 ^ 32 + tlimSk (s.die d) t)))

/-- What an attestation answers (R369): what it signs, the signature, the public identity key and the certificate. -/
def attestation (s : State) (nonce : BitVec 256) : List Byte :=
  let m := attestMessage s nonce
  m ++ ecdsaSign identityKey (scalarOf (Config.signNumber m)) (sha384 m) ++ s.boot.identity ++ Config.certificate s.boot.identity

/-- GET_ATTESTATION (R369). -/
def execGetAttestation (nonce : BitVec 256) (s : State) : Host.Outcome State Fault Refusal :=
  event (.ok (if !mailOpen s then s
    else match s.boot.state with
      | .running => mail { s with boot := { s.boot with mailbox := attestation s nonce } } .success
      | .verifying => mail s .busy
      | _ => mail s .unsupported))

end Sys2Proof.Machine
end

