-- ==== Sys2Proof/Machine/Dispatch.lean ====
section
/-! DEFINITION. Dispatch: one arm for each constructor of `Instr`, each one direct call of its meaning. -/

namespace Sys2Proof.Machine
open Sys2Proof

/-- The meaning of an instruction or event. -/
def exec (i : Instr) (s : State) : Host.Outcome State Fault Refusal :=
  match i with
  | .nop u => Sys2Proof.Machine.execNop u s
  | .addSr u d a b => Sys2Proof.Machine.execAddSr u d a b s
  | .subSr u d a b => Sys2Proof.Machine.execSubSr u d a b s
  | .mulSr u d a b => Sys2Proof.Machine.execMulSr u d a b s
  | .mulhSr u d a b => Sys2Proof.Machine.execMulhSr u d a b s
  | .mulhuSr u d a b => Sys2Proof.Machine.execMulhuSr u d a b s
  | .divSr u d a b => Sys2Proof.Machine.execDivSr u d a b s
  | .divuSr u d a b => Sys2Proof.Machine.execDivuSr u d a b s
  | .remSr u d a b => Sys2Proof.Machine.execRemSr u d a b s
  | .remuSr u d a b => Sys2Proof.Machine.execRemuSr u d a b s
  | .andSr u d a b => Sys2Proof.Machine.execAndSr u d a b s
  | .orSr u d a b => Sys2Proof.Machine.execOrSr u d a b s
  | .xorSr u d a b => Sys2Proof.Machine.execXorSr u d a b s
  | .shlSr u d a b => Sys2Proof.Machine.execShlSr u d a b s
  | .shrSr u d a b => Sys2Proof.Machine.execShrSr u d a b s
  | .sarSr u d a b => Sys2Proof.Machine.execSarSr u d a b s
  | .minSr u d a b => Sys2Proof.Machine.execMinSr u d a b s
  | .maxSr u d a b => Sys2Proof.Machine.execMaxSr u d a b s
  | .minuSr u d a b => Sys2Proof.Machine.execMinuSr u d a b s
  | .maxuSr u d a b => Sys2Proof.Machine.execMaxuSr u d a b s
  | .addSi u d a imm => Sys2Proof.Machine.execAddSi u d a imm s
  | .subSi u d a imm => Sys2Proof.Machine.execSubSi u d a imm s
  | .andSi u d a imm => Sys2Proof.Machine.execAndSi u d a imm s
  | .orSi u d a imm => Sys2Proof.Machine.execOrSi u d a imm s
  | .xorSi u d a imm => Sys2Proof.Machine.execXorSi u d a imm s
  | .shlSi u d a n => Sys2Proof.Machine.execShlSi u d a n s
  | .shrSi u d a n => Sys2Proof.Machine.execShrSi u d a n s
  | .sarSi u d a n => Sys2Proof.Machine.execSarSi u d a n s
  | .moviSi u d imm => Sys2Proof.Machine.execMoviSi u d imm s
  | .brSj u disp => Sys2Proof.Machine.execBrSj u disp s
  | .brLb u disp => Sys2Proof.Machine.execBrLb u disp s
  | .loop u a disp => Sys2Proof.Machine.execLoop u a disp s
  | .call u disp frm => Sys2Proof.Machine.execCall u disp frm s
  | .callr u a frm => Sys2Proof.Machine.execCallr u a frm s
  | .jr u a => Sys2Proof.Machine.execJr u a s
  | .ret u => Sys2Proof.Machine.execRet u s
  | .trap u code => Sys2Proof.Machine.execTrap u code s
  | .eret u => Sys2Proof.Machine.execEret u s
  | .addLs u d a b => Sys2Proof.Machine.execAddLs u d a b s
  | .subLs u d a b => Sys2Proof.Machine.execSubLs u d a b s
  | .mulLs u d a b => Sys2Proof.Machine.execMulLs u d a b s
  | .mulhLs u d a b => Sys2Proof.Machine.execMulhLs u d a b s
  | .mulhuLs u d a b => Sys2Proof.Machine.execMulhuLs u d a b s
  | .divLs u d a b => Sys2Proof.Machine.execDivLs u d a b s
  | .divuLs u d a b => Sys2Proof.Machine.execDivuLs u d a b s
  | .remLs u d a b => Sys2Proof.Machine.execRemLs u d a b s
  | .remuLs u d a b => Sys2Proof.Machine.execRemuLs u d a b s
  | .andLs u d a b => Sys2Proof.Machine.execAndLs u d a b s
  | .orLs u d a b => Sys2Proof.Machine.execOrLs u d a b s
  | .xorLs u d a b => Sys2Proof.Machine.execXorLs u d a b s
  | .shlLs u d a b => Sys2Proof.Machine.execShlLs u d a b s
  | .shrLs u d a b => Sys2Proof.Machine.execShrLs u d a b s
  | .sarLs u d a b => Sys2Proof.Machine.execSarLs u d a b s
  | .minLs u d a b => Sys2Proof.Machine.execMinLs u d a b s
  | .maxLs u d a b => Sys2Proof.Machine.execMaxLs u d a b s
  | .minuLs u d a b => Sys2Proof.Machine.execMinuLs u d a b s
  | .maxuLs u d a b => Sys2Proof.Machine.execMaxuLs u d a b s
  | .addLi u d a imm => Sys2Proof.Machine.execAddLi u d a imm s
  | .subLi u d a imm => Sys2Proof.Machine.execSubLi u d a imm s
  | .mulLi u d a imm => Sys2Proof.Machine.execMulLi u d a imm s
  | .andLi u d a imm => Sys2Proof.Machine.execAndLi u d a imm s
  | .orLi u d a imm => Sys2Proof.Machine.execOrLi u d a imm s
  | .xorLi u d a imm => Sys2Proof.Machine.execXorLi u d a imm s
  | .shlLi u d a n => Sys2Proof.Machine.execShlLi u d a n s
  | .shrLi u d a n => Sys2Proof.Machine.execShrLi u d a n s
  | .sarLi u d a n => Sys2Proof.Machine.execSarLi u d a n s
  | .minLi u d a imm => Sys2Proof.Machine.execMinLi u d a imm s
  | .maxLi u d a imm => Sys2Proof.Machine.execMaxLi u d a imm s
  | .minuLi u d a imm => Sys2Proof.Machine.execMinuLi u d a imm s
  | .maxuLi u d a imm => Sys2Proof.Machine.execMaxuLi u d a imm s
  | .moviLi u d imm => Sys2Proof.Machine.execMoviLi u d imm s
  | .cmp u form cond pe pd a b => Sys2Proof.Machine.execCmp u form cond pe pd a b s
  | .cmpu u form cond pe pd a b => Sys2Proof.Machine.execCmpu u form cond pe pd a b s
  | .cmpi u form cond pe pd a imm => Sys2Proof.Machine.execCmpi u form cond pe pd a imm s
  | .cmpui u form cond pe pd a imm => Sys2Proof.Machine.execCmpui u form cond pe pd a imm s
  | .fcmp u form cond pe pd a b => Sys2Proof.Machine.execFcmp u form cond pe pd a b s
  | .fadd u d a b => Sys2Proof.Machine.execFadd u d a b s
  | .fsub u d a b => Sys2Proof.Machine.execFsub u d a b s
  | .fmul u d a b => Sys2Proof.Machine.execFmul u d a b s
  | .fdiv u d a b => Sys2Proof.Machine.execFdiv u d a b s
  | .fsqrt u d a => Sys2Proof.Machine.execFsqrt u d a s
  | .ffma u d a b c => Sys2Proof.Machine.execFfma u d a b c s
  | .fmin u d a b => Sys2Proof.Machine.execFmin u d a b s
  | .fmax u d a b => Sys2Proof.Machine.execFmax u d a b s
  | .fabs u d a => Sys2Proof.Machine.execFabs u d a s
  | .fneg u d a => Sys2Proof.Machine.execFneg u d a s
  | .fcvti u d a => Sys2Proof.Machine.execFcvti u d a s
  | .fcvtf u d a => Sys2Proof.Machine.execFcvtf u d a s
  | .pcomb u d a b c tt => Sys2Proof.Machine.execPcomb u d a b c tt s
  | .pcount u d a => Sys2Proof.Machine.execPcount u d a s
  | .pfirst u d a => Sys2Proof.Machine.execPfirst u d a s
  | .pget u d a => Sys2Proof.Machine.execPget u d a s
  | .pset u d a => Sys2Proof.Machine.execPset u d a s
  | .plive u mask => Sys2Proof.Machine.execPlive u mask s
  | .feat u d imm => Sys2Proof.Machine.execFeat u d imm s
  | .sysr u d r => Sys2Proof.Machine.execSysr u d r s
  | .sysw u r a => Sys2Proof.Machine.execSysw u r a s
  | .ctxsave u a => Sys2Proof.Machine.execCtxsave u a s
  | .ctxrestore u a => Sys2Proof.Machine.execCtxrestore u a s
  | .vadd u ty g d a b => Sys2Proof.Machine.execVadd u ty g d a b s
  | .vsub u ty g d a b => Sys2Proof.Machine.execVsub u ty g d a b s
  | .vmul u ty g d a b => Sys2Proof.Machine.execVmul u ty g d a b s
  | .vmulh u ty g d a b => Sys2Proof.Machine.execVmulh u ty g d a b s
  | .vmin u ty g d a b => Sys2Proof.Machine.execVmin u ty g d a b s
  | .vmax u ty g d a b => Sys2Proof.Machine.execVmax u ty g d a b s
  | .vabs u ty g d a => Sys2Proof.Machine.execVabs u ty g d a s
  | .vneg u ty g d a => Sys2Proof.Machine.execVneg u ty g d a s
  | .vfma u ty g d a b => Sys2Proof.Machine.execVfma u ty g d a b s
  | .vdiv u ty g d a b => Sys2Proof.Machine.execVdiv u ty g d a b s
  | .vrcp u g d a => Sys2Proof.Machine.execVrcp u g d a s
  | .vrsqrt u g d a => Sys2Proof.Machine.execVrsqrt u g d a s
  | .vsqrt u g d a => Sys2Proof.Machine.execVsqrt u g d a s
  | .vexp2 u g d a => Sys2Proof.Machine.execVexp2 u g d a s
  | .vlog2 u g d a => Sys2Proof.Machine.execVlog2 u g d a s
  | .vshl u ty g d a b => Sys2Proof.Machine.execVshl u ty g d a b s
  | .vshr u ty g d a b => Sys2Proof.Machine.execVshr u ty g d a b s
  | .vsar u ty g d a b => Sys2Proof.Machine.execVsar u ty g d a b s
  | .vand u g d a b => Sys2Proof.Machine.execVand u g d a b s
  | .vor u g d a b => Sys2Proof.Machine.execVor u g d a b s
  | .vxor u g d a b => Sys2Proof.Machine.execVxor u g d a b s
  | .vnot u g d a => Sys2Proof.Machine.execVnot u g d a s
  | .vmov u g d a => Sys2Proof.Machine.execVmov u g d a s
  | .vcmp u form ty cond pe pd a b => Sys2Proof.Machine.execVcmp u form ty cond pe pd a b s
  | .vcvt u dst src d a => Sys2Proof.Machine.execVcvt u dst src d a s
  | .vquant u f blk d a vs => Sys2Proof.Machine.execVquant u f blk d a vs s
  | .vdequant u f blk d a vs => Sys2Proof.Machine.execVdequant u f blk d a vs s
  | .vdot4 u f d a b => Sys2Proof.Machine.execVdot4 u f d a b s
  | .vperm u d a b => Sys2Proof.Machine.execVperm u d a b s
  | .vbcast u d a b => Sys2Proof.Machine.execVbcast u d a b s
  | .vrot u d a b => Sys2Proof.Machine.execVrot u d a b s
  | .vredsum u ty d a => Sys2Proof.Machine.execVredsum u ty d a s
  | .vredmin u ty d a => Sys2Proof.Machine.execVredmin u ty d a s
  | .vredmax u ty d a => Sys2Proof.Machine.execVredmax u ty d a s
  | .vscan u ty d a => Sys2Proof.Machine.execVscan u ty d a s
  | .vcompress u d a => Sys2Proof.Machine.execVcompress u d a s
  | .vexpand u d a => Sys2Proof.Machine.execVexpand u d a s
  | .vget u d a => Sys2Proof.Machine.execVget u d a s
  | .vput u src a => Sys2Proof.Machine.execVput u src a s
  | .pairSNop u v => Sys2Proof.Machine.execPairSNop u v s
  | .pairSAdd u d a b => Sys2Proof.Machine.execPairSAdd u d a b s
  | .pairSSub u d a b => Sys2Proof.Machine.execPairSSub u d a b s
  | .pairSAnd u d a b => Sys2Proof.Machine.execPairSAnd u d a b s
  | .pairSOr u d a b => Sys2Proof.Machine.execPairSOr u d a b s
  | .pairSXor u d a b => Sys2Proof.Machine.execPairSXor u d a b s
  | .pairSMin u d a b => Sys2Proof.Machine.execPairSMin u d a b s
  | .pairSMax u d a b => Sys2Proof.Machine.execPairSMax u d a b s
  | .pairSAddi u d a imm => Sys2Proof.Machine.execPairSAddi u d a imm s
  | .pairSShl u d a n => Sys2Proof.Machine.execPairSShl u d a n s
  | .pairSShr u d a n => Sys2Proof.Machine.execPairSShr u d a n s
  | .pairSSar u d a n => Sys2Proof.Machine.execPairSSar u d a n s
  | .pairSMov u d a => Sys2Proof.Machine.execPairSMov u d a s
  | .pairSMovi u d imm => Sys2Proof.Machine.execPairSMovi u d imm s
  | .pairVNop u => Sys2Proof.Machine.execPairVNop u s
  | .pairVVaddI32 u sh d a b => Sys2Proof.Machine.execPairVVaddI32 u sh d a b s
  | .pairVVsubI32 u sh d a b => Sys2Proof.Machine.execPairVVsubI32 u sh d a b s
  | .pairVVmulI32 u sh d a b => Sys2Proof.Machine.execPairVVmulI32 u sh d a b s
  | .pairVVminI32 u sh d a b => Sys2Proof.Machine.execPairVVminI32 u sh d a b s
  | .pairVVmaxI32 u sh d a b => Sys2Proof.Machine.execPairVVmaxI32 u sh d a b s
  | .pairVVand u sh d a b => Sys2Proof.Machine.execPairVVand u sh d a b s
  | .pairVVor u sh d a b => Sys2Proof.Machine.execPairVVor u sh d a b s
  | .pairVVxor u sh d a b => Sys2Proof.Machine.execPairVVxor u sh d a b s
  | .pairVVmov u sh d a => Sys2Proof.Machine.execPairVVmov u sh d a s
  | .pairVVaddF32 u sh d a b => Sys2Proof.Machine.execPairVVaddF32 u sh d a b s
  | .pairVVsubF32 u sh d a b => Sys2Proof.Machine.execPairVVsubF32 u sh d a b s
  | .pairVVmulF32 u sh d a b => Sys2Proof.Machine.execPairVVmulF32 u sh d a b s
  | .pairVVfmaF32 u sh d a b => Sys2Proof.Machine.execPairVVfmaF32 u sh d a b s
  | .pairVVminF32 u sh d a b => Sys2Proof.Machine.execPairVVminF32 u sh d a b s
  | .pairVVmaxF32 u sh d a b => Sys2Proof.Machine.execPairVVmaxF32 u sh d a b s
  | .ldf u ew hre d h a => Sys2Proof.Machine.execLdf u ew hre d h a s
  | .ldfg u ew hre d h idx => Sys2Proof.Machine.execLdfg u ew hre d h idx s
  | .ldl u ew hre d h a => Sys2Proof.Machine.execLdl u ew hre d h a s
  | .ldlg u ew hre d h idx => Sys2Proof.Machine.execLdlg u ew hre d h idx s
  | .stl u ew hre src h a => Sys2Proof.Machine.execStl u ew hre src h a s
  | .stls u ew hre src h idx => Sys2Proof.Machine.execStls u ew hre src h idx s
  | .lds u pd d h lim => Sys2Proof.Machine.execLds u pd d h lim s
  | .sts u src h lim => Sys2Proof.Machine.execSts u src h lim s
  | .stsEos u h lim => Sys2Proof.Machine.execStsEos u h lim s
  | .sptrW u d h => Sys2Proof.Machine.execSptrW u d h s
  | .sptrR u d h => Sys2Proof.Machine.execSptrR u d h s
  | .sptrC u d h => Sys2Proof.Machine.execSptrC u d h s
  | .accAddI32 u src h a => Sys2Proof.Machine.execAccAddI32 u src h a s
  | .accAddI64 u src h a => Sys2Proof.Machine.execAccAddI64 u src h a s
  | .accAddAf u x src h a => Sys2Proof.Machine.execAccAddAf u x src h a s
  | .accMinI32 u src h a => Sys2Proof.Machine.execAccMinI32 u src h a s
  | .accMaxI32 u src h a => Sys2Proof.Machine.execAccMaxI32 u src h a s
  | .accAnd u src h a => Sys2Proof.Machine.execAccAnd u src h a s
  | .accOr u src h a => Sys2Proof.Machine.execAccOr u src h a s
  | .accXor u src h a => Sys2Proof.Machine.execAccXor u src h a s
  | .amoSwap u f d h a => Sys2Proof.Machine.execAmoSwap u f d h a s
  | .amoCas u f d h a => Sys2Proof.Machine.execAmoCas u f d h a s
  | .amoAdd u f d h a => Sys2Proof.Machine.execAmoAdd u f d h a s
  | .amoMin u f d h a => Sys2Proof.Machine.execAmoMin u f d h a s
  | .amoMax u f d h a => Sys2Proof.Machine.execAmoMax u f d h a s
  | .amoAnd u f d h a => Sys2Proof.Machine.execAmoAnd u f d h a s
  | .amoOr u f d h a => Sys2Proof.Machine.execAmoOr u f d h a s
  | .hbuild u h a => Sys2Proof.Machine.execHbuild u h a s
  | .hview u hd hp a b => Sys2Proof.Machine.execHview u hd hp a b s
  | .hread u d ha q => Sys2Proof.Machine.execHread u d ha q s
  | .fenceFull u sc => Sys2Proof.Machine.execFenceFull u sc s
  | .fenceAcq u sc => Sys2Proof.Machine.execFenceAcq u sc s
  | .fenceRel u sc => Sys2Proof.Machine.execFenceRel u sc s
  | .afence u sc => Sys2Proof.Machine.execAfence u sc s
  | .bfree u b n => Sys2Proof.Machine.execBfree u b n s
  | .bstFull u b disp => Sys2Proof.Machine.execBstFull u b disp s
  | .bstEmpty u b disp => Sys2Proof.Machine.execBstEmpty u b disp s
  | .bstPoison u r disp => Sys2Proof.Machine.execBstPoison u r disp s
  | .tokTake u q n lim => Sys2Proof.Machine.execTokTake u q n lim s
  | .tokGive u q n => Sys2Proof.Machine.execTokGive u q n s
  | .cpin u ch b h a wait post => Sys2Proof.Machine.execCpin u ch b h a wait post s
  | .cpout u ch b h a wait post => Sys2Proof.Machine.execCpout u ch b h a wait post s
  | .cpwait u ch a lim => Sys2Proof.Machine.execCpwait u ch a lim s
  | .rdwptr u d ch => Sys2Proof.Machine.execRdwptr u d ch s
  | .cqpop u d e lim => Sys2Proof.Machine.execCqpop u d e lim s
  | .lease u n => Sys2Proof.Machine.execLease u n s
  | .leaseCyc u n => Sys2Proof.Machine.execLeaseCyc u n s
  | .unlease u => Sys2Proof.Machine.execUnlease u s
  | .mzero u => Sys2Proof.Machine.execMzero u s
  | .mma u x ta tb tc st sp n h a => Sys2Proof.Machine.execMma u x ta tb tc st sp n h a s
  | .mdrain u f res drop wh h b => Sys2Proof.Machine.execMdrain u f res drop wh h b s
  | .msave u h => Sys2Proof.Machine.execMsave u h s
  | .mrestore u h => Sys2Proof.Machine.execMrestore u h s
  | .saccAdd u ty h bi bv a => Sys2Proof.Machine.execSaccAdd u ty h bi bv a s
  | .saccMin u ty h bi bv a => Sys2Proof.Machine.execSaccMin u ty h bi bv a s
  | .saccMax u ty h bi bv a => Sys2Proof.Machine.execSaccMax u ty h bi bv a s
  | .saccAnd u ty h bi bv a => Sys2Proof.Machine.execSaccAnd u ty h bi bv a s
  | .saccOr u ty h bi bv a => Sys2Proof.Machine.execSaccOr u ty h bi bv a s
  | .saccXor u ty h bi bv a => Sys2Proof.Machine.execSaccXor u ty h bi bv a s
  | .cbar u lim => Sys2Proof.Machine.execCbar u lim s
  | .stitchEnd u a => Sys2Proof.Machine.execStitchEnd u a s
  | .rgnParties u h n => Sys2Proof.Machine.execRgnParties u h n s
  | .recastArrive u role dig conv h a c => Sys2Proof.Machine.execRecastArrive u role dig conv h a c s
  | .recastWait u h lim => Sys2Proof.Machine.execRecastWait u h lim s
  | .lrecPatch u a f b => Sys2Proof.Machine.execLrecPatch u a f b s
  | .lrecArm u a => Sys2Proof.Machine.execLrecArm u a s
  | .lrecWait u d a lim => Sys2Proof.Machine.execLrecWait u d a lim s
  | .jobCount u d a => Sys2Proof.Machine.execJobCount u d a s
  | .jobWait u a lim => Sys2Proof.Machine.execJobWait u a lim s
  | .sinval u => Sys2Proof.Machine.execSinval u s
  | .reshard u d h => Sys2Proof.Machine.execReshard u d h s
  | .cwait u d a lim => Sys2Proof.Machine.execCwait u d a lim s
  | .illegalEncoding r => Sys2Proof.Machine.execIllegalEncoding r s
  | .bankReplay core bank => Sys2Proof.Machine.execBankReplay core bank s
  | .bandWaitExpiry strand => Sys2Proof.Machine.execBandWaitExpiry strand s
  | .cmdqWaitExpiry strand => Sys2Proof.Machine.execCmdqWaitExpiry strand s
  | .engineCommandStart core engine chan => Sys2Proof.Machine.execEngineCommandStart core engine chan s
  | .copyRowDelivery core chan => Sys2Proof.Machine.execCopyRowDelivery core chan s
  | .engineCompletion core engine chan => Sys2Proof.Machine.execEngineCompletion core engine chan s
  | .heldEntryEnter core engine => Sys2Proof.Machine.execHeldEntryEnter core engine s
  | .tokTakeExpiry strand => Sys2Proof.Machine.execTokTakeExpiry strand s
  | .cpwaitExpiry strand => Sys2Proof.Machine.execCpwaitExpiry strand s
  | .cqpopExpiry strand => Sys2Proof.Machine.execCqpopExpiry strand s
  | .matrixCommandStart cluster => Sys2Proof.Machine.execMatrixCommandStart cluster s
  | .matrixCommandComplete cluster => Sys2Proof.Machine.execMatrixCommandComplete cluster s
  | .leaseGrant cluster => Sys2Proof.Machine.execLeaseGrant cluster s
  | .leaseCycleExpiry cluster => Sys2Proof.Machine.execLeaseCycleExpiry cluster s
  | .mrestoreWaitExpiry strand => Sys2Proof.Machine.execMrestoreWaitExpiry strand s
  | .accrueEntryPerform die => Sys2Proof.Machine.execAccrueEntryPerform die s
  | .cbarExpiry strand => Sys2Proof.Machine.execCbarExpiry strand s
  | .recordDispatch die => Sys2Proof.Machine.execRecordDispatch die s
  | .stitchStart core => Sys2Proof.Machine.execStitchStart core s
  | .stitchRetire core => Sys2Proof.Machine.execStitchRetire core s
  | .stitchBudgetExpiry core => Sys2Proof.Machine.execStitchBudgetExpiry core s
  | .preemptStitch core discard => Sys2Proof.Machine.execPreemptStitch core discard s
  | .stitchResume core => Sys2Proof.Machine.execStitchResume core s
  | .eprioAging die record => Sys2Proof.Machine.execEprioAging die record s
  | .homeAccess die => Sys2Proof.Machine.execHomeAccess die s
  | .pageMap die sp va leaf => Sys2Proof.Machine.execPageMap die sp va leaf s
  | .skeinReplay die => Sys2Proof.Machine.execSkeinReplay die s
  | .pageUnmappable die sp va => Sys2Proof.Machine.execPageUnmappable die sp va s
  | .coreThaw die fail => Sys2Proof.Machine.execCoreThaw die fail s
  | .lateFreeze core cycles => Sys2Proof.Machine.execLateFreeze core cycles s
  | .lateExpiry core => Sys2Proof.Machine.execLateExpiry core s
  | .recastFlip die region => Sys2Proof.Machine.execRecastFlip die region s
  | .recastWaitExpiry strand => Sys2Proof.Machine.execRecastWaitExpiry strand s
  | .ringWaitExpiry strand => Sys2Proof.Machine.execRingWaitExpiry strand s
  | .lrecWaitExpiry strand => Sys2Proof.Machine.execLrecWaitExpiry strand s
  | .jobWaitExpiry strand => Sys2Proof.Machine.execJobWaitExpiry strand s
  | .cwaitExpiry strand => Sys2Proof.Machine.execCwaitExpiry strand s
  | .reshardWaitExpiry strand => Sys2Proof.Machine.execReshardWaitExpiry strand s
  | .messageDelivery m => Sys2Proof.Machine.execMessageDelivery m s
  | .flitRetry die link => Sys2Proof.Machine.execFlitRetry die link s
  | .tileTransfer die => Sys2Proof.Machine.execTileTransfer die s
  | .collectiveComplete die num => Sys2Proof.Machine.execCollectiveComplete die num s
  | .collectiveCancel die num => Sys2Proof.Machine.execCollectiveCancel die num s
  | .migrationRequest die host va cmd => Sys2Proof.Machine.execMigrationRequest die host va cmd s
  | .migrationFlip die => Sys2Proof.Machine.execMigrationFlip die s
  | .hostKick die ring k => Sys2Proof.Machine.execHostKick die ring k s
  | .seqPoll die ring => Sys2Proof.Machine.execSeqPoll die ring s
  | .stalepktTimeout die ring => Sys2Proof.Machine.execStalepktTimeout die ring s
  | .hsqerrClear die ring => Sys2Proof.Machine.execHsqerrClear die ring s
  | .tlbInvalidateAll die sp => Sys2Proof.Machine.execTlbInvalidateAll die sp s
  | .tlbInvalidatePage die sp va => Sys2Proof.Machine.execTlbInvalidatePage die sp va s
  | .hostHdmRead addr len => Sys2Proof.Machine.execHostHdmRead addr len s
  | .hostHdmWrite addr data => Sys2Proof.Machine.execHostHdmWrite addr data s
  | .powerOnReset => Sys2Proof.Machine.execPowerOnReset s
  | .linkTrain rate width => Sys2Proof.Machine.execLinkTrain rate width s
  | .transferPart data => Sys2Proof.Machine.execTransferPart data s
  | .transferEnd => Sys2Proof.Machine.execTransferEnd s
  | .transferAbort => Sys2Proof.Machine.execTransferAbort s
  | .statusRead => Sys2Proof.Machine.execStatusRead s
  | .imageVerify die => Sys2Proof.Machine.execImageVerify die s
  | .getAttestation nonce => Sys2Proof.Machine.execGetAttestation nonce s
  | .thermalReset die => Sys2Proof.Machine.execThermalReset die s
  | .powerThrottle die => Sys2Proof.Machine.execPowerThrottle die s
  | .fwRegisterWrite die off val => Sys2Proof.Machine.execFwRegisterWrite die off val s
  | .portLinkUpChange die port up => Sys2Proof.Machine.execPortLinkUpChange die port up s
  | .firmwareWritesState die record st => Sys2Proof.Machine.execFirmwareWritesState die record st s
  | .tenantSamplerRemoval tenant => Sys2Proof.Machine.execTenantSamplerRemoval tenant s
  | .diePowerWithinCap die => Sys2Proof.Machine.execDiePowerWithinCap die s

end Sys2Proof.Machine
end

