-- ==== Sys2Proof/Machine/Sched.lean ====
section
/-! DEFINITION. Which agent moves next (log entry 3), and the turn of a strand: its next unit is run. -/

namespace Sys2Proof.Machine
open Sys2Proof

/-- A strand of a stitch that is to stop does so at this unit boundary (R300). -/
def stopStrand (s : State) (n : Nat) : State :=
  let s := abandonUnit (withdrawArrival s n) n
  s.setStrand n { s.strand n with phase := .stopped }

/-- The turn of a strand: fetch, decode, run (R57). A page that is absent holds the strand, a forbidden one raises PERM (log
entry 16). -/
def runStrand (s : State) (n : Nat) : Host.Outcome State Fault Refusal :=
  let s := { s with cur := n }
  if !strandReady s n then .next s.tick
  else if (s.core (coreOf n)).stopReq then .next (stopStrand s n).tick
  else
    match fetchUnit s with
    | (s, .ok ps) => exec (unitOf s.me ps) s
    | (s, .error .absent) => .next (beginWait s .held none).tick
    | (s, .error .held) => .next (beginWait s .held none).tick
    | (s, .error .perm) => .next (deliverTrap s n { cause := cPERM, tval := s.me.pc }).tick
    | (_, .error (.nowhere k)) => .fault (.noStorage k)
    | (s, .error (.ok _)) => .next s.tick

/-- Whether an instruction is an event, which no strand issues. -/
def Instr.isEvent (i : Instr) : Bool :=
  match i with
  | .illegalEncoding _ => false
  | _ => i.hdr.isNone

/-- The turn of an event. -/
def runEvent (s : State) (i : Instr) : Host.Outcome State Fault Refusal :=
  if Instr.isEvent i then exec i s else .next s.tick

/-- Run a turn. -/
def runTurn (s : State) (t : Turn) : Host.Outcome State Fault Refusal :=
  match t with
  | .strand n => runStrand s n
  | .event i => runEvent s i

/-! What can move when nothing is scheduled. -/

/-- What can move of itself: a strand, or an event that hardware raises. -/
inductive Auto where
  | strand (n : Nat)
  | bankReplay (core bank : Nat)
  | bandWaitExpiry (strand : Nat)
  | cmdqWaitExpiry (strand : Nat)
  | tokTakeExpiry (strand : Nat)
  | cpwaitExpiry (strand : Nat)
  | cqpopExpiry (strand : Nat)
  | mrestoreWaitExpiry (strand : Nat)
  | cbarExpiry (strand : Nat)
  | recastWaitExpiry (strand : Nat)
  | ringWaitExpiry (strand : Nat)
  | lrecWaitExpiry (strand : Nat)
  | jobWaitExpiry (strand : Nat)
  | cwaitExpiry (strand : Nat)
  | reshardWaitExpiry (strand : Nat)
  | engineCommandStart (core engine chan : Nat)
  | copyRowDelivery (core chan : Nat)
  | engineCompletion (core engine chan : Nat)
  | heldEntryEnter (core engine : Nat)
  | stitchStart (core : Nat)
  | stitchRetire (core : Nat)
  | stitchBudgetExpiry (core : Nat)
  | preemptStitch (core : Nat) (discard : Bool)
  | stitchResume (core : Nat)
  | lateExpiry (core : Nat)
  | matrixCommandStart (cluster : Nat)
  | matrixCommandComplete (cluster : Nat)
  | leaseGrant (cluster : Nat)
  | leaseCycleExpiry (cluster : Nat)
  | recordDispatch (die : Nat)
  | eprioAging (die rec' : Nat)
  | accrueEntryPerform (die : Nat)
  | homeAccess (die : Nat)
  | skeinReplay (die : Nat)
  | recastFlip (die region : Nat)
  | tileTransfer (die : Nat)
  | messageDelivery (m : Message)
  | collectiveComplete (die num : Nat)
  | migrationFlip (die : Nat)
  | seqPoll (die ring : Nat)
  | stalepktTimeout (die ring : Nat)
  | imageVerify (die : Nat)
  deriving DecidableEq, Repr

/-- The meaning of each, as `exec` gives it; a strand takes its turn. -/
def Auto.run (s : State) : Auto → Host.Outcome State Fault Refusal
  | .strand n => runStrand s n
  | .bankReplay core bank => execBankReplay core bank s
  | .bandWaitExpiry n => execBandWaitExpiry n s
  | .cmdqWaitExpiry n => execCmdqWaitExpiry n s
  | .tokTakeExpiry n => execTokTakeExpiry n s
  | .cpwaitExpiry n => execCpwaitExpiry n s
  | .cqpopExpiry n => execCqpopExpiry n s
  | .mrestoreWaitExpiry n => execMrestoreWaitExpiry n s
  | .cbarExpiry n => execCbarExpiry n s
  | .recastWaitExpiry n => execRecastWaitExpiry n s
  | .ringWaitExpiry n => execRingWaitExpiry n s
  | .lrecWaitExpiry n => execLrecWaitExpiry n s
  | .jobWaitExpiry n => execJobWaitExpiry n s
  | .cwaitExpiry n => execCwaitExpiry n s
  | .reshardWaitExpiry n => execReshardWaitExpiry n s
  | .engineCommandStart core engine chan => execEngineCommandStart core engine chan s
  | .copyRowDelivery core chan => execCopyRowDelivery core chan s
  | .engineCompletion core engine chan => execEngineCompletion core engine chan s
  | .heldEntryEnter core engine => execHeldEntryEnter core engine s
  | .stitchStart core => execStitchStart core s
  | .stitchRetire core => execStitchRetire core s
  | .stitchBudgetExpiry core => execStitchBudgetExpiry core s
  | .preemptStitch core discard => execPreemptStitch core discard s
  | .stitchResume core => execStitchResume core s
  | .lateExpiry core => execLateExpiry core s
  | .matrixCommandStart cluster => execMatrixCommandStart cluster s
  | .matrixCommandComplete cluster => execMatrixCommandComplete cluster s
  | .leaseGrant cluster => execLeaseGrant cluster s
  | .leaseCycleExpiry cluster => execLeaseCycleExpiry cluster s
  | .recordDispatch die => execRecordDispatch die s
  | .eprioAging die rec' => execEprioAging die rec' s
  | .accrueEntryPerform die => execAccrueEntryPerform die s
  | .homeAccess die => execHomeAccess die s
  | .skeinReplay die => execSkeinReplay die s
  | .recastFlip die region => execRecastFlip die region s
  | .messageDelivery m => execMessageDelivery m s
  | .tileTransfer die => execTileTransfer die s
  | .collectiveComplete die num => execCollectiveComplete die num s
  | .migrationFlip die => execMigrationFlip die s
  | .seqPoll die ring => execSeqPoll die ring s
  | .stalepktTimeout die ring => execStalepktTimeout die ring s
  | .imageVerify die => execImageVerify die s

/-- Whether an event changes more than the cycle. -/
def Auto.enabled (s : State) (a : Auto) : Bool :=
  match a.run s with
  | .next t => t != s.tick
  | _ => true

/-- The expiry of a strand's wait. -/
def expiryOf (n : Nat) : WaitKind → List Auto
  | .bandFull _ | .bandEmpty _ => [.bandWaitExpiry n]
  | .cmdq _ => [.cmdqWaitExpiry n]
  | .tok _ _ => [.tokTakeExpiry n]
  | .cpwait _ _ => [.cpwaitExpiry n]
  | .sts _ _ | .lds _ _ => [.ringWaitExpiry n]
  | .recast _ _ => [.recastWaitExpiry n]
  | .cbar => [.cbarExpiry n]
  | .cqpop _ => [.cqpopExpiry n]
  | .lrec _ => [.lrecWaitExpiry n]
  | .job _ => [.jobWaitExpiry n]
  | .cwait _ => [.cwaitExpiry n]
  | .trackers _ | .collectives => [.reshardWaitExpiry n]
  | .mrestore => [.mrestoreWaitExpiry n]
  | .lease | .arrive | .held | .amo => []

/-- The events of a core that hardware raises by itself. -/
def coreEvents (c : Nat) (k : Core) : List Auto :=
  (upto 16).map (.bankReplay c) ++
  (upto 4).flatMap (fun e => (upto 4).flatMap (fun ch => [.engineCommandStart c e ch, .engineCompletion c e ch]) ++
    [.heldEntryEnter c e, .copyRowDelivery c e]) ++
    (if k.stitch.isSome then [.stitchRetire c, .stitchBudgetExpiry c, .preemptStitch c false, .preemptStitch c true] else []) ++
    (if k.freeze.isSome then [.lateExpiry c] else [])

/-- The events of a cluster. -/
def clusterEvents (c : Nat) : List Auto :=
  [.matrixCommandStart c, .matrixCommandComplete c, .leaseGrant c, .leaseCycleExpiry c]

/-- The offers of a die's cores to its records (R81, R188, R309): a core that no entry of the table lists is free as well. -/
def offers (d : Nat) (x : Die) : List Auto :=
  if x.recx.isEmpty then []
  else .recordDispatch d :: (upto 128).flatMap (fun j => [.stitchStart (128 * d + j), .stitchResume (128 * d + j)])

/-- The events of a die. -/
def dieEvents (d : Nat) (x : Die) : List Auto :=
  offers d x ++ x.recx.map (fun e => .eprioAging d e.1) ++
    [.accrueEntryPerform d, .homeAccess d, .skeinReplay d, .migrationFlip d] ++
    x.rgnx.map (fun e => .recastFlip d e.1) ++ x.parties.map (fun q => .recastFlip d (hRegion q.handle)) ++
    x.colls.map (fun q => .collectiveComplete d q.num.toNat) ++
    x.hostRings.flatMap (fun e => [.seqPoll d e.1, .stalepktTimeout d e.1])

/-- The messages on their way inside the package (R349, R358): those for other modules leave through a port, which is the fabric's
act. -/
def packageMail (s : State) : List Auto :=
  (s.messages.filter (fun m => decide (m.module_ = (s.die m.die).module_.toNat))).map .messageDelivery

/-- Every event that hardware may raise by itself; whether it has an effect is tested apart. -/
def internalEvents (s : State) : List Auto :=
  s.strands.flatMap (fun e => match e.2.wait with
    | some w => expiryOf e.1 w.kind
    | none => []) ++
  s.cores.flatMap (fun e => coreEvents e.1 e.2) ++
  s.clusters.flatMap (fun e => clusterEvents e.1) ++
  s.dies.flatMap (fun e => dieEvents e.1 e.2) ++ packageMail s ++
  (if s.boot.state = .verifying then (upto 24).map .imageVerify else [])

/-- Triggered tiles: they are read before any strand stores again (R354). -/
def tileMoves (s : State) : List Auto :=
  (s.dies.map (fun e => Auto.tileTransfer e.1)).filter (Auto.enabled s)

/-- Everything that can move. -/
def moves (s : State) : List Auto :=
  match tileMoves s with
  | [] =>
    ((s.strands.map (·.1)).filter (strandReady s)).map .strand ++ (internalEvents s).filter (Auto.enabled s)
  | t :: ts => t :: ts

/-- The manual orders no two agents: which of several moves is free (log entry 3). -/
def choose (s : State) : List Auto → Option Auto
  | [] => none
  | [t] => some t
  | ts => ts[Config.arbiter s.freeCtr % ts.length]?

/-- The move that is made when none is scheduled. -/
def runNext (s : State) : Host.Outcome State Fault Refusal :=
  match choose s (moves s) with
  | some t => t.run s.free
  | none => .next s.tick

end Sys2Proof.Machine
end

