-- ==== Sys2Proof/Machine/Step.lean ====
section
/-! DEFINITION. One step of the machine: the head of the agenda, or what moves of itself (log entry 3); and the placing of
an instruction where the next step fetches it. -/

namespace Sys2Proof.Machine
open Sys2Proof

/-- One step. -/
def step (s : State) : Host.Outcome State Fault Refusal :=
  match s.agenda with
  | t :: r => runTurn { s with agenda := r } t
  | [] => runNext s

/-- Strand 0 set to begin the unit at address 0 of its 20-byte code region. -/
def fetchStrand (x : Strand) : Strand :=
  { x with
    phase := .running
    pc := 0
    codeBase := 0
    codeLen := 20
    wait := none
    held := []
    wants := []
    absent := []
    amoReply := none
    taken := none
    saved := 0
    age := none
    got := [] }

/-- The translation of the page that holds Fixed address 0 of die 0: 16 GiB at frame 0, readable (R253, R254). -/
def fetchPage : TlbEntry := { psize := 3, leaf := 3 }

/-- The attribute-file entry of Fixed slice 0 with that page size: VALID, PSIZE 11 (R252). -/
def fetchRaf : Word := 0xB000000000000000

/-- An instruction placed where the next step fetches it: firmware runs, strand 0 begins a unit at Fixed address 0 of die 0,
that slice is valid, its page's translation is in the TLB and no migration holds it, its core's clock runs, and the agenda gives strand 0 the next turn (log entry 3). -/
def State.withFetchWord (s : State) (nbits w : Nat) : State :=
  let s := s.setBytes (hbmKey 0 0) (bytesOf 20 (w % 2 ^ nbits))
  let s := s.setStrand 0 (fetchStrand (s.strand 0))
  let s := s.setCore 0 { s.core 0 with freeze := none, stopReq := false }
  let s := s.setDie 0 { s.die 0 with
    raf := tset 0 (s.die 0).raf 0 fetchRaf
    tlb := fetchPage :: (s.die 0).tlb
    migQueue := [] }
  { s with boot := { s.boot with state := .running }, agenda := .strand 0 :: s.agenda }

end Sys2Proof.Machine
end

