-- ==== Sys2Proof/Safety.lean ====
section
/-! DEFINITION. The terms in which claims are stated: the invariant of the machine, when a unit issues, what a completed
unit leaves, and the forms that claims name. -/

namespace Sys2Proof.Machine
open Sys2Proof

/-! ### The invariant -/

/-- Memory and the poison bits are in their canonical form. -/
abbrev State.Inv (s : State) : Prop := Memory.wf s.mem = true ∧ tableWf false s.poison = true

/-! ### Encoding -/

/-- A run of parcels decodes to an instruction. -/
abbrev decodes (ps : List Nat) (i : Instr) : Prop := (decodeUnit ps).toOption = some i

/-! ### Issue -/

end Sys2Proof.Machine

namespace Sys2Proof
open Sys2Proof.Machine

/-- The prefix values of an instruction. -/
def Instr.mods (i : Instr) : Mods :=
  match i.hdr with
  | some u => modsOf u.pfx
  | none => {}

end Sys2Proof

namespace Sys2Proof.Machine

/-- A uniform instruction's guard passes (R66). -/
abbrev passes (i : Instr) (s : State) : Prop := guardU s.me i.guard = true

/-- The lanes a guard enables (R66). -/
def lanesOf (i : Instr) (s : State) : Word := guardLanes s.me i.guard

/-- The running strand owns a port (R101, R167). -/
abbrev owns (s : State) (p : Port) : Prop := portOwner s.kore.portmap p = numOf s.cur

/-- The running strand owns the port an instruction needs, if it needs one. -/
def ownsAll (s : State) : Option Port → Prop
  | none => True
  | some p => owns s p

/-- The address after a unit. -/
def past (i : Instr) (s : State) : Word := s.me.pc + BitVec.ofNat 64 (4 * (encode i).length)

/-- A strand after a unit that continues at an address: nothing of a wait remains (R55). -/
def Strand.goes (x : Strand) (pc : Word) : Strand :=
  { x with pc := pc, wait := none, held := [], wants := [], absent := [], amoReply := none, taken := none, saved := 0,
             age := none, got := [] }

/-- The machine after a unit that made its strand `x` and continues at `pc`: one cycle later, all else as it was. -/
def after (s : State) (x : Strand) (pc : Word) : State := { s.setMe (x.goes pc) with cycle := s.cycle + 1 }

/-- The machine after a unit that trapped with nothing performed. -/
def trapped (s : State) (t : TrapInfo) : State := (deliverTrap s s.cur t).tick

/-- An instruction completes: the machine is `t` but for the pc past the unit, the ended wait and the cycle. -/
abbrev yields (i : Instr) (s t : State) : Prop := exec i s = .next (after t t.me (past i s))

/-- An instruction completes and all that changes is its strand, which becomes `x` and moves past the unit. -/
abbrev completes (i : Instr) (s : State) (x : Strand) : Prop := exec i s = .next (after s x (past i s))

/-- An instruction transfers control: its strand becomes `x` at address `pc`, and nothing else changes. -/
abbrev transfers (i : Instr) (s : State) (x : Strand) (pc : Word) : Prop := exec i s = .next (after s x pc)

/-- A strand after a trap that its handler takes (R114); the two low bits of THND are dropped (log entry 45). -/
def Strand.entered (x : Strand) (t : TrapInfo) : Strand :=
  { x with
    wait := none, held := [], wants := [], absent := [], amoReply := none, taken := none, saved := 0, age := none, got := []
    tcause := BitVec.ofNat 16 (t.sub.toNat * 256 + t.cause.toNat), tpc := x.pc, tval := t.tval, tlanes := t.lanes
    inh := true, pc := x.thnd.setWidth 64 &&& ~~~3 }

/-- An instruction traps with nothing performed. -/
abbrev traps (i : Instr) (s : State) (t : TrapInfo) : Prop := exec i s = .next (trapped s t)

/-- A uniform instruction's guard passes, and its value is written to a scalar register (R98: s0 discards it). -/
def writes (i : Instr) (s : State) (d : BitVec 5) (w : Word) : Prop := passes i s → completes i s (s.me.sset d w)

/-- A transfer to `t` passes the checks of R72: outside the code region any aligned target does, inside it the parcel there
is the first of an instruction with T = 1. -/
def lands (s : State) (t : Word) : Prop :=
  t.toNat % 4 = 0 ∧ (inCode s.me t.toNat = true → ∃ p, fetchParcel s t.toNat = (s, .ok p) ∧ p % 4 ≠ 3 ∧ bit p 2 = true)

/-- A transfer to `t` fails for want of a landing bit (R72). -/
def stumbles (s : State) (t : Word) : Prop :=
  t.toNat % 4 = 0 ∧ inCode s.me t.toNat = true ∧ ∃ p, fetchParcel s t.toNat = (s, .ok p) ∧ (p % 4 = 3 ∨ bit p 2 = false)

/-- An immediate of n bits as an operand: sign-extended, or after the 25 bits of an Immediate extension prefix (R69). -/
def immOf {n : Nat} (m : Mods) (x : BitVec n) : Word :=
  match m.ext with
  | none => x.signExtend 64
  | some e => (e ++ x).signExtend 64

/-- A strand after a call with frame field `frm` and a link word, once the frames that had to go are spilled (R108). -/
def Strand.called (x : Strand) (frm : Nat) (link : Word) : Strand :=
  let y := { x with voff := x.voff + 16 * frm, swb := x.swb + 1, depth := x.depth + 1, res := x.res + 1 }
  ((List.range 16).foldl (fun (y : Strand) i => y.wset (x.swb + 1) i 0) y).wset (x.swb + 1) 0 link

/-- An exact result as a word, clamped to the signed range under SAT (R132). -/
def clamped (m : Mods) (x : Int) : Word := if m.sat then BitVec.ofInt 64 (max (-2 ^ 63) (min (2 ^ 63 - 1) x)) else BitVec.ofInt 64 x

/-- A finite value. -/
def FVal.finite : FVal → Bool
  | .fin .. => true
  | _ => false

/-- The rational number a finite value stands for (R21). -/
def FVal.rat : FVal → Rat
  | .fin neg m e => (if neg then -1 else 1) * (m : Rat) * (2 : Rat) ^ e
  | _ => 0

/-- The distance of two rationals. -/
def gap (x y : Rat) : Rat := if x ≤ y then y - x else x - y

/-- Numeric order with the infinities; a NaN is in no order. -/
def FVal.below (a b : FVal) : Bool :=
  match a, b with
  | .nan _, _ => false
  | _, .nan _ => false
  | .inf s, .inf t => s && !t
  | .inf s, _ => s
  | _, .inf t => !t
  | a, b => decide (a.rat < b.rat)

/-- A condition of R63 on two float values (R106): a NaN operand makes all but ne and un false. -/
def condFloat (c : Cond) (a b : FVal) : Bool :=
  let un := a.isNaN || b.isNaN
  let lt := a.below b
  let gt := b.below a
  match c with
  | .eq => !un && !lt && !gt
  | .ne => un || lt || gt
  | .lt => lt
  | .le => !un && !gt
  | .gt => gt
  | .ge => !un && !lt
  | .un => un
  | .or => !un

/-- A condition of R63 on two integers, the unordered ones apart. -/
def condOrder (c : Cond) (x y : Int) : Bool :=
  match c with
  | .eq => decide (x = y)
  | .ne => decide (x ≠ y)
  | .lt => decide (x < y)
  | .le => decide (x ≤ y)
  | .gt => decide (y < x)
  | .ge => decide (y ≤ x)
  | .un => false
  | .or => true

/-- The FP32 value of a scalar's low half, a subnormal read as zero under `.ftz` (R30, R134). -/
def scalarF32 (m : Mods) (w : Word) : FVal := if m.ftz then flushIn .fp32 (f32Val w.toNat) else f32Val w.toNat

/-- A strand that received an FP32 result with its conditions (R29, R134): the code zero-extended, the flags of lane 0. -/
def Strand.received (x : Strand) (m : Mods) (d : BitVec 5) (code : Nat) (f : Flags) : Strand :=
  let y := x.sset d (BitVec.ofNat 64 code)
  if m.q then y
  else
    { y with
      flnv := y.flnv ||| (if f.nv then 1 else 0)
      fldz := y.fldz ||| (if f.dz then 1 else 0)
      flof := y.flof ||| (if f.ov then 1 else 0)
      fluf := y.fluf ||| (if f.uf then 1 else 0)
      flnx := y.flnx ||| (if f.nx then 1 else 0) }

/-- The rounding of a scalar float instruction (R28, R134): its mode, and under RSR the draw of its coordinates. -/
def scalarRounding (x : Strand) (m : Mods) (d : BitVec 5) : RCtx :=
  { mode := m.mode, draw := rsrDraw (x.stitchNum.toNat * 2 ^ 32 + (0x320 + d.toNat) * 2 ^ 16) x.srkey.toNat m.key, sat := m.sat, ftz := m.ftz }

/-- An address the strand reaches through translation, already in the TLB of its home (R251). -/
abbrev placed (s : State) (sp : Space) (va : BitVec 56) (need : Need) (k : Nat) : Prop := translate s sp va need = (s, .ok k)

/-- A chunk of 128 bytes of the spill stack can be accessed: its page's translation is in the TLB and allows it, no move holds
the page, and no entry of the skein waits for it. -/
def chunkOpen (s : State) (need : Need) (va : BitVec 56) : Prop :=
  (∃ k, placed s .loose va need k) ∧ migHolds s va = false ∧ pendingPage s .loose (pageAt s .loose va) = false

/-- So can n chunks, one after another. -/
def chunksOpen (s : State) (need : Need) (va : BitVec 56) (n : Nat) : Prop :=
  ∀ j, j < n → chunkOpen s need (va + BitVec.ofNat 56 (128 * j))

/-- Of n chunks, one lies on a page that is absent or forbids the access, and those before it can be accessed. -/
def chunksFail (s : State) (need : Need) (va : BitVec 56) (n : Nat) : Prop :=
  ∃ j, j < n ∧ (∀ i, i < j → chunkOpen s need (va + BitVec.ofNat 56 (128 * i))) ∧
    (translate s .loose (va + BitVec.ofNat 56 (128 * j)) need = (s, .perm) ∨
      translate s .loose (va + BitVec.ofNat 56 (128 * j)) need = (s, .absent))

/-- A strand has a handler and is not in one (R114). -/
abbrev handles (x : Strand) : Prop := x.thnd ≠ 0 ∧ x.inh = false

/-! ### Rows -/

/-- Element e of width w of a row (R9, R20). -/
def elem (w : Nat) (r : RowBits) (e : Nat) : Nat := r.toNat / 2 ^ (w * e) % 2 ^ w

/-- Where a row lies: the private file, the band, or the strand's output rows. -/
def rowPlace (s : State) : Row → Nat × Nat
  | .v n => (0, s.vkey n.toNat)
  | .b n => (1, n.toNat)
  | .o n => (2, n.toNat)

/-- Destinations that lie apart: a partition of 256 rows or more never folds two of them. -/
abbrev separate (s : State) (ds : List Row) : Prop := (ds.map (rowPlace s)).Nodup

/-- What a source reads. -/
def Ref.at (s : State) : Ref → PRow
  | .row r => s.rowGet r
  | .lx => s.me.lx

/-- A source can be read now: a band row is full (R172). -/
def Ref.present (s : State) : Ref → Bool
  | .row (.b n) => s.kore.isFull n.toNat
  | _ => true

/-- A destination can be written now: a band row can be taken (R172-R174). -/
def Row.takable (s : State) : Row → Bool
  | .b n => canTake s s.cur n.toNat
  | _ => true

/-- Element e of row j of a source operand: of its row or the latch, or a broadcast (R62, R148). -/
def source (s : State) (f : Fmt) (m : Mods) (a : VSrc) (j e : Nat) : Nat :=
  match a with
  | .row r => elem f.width (s.rowGet (Row.plus r j)).bits e
  | .lx => elem f.width s.me.lx.bits e
  | .scal r => (s.sget r).toNat % 2 ^ f.width
  | .imm n => immCode f (immVal m 9 n.toNat)

/-- The same for an instruction without a type: 32-bit elements, an immediate as a two's-complement value (R148). -/
def wideSource (s : State) (m : Mods) (a : VSrc) (j e : Nat) : Nat :=
  match a with
  | .imm n => wrapInt 32 (immVal m 9 n.toNat)
  | _ => source s .int32 m a j e

/-- A vector instruction can issue and complete at once: its port is owned, a lane is enabled, nothing has been read before,
every band source is full and every band destination can be taken, the destinations lie apart, and in strict mode no source
is poisoned (R104, R116, R149, R172, R174). -/
abbrev vready (i : Instr) (s : State) (refs : List Ref) (ds : List Row) : Prop :=
  owns s .x ∧ lanesOf i s ≠ 0 ∧ s.me.held = [] ∧
    (∀ r ∈ refs, r.present s = true) ∧ (∀ d ∈ ds, Row.takable s d = true) ∧ separate s ds ∧
    (s.me.strict = true → ∀ r ∈ refs, (Ref.at s r).poison = false)

/-- The registers of a strand beside its rows, predicates, handles, flag words, and what a unit that has not ended keeps. -/
def Strand.others (x : Strand) : Strand :=
  { x with orows := [], lx := {}, preds := [], handles := [], flnv := 0, fldz := 0, flof := 0, fluf := 0, flnx := 0
           wait := none, held := [], wants := [], absent := [], amoReply := none, taken := none, saved := 0, age := none, got := [] }

/-- The registers of a core beside its rows, the reservations of the band and its stitch. -/
def Core.others (k : Core) : Core := { k with vfile := [], band := [], full := 0, reserved := [], stitch := none }

/-- What an instruction that writes rows leaves alone: every row that none of its destinations shares a place with, every
other register of the strand but lx, its predicates, its handles and the flag words, every other register of its core, every other
strand and core, and the clusters; a band destination becomes full (R172). -/
def rowsKept (s t : State) (ds : List Row) : Prop :=
  (∀ r, rowPlace s r ∉ ds.map (rowPlace s) → t.rowGet r = s.rowGet r) ∧
    (∀ b, t.kore.isFull b = (s.kore.isFull b || (bandRows ds).contains b)) ∧
    t.me.others = s.me.others ∧ t.kore.others = s.kore.others ∧ (∀ n, n ≠ s.cur → t.strand n = s.strand n) ∧
    (∀ c, c ≠ s.myCore → t.core c = s.core c) ∧ t.clusters = s.clusters ∧ t.cycle = s.cycle ∧ t.cur = s.cur

/-- The same, with the predicates, the handles, the stitch and memory left alone as well. -/
def rowFrame (s t : State) (ds : List Row) : Prop :=
  rowsKept s t ds ∧ t.me.preds = s.me.preds ∧ t.me.handles = s.me.handles ∧ t.kore.stitch = s.kore.stitch ∧
    t.dies = s.dies ∧ t.mem = s.mem ∧ t.poison = s.poison

/-- The rows of a run hold the results `f j e` of row j and element e in their enabled lanes and their old elements in the
others; each is poisoned by a poisoned source, by its old poison where a lane is suppressed, and by a poisoning result; lx is
the last row; and each lane's flag bits are set for its results' conditions, unless `.q` suppresses them (R29, R32, R99,
R103, R151). -/
def rowsGive (s t : State) (lanes : Word) (q : Bool) (w n : Nat) (refs : List Ref) (d : Row) (f : Nat → Nat → Rounded) : Prop :=
  let on (e : Nat) : Bool := lanes.getLsbD (e * w / 32)
  let flags (old new : Word) (c : Flags → Bool) : Prop := ∀ l, l < 64 → new.getLsbD l = (old.getLsbD l ||
    (!q && lanes.getLsbD l && (List.range n).any (fun j => (List.range (32 / w)).any (fun k => c (f j (l * (32 / w) + k)).fl))))
  rowFrame s t (runDests n d) ∧
    (∀ j e, j < n → e < 2048 / w → elem w (t.rowGet (Row.plus d j)).bits e =
      if on e then (f j e).code % 2 ^ w else elem w (s.rowGet (Row.plus d j)).bits e) ∧
    (∀ j, j < n → (t.rowGet (Row.plus d j)).poison = (refs.any (fun r => (Ref.at s r).poison) ||
      (lanes != BitVec.allOnes 64 && (s.rowGet (Row.plus d j)).poison) ||
      (List.range (2048 / w)).any (fun e => on e && (f j e).poison))) ∧
    t.me.lx = t.rowGet (Row.plus d (n - 1)) ∧
    flags s.me.flnv t.me.flnv Flags.nv ∧ flags s.me.fldz t.me.fldz Flags.dz ∧ flags s.me.flof t.me.flof Flags.ov ∧
    flags s.me.fluf t.me.fluf Flags.uf ∧ flags s.me.flnx t.me.flnx Flags.nx

/-- An instruction that moves rows begins, and a row stops it. An empty source row of the band: the unit holds what it has read
before that row and waits for it (R55, R172, R175). With every source present, a poisoned one in strict mode: POISON with the code
of the first and every enabled lane (R116). A destination row of the band that cannot be taken: the unit holds its sources, reserves
the rows it can take and waits for the lowest of the others (R174, R175). With WLIM = 0 a wait raises WAIT at once. -/
def stalls (i : Instr) (s : State) (refs : List Ref) (ds : List Row) : Prop :=
  let x := s.me
  let read (rs : List Ref) : List PRow := rs.map (Ref.at s)
  let since (k : WaitKind) : Option Wait := some ⟨k, s.cycle, some x.wlim⟩
  lanesOf i s ≠ 0 → x.held = [] → x.wait = none → x.arrived = false →
    (∀ before b later, refs = before ++ .row (.b b) :: later → (∀ r ∈ before, r.present s = true) → s.kore.isFull b.toNat = false →
      (x.wlim = 0 → traps i s { cause := 0x09, tval := BitVec.ofNat 64 (b.toNat + 2 ^ 10) }) ∧
      (x.wlim ≠ 0 → exec i s = .next (s.setMe { x with held := read before, wait := since (.bandFull b.toNat) }).tick)) ∧
    ((∀ r ∈ refs, r.present s = true) →
      (∀ before r later, refs = before ++ r :: later → x.strict = true → (∀ q ∈ before, (Ref.at s q).poison = false) →
        (Ref.at s r).poison = true → traps i s { cause := 0x10, tval := BitVec.ofNat 64 r.code, lanes := lanesOf i s }) ∧
      ((x.strict = true → ∀ r ∈ refs, (Ref.at s r).poison = false) →
        ∀ b more, (bandRows ds).filter (fun b => !canTake s s.cur b) = b :: more →
          let low := more.foldl min b
          (x.wlim = 0 → (s.kore.reserved.map (·.1)).Nodup →
            traps i s { cause := 0x09, tval := BitVec.ofNat 64 (low + if s.kore.isFull low then 2 ^ 9 else 0) }) ∧
          (x.wlim ≠ 0 → ∃ t : State, exec i s = .next t.tick ∧ t = { s with cores := t.cores, strands := t.strands } ∧
            t.me = { x with held := read refs, wants := b :: more, wait := since (.bandEmpty low) } ∧
            (∀ n, n ≠ s.cur → t.strand n = s.strand n) ∧ (∀ c, c ≠ s.myCore → t.core c = s.core c) ∧
            t.kore = { s.kore with reserved := t.kore.reserved } ∧
            ∀ r, reservedBy t.kore r =
              if (bandRows ds).contains r && canTake s s.cur r then some s.cur else reservedBy s.kore r)))

/-- A vector instruction whose strand owns X stops at its rows, or completes and its destination holds the results. -/
def rowsGet (i : Instr) (s : State) (q : Bool) (w n : Nat) (refs : List Ref) (d : Row) (f : Nat → Nat → Rounded) : Prop :=
  (owns s .x → stalls i s refs (runDests n d)) ∧
    (vready i s refs (runDests n d) → ∃ t, yields i s t ∧ rowsGive s t (lanesOf i s) q w n refs d f)

/-- A result with no condition. -/
def only (x : Nat) : Rounded := ⟨x, {}, false⟩

/-- An exact integer result of a type, clamped to its range under SAT and else taken mod 2^w (R152). -/
def intElem (f : Fmt) (sat : Bool) (x : Int) : Rounded :=
  only (wrapInt f.width (if sat then max (intRange f).1 (min (intRange f).2 x) else x))

/-- The rounding of element e of a row with operand code c (R27, R28, R149). -/
def rowRounding (x : Strand) (m : Mods) (c e : Nat) : RCtx :=
  { mode := m.mode, sat := m.sat, ftz := m.ftz
    draw := if m.mode = .rsr then rsrDraw (x.stitchNum.toNat * 2 ^ 32 + c * 2 ^ 16 + e) x.srkey.toNat m.key else 0 }

/-- A float result: the rounding of a value, with the conditions found before it; an invalid operation sets invalid alone
(R29, R153). -/
def floatElem (f : Fmt) (c : RCtx) (v : FVal × Flags) : Rounded :=
  let r := roundFloat f c v.1
  { r with fl := if v.2.nv then nvFlag else r.fl.join v.2 }

/-- The order of R136 on codes: −0 lies below +0, and a NaN in no order. -/
def precedes (f : Fmt) (x y : Nat) : Bool :=
  let a := (decodeFmt f x).1
  let b := (decodeFmt f y).1
  a.below b || (a.isZero && b.isZero && a.sign && !b.sign)

/-- The smaller or the larger of two codes: a NaN gives the other one, two of them the canonical NaN (R136). -/
def chosen (f : Fmt) (least : Bool) (x y : Nat) : Nat :=
  let nan (c : Nat) : Bool := (decodeFmt f c).1.isNaN
  if nan x && nan y then canonNaN f
  else if nan x then y
  else if nan y then x
  else if least then (if precedes f y x then y else x) else (if precedes f x y then y else x)

/-- A value with an invalid condition. -/
def flagged (v : FVal × Bool) : FVal × Flags := (v.1, if v.2 then nvFlag else {})

/-- a × b + c, rounded once; 0 × ∞ is invalid whatever c is (R135). -/
def fused (mode : RMode) (a b c : FVal) : FVal × Flags :=
  flagged ((sumVal mode [(mulVal a b).1, c]).1, (mulVal a b).2 || (sumVal mode [(mulVal a b).1, c]).2)

/-! ### Memory -/

/-- A handle an access of elements of w bits in a space may use (R276, R277): legal, of the space and the width, its die not
reserved, BASE aligned to an element. -/
abbrev fits (h : HBits) (sp : Space) (w : Nat) : Prop :=
  hLegal h = true ∧ hSpace h = sp ∧ (hWidth h = w ∨ (w = 32 ∧ (hFmt h = some .int64 ∨ hFmt h = some .af128))) ∧
    reservedDie (hBase h) = false ∧ (hBase h).toNat % elemBytes w = 0

/-- The same but for BASE's alignment. -/
abbrev shaped (h : HBits) (sp : Space) (w : Nat) : Prop :=
  hLegal h = true ∧ hSpace h = sp ∧ (hWidth h = w ∨ (w = 32 ∧ (hFmt h = some .int64 ∨ hFmt h = some .af128))) ∧
    reservedDie (hBase h) = false

/-- ALIGN of a vector access: BASE, and every enabled lane (R276). -/
def misaligned (h : HBits) (lanes : Word) : TrapInfo := { cause := 0x05, tval := (hBase h).setWidth 64, lanes := lanes }

/-- PERM of the lanes whose index lies outside the tile: TVAL is BASE (R281). -/
def lostLanes (h : HBits) (lost : Nat → Bool) : TrapInfo :=
  { cause := 0x0C, tval := (hBase h).setWidth 64, lanes := laneMask ((List.range 64).filter lost) }

/-- PERM of elements in ascending order: the address of the first, and every lane that holds one (R112). -/
def deniedElems (es : List Elem) : TrapInfo :=
  { cause := 0x0C, tval := ((es.head?.map Elem.va).getD 0).setWidth 64, lanes := laneMask (es.map (·.lane)) }

/-- The home turns an access of elements away and performs nothing: PERM names the elements outside the region, or all of them where
STATE, REGION or the tenant is wrong; ROLE what R112 gives (R259). So does the issuing cluster's vault under `.here`: PERM names every
element where the handle is not vault-local or its region lies elsewhere, and else those outside the region and its area (R208). -/
def denies (i : Instr) (s : State) (h : HBits) (hre : Bool) (w : Nat) (els : List Elem) : Prop :=
  let n := elemBytes w
  let verdict := homeCheck s s.myTenant h (tookEarlier s h (els.map (·.va))) n (els.map (fun e => (e.lane, e.va)))
  let off (e : Elem) : Nat := e.va.toNat - (hBase h).toNat
  let out := els.filter (fun e => !(inBolts s s.myCluster h (off e) (off e + n) && inArea s s.myCluster h (off e + n)))
  els ≠ [] →
    (hre = false → ∀ ls, verdict = .perm ls → traps i s (deniedElems (els.filter (fun e => ls.contains e.lane)))) ∧
    (hre = false → ∀ tv, verdict = .role tv → traps i s { cause := 0x0A, tval := tv }) ∧
    (hre = true → hVl h = false ∨ placedHere s s.myCluster h = false → traps i s (deniedElems els)) ∧
    (hre = true → hVl h = true → placedHere s s.myCluster h = true → out ≠ [] → traps i s (deniedElems out))

/-- Every element is reached, at the place `k` gives its address. Through the home: its checks pass (R259), and the pages are
present and have no entry pending in the skein (R269, R270). Under `.here`: the vault's checks pass, and no entry is pending either
(R208). -/
def reaches (s : State) (h : HBits) (sp : Space) (need : Need) (hre : Bool) (w : Nat) (els : List Elem)
    (k : BitVec 56 → Nat) : Prop :=
  if hre then
    hereCheck s h (elemBytes w) els = .ok () ∧
      ∀ e ∈ els, pendingPage s sp (pageAt s sp e.va) = false ∧
        k e.va = vaultKey s.myCluster (bits (hBase h).toNat 0 26 + (e.va.toNat - (hBase h).toNat))
  else
    els = [] ∨ (homeCheck s s.myTenant h false (elemBytes w) (els.map (fun e => (e.lane, e.va))) = .ok ∧
      ∀ e ∈ els, pendingPage s sp (pageAt s sp e.va) = false ∧
        ∃ p, placed s sp (pageAt s sp e.va) need p ∧ k e.va = p + (e.va.toNat - (pageAt s sp e.va).toNat))

/-- The sources of an access can be read at once: nothing has been read before, every band source is full, and in strict mode
none is poisoned (R104, R116, R172). -/
abbrev readable (s : State) (refs : List Ref) : Prop :=
  s.me.held = [] ∧ s.me.taken = none ∧ (∀ r ∈ refs, r.present s = true) ∧
    (s.me.strict = true → ∀ r ∈ refs, (Ref.at s r).poison = false)

/-- Word n of an index run (R281). -/
def indexOf (s : State) (r : Row) (n : Nat) : Nat := elem 32 (s.rowGet (Row.plus r (n / 64))).bits (n % 64)

/-- A home holds a request that it has taken (R261, R328): one of a strand, of a running command, or of a collective's tile or message. -/
def homeHolds (s : State) (t : HeldReq) : Prop :=
  (∃ m ∈ s.strands, m.2.taken = some t) ∨ (∃ m ∈ s.cores, ∃ g ∈ m.2.eng, ∃ c ∈ g.2.running, c.taken = some t) ∨
    (∃ m ∈ s.clusters, ∃ c, m.2.running = some c ∧ c.taken = some t) ∨
    ∃ m ∈ s.dies, ∃ c ∈ m.2.colls, (∃ e ∈ c.tookTiles, e.2 = t) ∨ ∃ e ∈ c.tookMessages, e.2 = t

/-- What a list of writes, in order, leaves of a byte: whole bytes and single nibbles. -/
def written (cells : List (Nat × Byte × Part)) (k : Nat) (b : Byte) : Byte :=
  cells.foldl (fun b c => if c.1 = k then (match c.2.2 with
    | .full => c.2.1
    | .low => (b &&& 0xF0) ||| (c.2.1 &&& 0x0F)
    | .high => (b &&& 0x0F) ||| (c.2.1 &&& 0xF0)) else b) b

/-- The ring of a handle can be used by the running strand, and its region lies at the places from k on (R246, R247, R259):
the handle is a legal Stream handle of this package, the task is not pure, the slots, the headers and the pointers lie inside the
region, every page is present and has no entry pending, and the region's descriptor lies elsewhere. -/
def ringAt (s : State) (h : HBits) (k : Nat) : Prop :=
  let d := homeOf (hBase h)
  let r := hRegion h
  let size := 65536 * rgnBolts s d r
  hLegal h = true ∧ hSpace h = .stream ∧ reservedDie (hBase h) = false ∧ vaDie (hBase h) ≠ 31 ∧ s.me.pure = false ∧
    0 < ringZ s d r ∧ 0 < ringN s d r ∧ ringN s d r * ringZ s d r + 16 * ringN s d r + 64 ≤ size ∧
    rgnBase s d r + size ≤ 2 ^ 51 ∧
    (∀ off, off < size → (∀ need, placed s .stream (rgnVa s d r off) need (k + off)) ∧
      pendingPage s .stream (pageAt s .stream (rgnVa s d r off)) = false) ∧
    (rgnKey s d r + 256 ≤ k ∨ k + size ≤ rgnKey s d r)

/-- Offset in a ring's region of pointer word w: 0 W, 1 R, 2 C, 3 WROW, 4 RROW, 5 producer, 6 consumer (R246). -/
def ringWordAt (s : State) (d r w : Nat) : Nat := ringN s d r * ringZ s d r + 16 * ringN s d r + 8 * w

/-- The pointer words of the rings that a stitch read lie at places of their own: the home reaches word w of region r of die d at
`at' d r w`, and no two of the words share a byte, nor does one with a descriptor of these regions or with the stitch's launch
record (R246, R247). -/
def ringsAt (s : State) (st : Stitch) (at' : Nat → Nat → Nat → Nat) : Prop :=
  let apart (k l n : Nat) : Prop := k + 8 ≤ l ∨ l + n ≤ k
  ∀ p ∈ st.rings, ∀ w, w < 7 → placed s .stream (ringPtrVa s p.1 p.2 w) {} (at' p.1 p.2 w) ∧
    apart (at' p.1 p.2 w) (recKey s st.id.die st.id.record) 256 ∧
    ∀ q ∈ st.rings, apart (at' p.1 p.2 w) (rgnKey s q.1 q.2) 256 ∧
      ∀ v, v < 7 → (p, w) ≠ (q, v) → apart (at' p.1 p.2 w) (at' q.1 q.2 v) 8

/-- A stitch is the bound consumer of a ring whose pointer words lie there: the consumer's word names its launch record, that
record's die and its linear stitch number, whatever strand of it (R246, R247). -/
def consumes (s : State) (st : Stitch) (at' : Nat → Nat → Nat → Nat) (p : Nat × Nat) : Bool :=
  let b := s.num (at' p.1 p.2 6) 8
  bit b 63 && bits b 0 32 == st.lin.toNat && bits b 34 12 == st.id.record % 2 ^ 12 && bits b 46 5 == st.id.die % 32

/-- Offset of a slot's header: flags and row count, then the sequence number (R246). -/
def slotHeadAt (s : State) (d r j : Nat) : Nat := ringN s d r * ringZ s d r + 16 * j

/-! ### Waits -/

/-- A waiting instruction cannot proceed: with LIM = 0 it raises WAIT at once, else it keeps its place and what it waits for,
since the first cycle of this wait (R55, R113). -/
def waits (i : Instr) (s : State) (kind : WaitKind) (lim : BitVec 12) (tval : Nat) : Prop :=
  let since := match s.me.wait with
    | some w => if w.kind = kind then w.since else s.cycle
    | none => s.cycle
  (lim = 0 → s.me.arrived = false → traps i s { cause := 0x09, tval := BitVec.ofNat 64 tval }) ∧
    (lim ≠ 0 → exec i s = .next (s.setMe { s.me with wait := some ⟨kind, since, some (16 * lim.toNat)⟩ }).tick)

/-- The core of the running strand holds the lease `l` of its cluster, and a matrix command may use it (R229): no resumed
stitch of the core waits for it, it is not ending, and a command budget has a unit left. -/
def leased (s : State) (l : Lease) : Prop :=
  let x := s.cluster s.myCluster
  x.lease = some l ∧ l.core = s.myCore ∧ l.ending = false ∧ l.expired = false ∧ (l.byCycles = true ∨ l.left ≠ 0) ∧
    ∀ r ∈ x.requests, r.core = s.myCore → r.resume = none

/-! ### Events -/

/-- An event happens: the machine is `t`, one cycle later. -/
abbrev performs (i : Instr) (s t : State) : Prop := exec i s = .next t.tick

/-- Nothing but a core differs. -/
def onlyCore (s t : State) (c : Nat) : Prop := t = { s with cores := t.cores } ∧ ∀ j, j ≠ c → t.core j = s.core j

/-- Nothing but a cluster differs. -/
def onlyCluster (s t : State) (c : Nat) : Prop := t = { s with clusters := t.clusters } ∧ ∀ j, j ≠ c → t.cluster j = s.cluster j

/-- Nothing but a die differs. -/
def onlyDie (s t : State) (d : Nat) : Prop := t = { s with dies := t.dies } ∧ ∀ j, j ≠ d → t.die j = s.die j

/-! ### Forms by port and privilege -/

end Sys2Proof.Machine

namespace Sys2Proof
open Sys2Proof.Machine

/-- The port of an instruction (R167; the Port columns of R84-R95, R121, R190, R226, R278, R301, R356). -/
def Instr.port : Instr → Option Port
  | .pairSNop _ .nop => none
  | .vadd .. | .vsub .. | .vmul .. | .vmulh .. | .vmin .. | .vmax .. | .vabs .. | .vneg .. | .vfma .. | .vdiv ..
  | .vrcp .. | .vrsqrt .. | .vsqrt .. | .vexp2 .. | .vlog2 .. | .vshl .. | .vshr .. | .vsar .. | .vand .. | .vor ..
  | .vxor .. | .vnot .. | .vmov .. | .vcmp .. | .vcvt .. | .vquant .. | .vdequant .. | .vdot4 .. | .vperm ..
  | .vbcast .. | .vrot .. | .vredsum .. | .vredmin .. | .vredmax .. | .vscan .. | .vcompress .. | .vexpand ..
  | .vget .. | .vput .. | .pairSNop .. | .pairVVaddI32 .. | .pairVVsubI32 .. | .pairVVmulI32 .. | .pairVVminI32 ..
  | .pairVVmaxI32 .. | .pairVVand .. | .pairVVor .. | .pairVVxor .. | .pairVVmov .. | .pairVVaddF32 ..
  | .pairVVsubF32 .. | .pairVVmulF32 .. | .pairVVfmaF32 .. | .pairVVminF32 .. | .pairVVmaxF32 .. => some .x
  | .ldf .. | .ldfg .. | .ldl .. | .ldlg .. | .lds .. | .cpin .. | .recastWait .. => some .m
  | .stl .. | .stls .. | .sts .. | .stsEos .. | .accAddI32 .. | .accAddI64 .. | .accAddAf .. | .accMinI32 ..
  | .accMaxI32 .. | .accAnd .. | .accOr .. | .accXor .. | .amoSwap .. | .amoCas .. | .amoAdd .. | .amoMin ..
  | .amoMax .. | .amoAnd .. | .amoOr .. | .fenceFull .. | .fenceAcq .. | .fenceRel .. | .afence .. | .cpout ..
  | .saccAdd .. | .saccMin .. | .saccMax .. | .saccAnd .. | .saccOr .. | .saccXor .. | .rgnParties ..
  | .recastArrive .. | .lrecPatch .. | .lrecArm .. | .reshard .. => some .w
  | .lease .. | .leaseCyc .. | .unlease .. | .mzero .. | .mma .. | .mdrain .. | .msave .. | .mrestore .. => some .t
  | _ => none

/-- The forms that need the privileged mode (R73, R143, R145, R146, R290). -/
def Instr.privileged : Instr → Bool
  | .ctxsave .. | .ctxrestore .. | .hbuild .. => true
  | .sysw _ r _ => match r with
    | .vwb | .swb | .part | .portmap | .spillh | .thnd => true
    | _ => false
  | _ => false

/-- The per-lane instructions (R103). -/
def Instr.laned : Instr → Bool
  | .vadd .. | .vsub .. | .vmul .. | .vmulh .. | .vmin .. | .vmax .. | .vabs .. | .vneg .. | .vfma .. | .vdiv ..
  | .vrcp .. | .vrsqrt .. | .vsqrt .. | .vexp2 .. | .vlog2 .. | .vshl .. | .vshr .. | .vsar .. | .vand .. | .vor ..
  | .vxor .. | .vnot .. | .vmov .. | .vcmp .. | .vcvt .. | .vquant .. | .vdequant .. | .vdot4 .. | .vperm ..
  | .vbcast .. | .vrot .. | .vredsum .. | .vredmin .. | .vredmax .. | .vscan .. | .vcompress .. | .vexpand ..
  | .vget .. | .vput .. | .ldf .. | .ldfg .. | .ldl .. | .ldlg .. | .stl .. | .stls .. | .accAddI32 ..
  | .accAddI64 .. | .accAddAf .. | .accMinI32 .. | .accMaxI32 .. | .accAnd .. | .accOr .. | .accXor .. => true
  | _ => false

/-- Pair words (R48): their halves take the guard each in its own way. -/
def Instr.paired : Instr → Bool
  | .pairSNop .. | .pairSAdd .. | .pairSSub .. | .pairSAnd .. | .pairSOr .. | .pairSXor .. | .pairSMin ..
  | .pairSMax .. | .pairSAddi .. | .pairSShl .. | .pairSShr .. | .pairSSar .. | .pairSMov .. | .pairSMovi ..
  | .pairVNop .. | .pairVVaddI32 .. | .pairVVsubI32 .. | .pairVVmulI32 .. | .pairVVminI32 .. | .pairVVmaxI32 ..
  | .pairVVand .. | .pairVVor .. | .pairVVxor .. | .pairVVmov .. | .pairVVaddF32 .. | .pairVVsubF32 ..
  | .pairVVmulF32 .. | .pairVVfmaF32 .. | .pairVVminF32 .. | .pairVVmaxF32 .. => true
  | _ => false

/-- The compares with `.unc` write their predicates under a false guard (R106). -/
def Instr.uncompare : Instr → Bool
  | .cmp _ f .. | .cmpu _ f .. | .cmpi _ f .. | .cmpui _ f .. | .fcmp _ f .. | .vcmp _ f .. => f == .unc
  | _ => false

end Sys2Proof
end

