-- ==== Sys2Proof/Certificates/Slice0/Obligations.lean ====
section
/-! DEFINITION. The statements about the machine. Each says which rule of spec/ it formalises. -/

open Sys2Proof Sys2Proof.Machine

/-! ### Encoding -/

/-- O1 (R57-R70, R84-R95): decoding the parcels of a well-formed instruction gives it back, every operand at every value. -/
def Obligations.DecodeEncode : Prop :=
  ∀ i : Instr, i.wf = true → i.hdr.isSome = true → decodeUnit (encode i) = .ok i

/-- O2 (R61, R70, R73): every accepted run of parcels begins with exactly the encoding of the instruction it stands for, and
that instruction is well-formed: no other words are accepted. -/
def Obligations.EncodeDecode : Prop :=
  ∀ (ps : List Nat) (i : Instr), (∀ p ∈ ps, p < 2 ^ 32) → decodeUnit ps = .ok i →
    i.wf = true ∧ i.hdr.isSome = true ∧ ∃ rest, ps = encode i ++ rest

/-- O3 (R59, R60, R65, R68, R84-R95): words written out from the encoding tables. -/
def Obligations.DecodeWords : Prop :=
  -- add s3, s1, s2: FN 0, MAJ 0x02, SR layout
  decodes [0b000000000_00010_00001_00011_00010_0_00] (.addSr .plain 3 1 2) ∧
  -- nop with T = 1 (R133: 0x0000_000C)
  decodes [0x0000000C] (.nop ⟨[], true, .none⟩) ∧
  -- pfx.arith sat; add s3, s1, s2 in the long form
  decodes [0b0000000000000000000000_001_0010_0_11, 0b00_0000010000_11111111_000_000_000_0_01,
      0b00000000000000000_00010_00001_00011]
    (.addLs ⟨[.arith true false false], false, .none⟩ 3 1 2) ∧
  -- (p1) cmp.lt p3, p4, s1, s2: scalar codes 0x321 and 0x322, COND 2
  decodes [0b00_0001000000_11110000_000_000_001_0_01, 0b01100100010_01100100001_0010_100_011]
    (.cmp ⟨[], false, ⟨1, 0, 0, 0xF0⟩⟩ .plain .lt 4 3 1 2) ∧
  -- vadd.i32 v1, v2, v3
  decodes [0b00_0100000000_11111111_000_000_000_0_01, 0b00000000011_00000000010_0000000001]
    (.vadd .plain .i32 0 (.v 1) (.row (.v 2)) (.row (.v 3))) ∧
  -- the worked pair word of R95: add s9, s9, 1 || vadd.f32 v4, v4, v5
  decodes [0xA48FF002, 0x14421414] (.pairVVaddF32 .plain (.addi 9 9 1) 4 (.v 4) (.v 5)) ∧
  -- ldl.i32 v1, h2, s3
  decodes [0b00_1100000011_11111111_000_000_000_0_01, 0b000000000000_00011_0010_00000000001]
    (.ldl .plain .w32 false (.v 1) 2 3) ∧
  -- bfree b5, 7
  decodes [0b00_1101000000_11111111_000_000_000_0_01, 0b000000000111_00000_0000_00100000101] (.bfree .plain 5 7) ∧
  -- lease.cyc 9
  decodes [0b01_1110000000_11111111_000_000_000_0_01, 0b0000000000000000001001_00000_00000] (.leaseCyc .plain 9) ∧
  -- reshard s4, h1
  decodes [0b00_1111110000_11111111_000_000_000_0_01, 0b000000000000_00000_0001_00000000100]
    (.reshard .plain 4 1)

/-- O4 (R70): a prefix sequence is examined parcel by parcel. After legal prefixes of different kinds: the end of the code
region raises ORPHAN at the last prefix; a repeated kind raises ORPHAN at the earlier of the two; an instruction with T = 1
raises ORPHAN at the last prefix; and otherwise the first prefix of a kind the instruction does not accept raises PFXKIND. The
unit then raises ILL with the parcels at its first parcel, ORPHAN at the prefix it names, or PFXKIND at the first prefix. -/
def Obligations.RejectedUnits : Prop :=
  (∀ pfx : List Pfx, pfx ≠ [] → pfx.all Pfx.wf = true → (pfx.map Pfx.kind).Nodup →
     decodeUnit (pfx.map Pfx.encode) = .error (.orphan (pfx.length - 1) (BitVec.ofNat 64 (2 ^ 63))) ∧
     (∀ (x y : Pfx) (k : Nat) (rest : List Nat), y.wf = true → pfx[k]? = some x → x.kind = y.kind →
       decodeUnit (pfx.map Pfx.encode ++ y.encode :: rest) =
         .error (.orphan k (BitVec.ofNat 64 (2 ^ 62 + y.encode)))) ∧
     (∀ (i : Instr) (u : Hdr), i.wf = true → i.hdr = some u → u.pfx = [] → u.t = true →
       decodeUnit (pfx.map Pfx.encode ++ encode i) =
         .error (.orphan (pfx.length - 1) (BitVec.ofNat 64 ((encode i).headD 0)))) ∧
     (∀ (i : Instr) (u : Hdr) (x : Pfx), i.wf = true → i.hdr = some u → u.pfx = [] → u.t = false →
       pfx.find? (fun p => !i.accepts.ok p) = some x →
       decodeUnit (pfx.map Pfx.encode ++ encode i) = .error (.pfxkind (BitVec.ofNat 64 x.kind)))) ∧
  (∀ (s : State) (v : Word) (k : Nat),
     traps (.illegalEncoding (.ill v)) s { cause := 0x01, tval := v } ∧
     traps (.illegalEncoding (.pfxkind v)) s { cause := 0x03, tval := v } ∧
     exec (.illegalEncoding (.orphan k v)) s = .next
       (trapped (s.setMe { s.me with pc := s.me.pc + BitVec.ofNat 64 (4 * k) }) { cause := 0x02, tval := v }))

/-! ### The step -/

/-- O5 (R57, R70, R73): a step with a strand's turn runs the instruction its parcels decode to, on the state in which that
strand is the running one; a rejected run of parcels is an ILLEGAL_ENCODING, and where that is for a prefix before an
instruction that itself raises ILL (an `eret` outside a handler, an illegal operand handle or row code), the ILL comes first
(R74, R81, R115); and an event runs as itself. Which agent has the turn is the model's own agenda (log entry 3). That the ILL of
an eret, a handle or a row code comes before a rejected prefix is its reading (log entry 23). -/
def Obligations.StepRuns : Prop :=
  (∀ (s s' : State) (n : Nat) (r : List Turn) (ps : List Nat), s.agenda = .strand n :: r → strandReady s n = true →
    (s.core (coreOf n)).stopReq = false → fetchUnit { s with agenda := r, cur := n } = (s', .ok ps) →
    (∀ i, decodeUnit ps = .ok i → step s = exec i s') ∧
    (∀ e, decodeUnit ps = .error e →
      (∀ i, decodeUnit (afterPrefixes ps) = .ok i → failsAtCore e = true → raisesIll i s'.me = false) →
      step s = exec (.illegalEncoding e) s') ∧
    (∀ e i, decodeUnit ps = .error e → failsAtCore e = true → decodeUnit (afterPrefixes ps) = .ok i → raisesIll i s'.me = true →
      step s = exec (.illegalEncoding (.ill (tvalOf (afterPrefixes ps)))) s')) ∧
  (∀ (s : State) (i : Instr) (r : List Turn), s.agenda = .event i :: r → Instr.isEvent i = true →
    step s = exec i { s with agenda := r })

/-- O6 (R57, R58, R73): when the parcels of a well-formed instruction lie at the running strand's pc, inside its code region
and on pages whose translations are present and that no migration holds (R328), its turn executes exactly that instruction.
Which strand has the turn is the model's own agenda (log entry 3). -/
def Obligations.StepFetches : Prop :=
  ∀ (s : State) (n : Nat) (r : List Turn) (i : Instr), s.agenda = .strand n :: r → strandReady s n = true →
    (s.core (coreOf n)).stopReq = false → i.wf = true → i.hdr.isSome = true →
    (∀ (j p : Nat), (encode i)[j]? = some p → inCode (s.strand n) ((s.strand n).pc.toNat + 4 * j) = true ∧
      migHolds s (BitVec.ofNat 56 ((s.strand n).pc.toNat + 4 * j)) = false ∧
      ∃ k, placed s .fixed (BitVec.ofNat 56 ((s.strand n).pc.toNat + 4 * j)) { rd := true } k ∧ s.num k 4 = p) →
    step s = exec i { s with agenda := r, cur := n }

/-- O7 every step keeps memory and the poison bits in their canonical form. -/
def Obligations.StepKeepsForm : Prop := ∀ s s' : State, s.Inv → step s = .next s' → s'.Inv

/-- O8 memory and the poison bits are in canonical form after reset. -/
def Obligations.ResetForm : Prop := State.reset.Inv

/-- O9 (R363): after power-on the machine is Dark and no strand runs. That every strand's registers then read what R101 gives
at the start of a stitch with no pricking (DEPTH 0 and RES 1, INH and STRICT 0, WLIM 65,536, PLIVE 0xFE, no handler) is the
model's choice: the manual gives them no value before a stitch starts (log entry 1). The values after power-on are the model's
choice where the manual gives none: those of stitch start, or 0 (log entry 1). -/
def Obligations.ResetDark : Prop :=
  State.reset.boot.state = .dark ∧ ∀ n : Nat, strandReady State.reset n = false ∧
    (let s := { State.reset with cur := n }
     sysRead s .wstat = 1 ∧ (sysRead s .status).getLsbD 1 = false ∧ (sysRead s .status).getLsbD 2 = false ∧
     sysRead s .wlim = 65536 ∧ sysRead s .plive = 0xFE ∧ sysRead s .thnd = 0 ∧ sysRead s .swb = 0)

/-! ### Guards -/

/-- O10 (R66, R67, R103, R104): an instruction whose guard is false, or enables no lane, does nothing but move on, once the
checks that ignore the guard are passed: a uniform instruction (first clause) and a per-lane one (second). -/
def Obligations.GuardOff : Prop :=
  (∀ (i : Instr) (s : State), i.hdr.isSome = true → i.laned = false → i.paired = false → i.uncompare = false →
     ownsAll s i.port → (i.privileged = true → s.me.mode = true) → (∀ u, i = .eret u → s.me.inh = true) →
     ¬ passes i s → completes i s s.me) ∧
  (∀ (i : Instr) (s : State), i.laned = true → i.uncompare = false → ownsAll s i.port → lanesOf i s = 0 → completes i s s.me)

/-! ### Traps -/

/-- O11 (R112, R114): a user-class trap of a strand that has a handler and is not in it records TCAUSE, TPC, TVAL and TLANES,
sets INH and continues at THND; every other strand, every core's rows, and memory stay. That the two low bits of THND are
dropped is the model's choice (log entry 45). -/
def Obligations.TrapToHandler : Prop :=
  ∀ (s : State) (n : Nat) (t : TrapInfo), systemClass t.cause = false → handles (s.strand n) →
    let s' := deliverTrap s n t
    s'.strand n = (s.strand n).entered t ∧ (∀ m, m ≠ n → s'.strand m = s.strand m) ∧
      s'.mem = s.mem ∧ s'.poison = s.poison ∧ s'.dies = s.dies ∧ s'.cycle = s.cycle ∧
      ∀ c, (s'.core c).vfile = (s.core c).vfile ∧ (s'.core c).band = (s.core c).band ∧ (s'.core c).full = (s.core c).full ∧
        (s'.core c).stitch = (s.core c).stitch

/-- O12 (R114, R300): with no handler, in a handler, or for a system-class cause, the stitch fails: no strand of the core runs
on, the trap registers hold this trap, the record becomes Failed with the cause in STATUS, and a system-class cause notifies the
die's firmware. For a launch that is under way and whose record asks for no forward. -/
def Obligations.TrapFailsStitch : Prop :=
  ∀ (s : State) (n : Nat) (t : TrapInfo) (st : Stitch), systemClass t.cause = true ∨ ¬ handles (s.strand n) →
    (s.core (coreOf n)).stitch = some st → (s.recx st.id.die st.id.record).launch = st.id.launch →
    s.recState st.id.die st.id.record = 4 → bit (s.recWord st.id.die st.id.record 0x20) 63 = false →
    let s' := deliverTrap s n t
    s'.recState st.id.die st.id.record = 6 ∧ bits (s'.recWord st.id.die st.id.record 0) 32 32 = t.cause.toNat ∧
      (∀ k, k < 3 → (s'.strand (3 * coreOf n + k)).phase ≠ .running) ∧
      (s'.strand n).tcause = BitVec.ofNat 16 (t.sub.toNat * 256 + t.cause.toNat) ∧ (s'.strand n).tpc = (s.strand n).pc ∧
      (s'.strand n).tval = t.tval ∧ (s'.strand n).tlanes = t.lanes ∧
      (systemClass t.cause = true →
        .system n (BitVec.ofNat 16 (t.sub.toNat * 256 + t.cause.toNat)) ∈ (s'.die (dieOfStrand n)).notices)

/-- O13 (R115, R127, R128): `eret` leaves the handler for TPC; a misaligned TPC raises ALIGN; outside a handler it raises ILL,
whatever its guard. `trap` raises SOFT with its immediate when its guard passes. -/
def Obligations.TrapAndReturn : Prop :=
  (∀ (u : Hdr) (s : State),
     (s.me.inh = true → passes (.eret u) s → s.me.tpc.toNat % 4 = 0 →
       transfers (.eret u) s { s.me with inh := false } s.me.tpc) ∧
     (s.me.inh = true → passes (.eret u) s → s.me.tpc.toNat % 4 ≠ 0 →
       traps (.eret u) s { cause := 0x05, tval := s.me.tpc }) ∧
     (s.me.inh = false → traps (.eret u) s { cause := 0x01, tval := parcelsWord (.eret u) })) ∧
  (∀ (u : Hdr) (code : BitVec 12) (s : State), passes (.trap u code) s →
     traps (.trap u code) s { cause := 0x15, tval := code.setWidth 64 })

/-- O14 (R67, R73, R74, R81, R112, R143, R145, R146, R167, R290): a privileged form in user mode raises PRIV with its parcels,
and an instruction whose port its strand does not own raises PORT with the port and its first parcel, whatever their guards; but
where it issues and its handle or row code raises ILL, as a handle of zeros does, it raises ILL with its parcels. That ILL
precedes PORT is the model's reading of the order of causes (log entry 23). -/
def Obligations.PrivilegeAndPorts : Prop :=
  (∀ (i : Instr) (s : State), i.privileged = true → s.me.mode = false → traps i s { cause := 0x07, tval := parcelsWord i }) ∧
  (∀ (i : Instr) (s : State) (p : Port), i.port = some p → ¬ owns s p →
     (issuesIll i s.me = false →
       traps i s { cause := 0x06, tval := BitVec.ofNat 64 (p.num + 2 ^ 32 * (encodeCore i).headD 0) }) ∧
     (issuesIll i s.me = true → traps i s { cause := 0x01, tval := parcelsWord i }) ∧
     (∀ (u : Hdr) (ew : EW) (hre : Bool) (pd : BitVec 3) (lim : BitVec 12) (d : Row) (h : BitVec 4) (a : BitVec 5), s.me.hget h = 0 →
       (i = .ldl u ew hre d h a → lanesOf i s ≠ 0 → issuesIll i s.me = true) ∧
       (i = .lds u pd d h lim → passes i s → issuesIll i s.me = true)))

/-! ### Scalar instructions -/

/-- O15 (R129, R130, R132): the register forms of the scalar integer operations, short and long. -/
def Obligations.ScalarRegister : Prop :=
  ∀ (u : Hdr) (d a b : BitVec 5) (s : State),
    let x := s.sget a
    let y := s.sget b
    let m := modsOf u.pfx
    writes (.addSr u d a b) s d (x + y) ∧
    writes (.subSr u d a b) s d (x - y) ∧
    writes (.mulSr u d a b) s d (x * y) ∧
    writes (.mulhSr u d a b) s d ((x.signExtend 128 * y.signExtend 128).extractLsb' 64 64) ∧
    writes (.mulhuSr u d a b) s d ((x.setWidth 128 * y.setWidth 128).extractLsb' 64 64) ∧
    writes (.divSr u d a b) s d (if y = 0 then 0 else x.sdiv y) ∧
    writes (.divuSr u d a b) s d (if y = 0 then 0 else x.udiv y) ∧
    writes (.remSr u d a b) s d (if y = 0 then x else x.srem y) ∧
    writes (.remuSr u d a b) s d (if y = 0 then x else x.umod y) ∧
    writes (.andSr u d a b) s d (x &&& y) ∧
    writes (.orSr u d a b) s d (x ||| y) ∧
    writes (.xorSr u d a b) s d (x ^^^ y) ∧
    writes (.shlSr u d a b) s d (x <<< (y.toNat % 64)) ∧
    writes (.shrSr u d a b) s d (x >>> (y.toNat % 64)) ∧
    writes (.sarSr u d a b) s d (x.sshiftRight (y.toNat % 64)) ∧
    writes (.minSr u d a b) s d (if x.slt y then x else y) ∧
    writes (.maxSr u d a b) s d (if x.slt y then y else x) ∧
    writes (.minuSr u d a b) s d (if x.ult y then x else y) ∧
    writes (.maxuSr u d a b) s d (if x.ult y then y else x) ∧
    writes (.addLs u d a b) s d (clamped m (x.toInt + y.toInt)) ∧
    writes (.subLs u d a b) s d (clamped m (x.toInt - y.toInt)) ∧
    writes (.mulLs u d a b) s d (clamped m (x.toInt * y.toInt)) ∧
    writes (.mulhLs u d a b) s d ((x.signExtend 128 * y.signExtend 128).extractLsb' 64 64) ∧
    writes (.mulhuLs u d a b) s d ((x.setWidth 128 * y.setWidth 128).extractLsb' 64 64) ∧
    writes (.divLs u d a b) s d (if y = 0 then 0 else x.sdiv y) ∧
    writes (.divuLs u d a b) s d (if y = 0 then 0 else x.udiv y) ∧
    writes (.remLs u d a b) s d (if y = 0 then x else x.srem y) ∧
    writes (.remuLs u d a b) s d (if y = 0 then x else x.umod y) ∧
    writes (.andLs u d a b) s d (x &&& y) ∧
    writes (.orLs u d a b) s d (x ||| y) ∧
    writes (.xorLs u d a b) s d (x ^^^ y) ∧
    writes (.shlLs u d a b) s d (clamped m (x.toInt * 2 ^ (y.toNat % 64))) ∧
    writes (.shrLs u d a b) s d (x >>> (y.toNat % 64)) ∧
    writes (.sarLs u d a b) s d (x.sshiftRight (y.toNat % 64)) ∧
    writes (.minLs u d a b) s d (if x.slt y then x else y) ∧
    writes (.maxLs u d a b) s d (if x.slt y then y else x) ∧
    writes (.minuLs u d a b) s d (if x.ult y then x else y) ∧
    writes (.maxuLs u d a b) s d (if x.ult y then y else x)

/-- O16 (R69, R129, R131, R132, R133): the immediate forms, short and long, and `movi`. -/
def Obligations.ScalarImmediate : Prop :=
  ∀ (u : Hdr) (d a : BitVec 5) (i : BitVec 14) (j : BitVec 22) (n : BitVec 6) (s : State),
    let x := s.sget a
    let m := modsOf u.pfx
    let p : Word := immOf m i
    let q : Word := immOf m j
    writes (.addSi u d a i) s d (x + p) ∧
    writes (.subSi u d a i) s d (x - p) ∧
    writes (.andSi u d a i) s d (x &&& p) ∧
    writes (.orSi u d a i) s d (x ||| p) ∧
    writes (.xorSi u d a i) s d (x ^^^ p) ∧
    writes (.shlSi u d a n) s d (x <<< n.toNat) ∧
    writes (.shrSi u d a n) s d (x >>> n.toNat) ∧
    writes (.sarSi u d a n) s d (x.sshiftRight n.toNat) ∧
    writes (.moviSi u d i) s d p ∧
    writes (.addLi u d a j) s d (clamped m (x.toInt + q.toInt)) ∧
    writes (.subLi u d a j) s d (clamped m (x.toInt - q.toInt)) ∧
    writes (.mulLi u d a j) s d (clamped m (x.toInt * q.toInt)) ∧
    writes (.andLi u d a j) s d (x &&& q) ∧
    writes (.orLi u d a j) s d (x ||| q) ∧
    writes (.xorLi u d a j) s d (x ^^^ q) ∧
    writes (.shlLi u d a n) s d (clamped m (x.toInt * 2 ^ n.toNat)) ∧
    writes (.shrLi u d a n) s d (x >>> n.toNat) ∧
    writes (.sarLi u d a n) s d (x.sshiftRight n.toNat) ∧
    writes (.minLi u d a j) s d (if x.slt q then x else q) ∧
    writes (.maxLi u d a j) s d (if x.slt q then q else x) ∧
    writes (.minuLi u d a j) s d (if x.ult q then x else q) ∧
    writes (.maxuLi u d a j) s d (if x.ult q then q else x) ∧
    writes (.moviLi u d j) s d q

/-- O17 (R63, R105, R106, R138): the scalar compares. The condition is over the signed or unsigned values; `plain` and `.unc`
set PD to it and PE to its negation, PE last; `.and` acts on a false condition, `.or` on a true one; and under a false guard
`.unc` clears both while the other forms do nothing. -/
def Obligations.ScalarCompare : Prop :=
  ∀ (u : Hdr) (f : CForm) (c : Cond) (pe pd : BitVec 3) (a b : BitVec 5) (n : BitVec 9) (v : SImm) (s : State),
    let all (t : Bool) : Pred := ⟨if t then BitVec.allOnes 64 else 0, t⟩
    let tells (i : Instr) (t : Bool) : Prop :=
      (passes i s → completes i s (match f with
        | .plain | .unc => (s.me.pset pd (all t)).pset pe (all !t)
        | .and => if t then s.me else (s.me.pset pd (all false)).pset pe (all true)
        | .or => if t then (s.me.pset pd (all true)).pset pe (all false) else s.me)) ∧
      (¬ passes i s → completes i s (if f = .unc then (s.me.pset pd (all false)).pset pe (all false) else s.me))
    let x := s.sget a
    let y := s.sget b
    let q : Word := immOf (modsOf u.pfx) n
    let m := modsOf u.pfx
    tells (.cmp u f c pe pd a b) (condOrder c x.toInt y.toInt) ∧
    tells (.cmpu u f c pe pd a b) (condOrder c x.toNat y.toNat) ∧
    tells (.cmpi u f c pe pd a n) (condOrder c x.toInt q.toInt) ∧
    tells (.cmpui u f c pe pd a n) (condOrder c x.toNat q.toNat) ∧
    tells (.fcmp u f c pe pd a v) (condFloat c (scalarF32 m x) (scalarF32 m (match v with
      | .scal r => s.sget r
      | .imm k => BitVec.ofNat 64 (immCode .fp32 (immOf m k : Word).toInt))))

/-- O18 (R28, R29, R30, R134-R137): the rounded scalar float operations write the rounding of the exact result and set the
flags of lane 0 for its conditions; an invalid operation sets the invalid flag alone. `fmin`, `fmax`, `fabs` and `fneg` set no
flag: a NaN operand gives the other one, or the canonical NaN where it is the only one or both are; a subnormal is read as zero
of its sign under `.ftz`. -/
def Obligations.ScalarFloats : Prop :=
  (∀ (u : Hdr) (d a b c : BitVec 5) (s : State),
     let m := modsOf u.pfx
     let ctx := scalarRounding s.me m d
     let gets (i : Instr) (v : FVal × Flags) : Prop :=
       let r := roundFloat .fp32 ctx v.1
       passes i s → completes i s (s.me.received m d r.code (if v.2.nv then nvFlag else r.fl.join v.2))
     let x := scalarF32 m (s.sget a)
     let y := scalarF32 m (s.sget b)
     let z := scalarF32 m (s.sget c)
     let invalid (v : FVal × Bool) : FVal × Flags := (v.1, if v.2 then nvFlag else {})
     gets (.fadd u d a b) (invalid (sumVal m.mode [x, y])) ∧
     gets (.fsub u d a b) (invalid (sumVal m.mode [x, y.neg])) ∧
     gets (.fmul u d a b) (invalid (mulVal x y)) ∧
     gets (.fdiv u d a b) (divVal x y) ∧
     gets (.fsqrt u d a) (sqrtVal x) ∧
     gets (.ffma u d a b c)
       (invalid ((sumVal m.mode [(mulVal x y).1, z]).1, (mulVal x y).2 || (sumVal m.mode [(mulVal x y).1, z]).2)) ∧
     (let r := roundToInt .int64 ctx x
      passes (.fcvti u d a) s → completes (.fcvti u d a) s (s.me.received m d r.code r.fl)) ∧
     gets (.fcvtf u d a) (FVal.fin (decide ((s.sget a).toInt < 0)) (s.sget a).toInt.natAbs 0, {})) ∧
  (∀ (u : Hdr) (d a b : BitVec 5) (s : State),
     let m := modsOf u.pfx
     let low (r : BitVec 5) : Nat := flushCode .fp32 m.ftz ((s.sget r).toNat % 2 ^ 32)
     let x := low a
     let y := low b
     let less (p q : Nat) : Bool := (f32Val p).below (f32Val q) || ((f32Val p).isZero && (f32Val q).isZero && bit p 31 && !bit q 31)
     let pick (l : Bool) : Nat :=
       if (f32Val x).isNaN && (f32Val y).isNaN then 0x7FC00000
       else if (f32Val x).isNaN then y
       else if (f32Val y).isNaN then x
       else if l then (if less y x then y else x) else (if less x y then y else x)
     writes (.fmin u d a b) s d (BitVec.ofNat 64 (pick true)) ∧
     writes (.fmax u d a b) s d (BitVec.ofNat 64 (pick false)) ∧
     writes (.fabs u d a) s d (BitVec.ofNat 64 (if (f32Val x).isNaN then 0x7FC00000 else x % 2 ^ 31)) ∧
     writes (.fneg u d a) s d (BitVec.ofNat 64 (if (f32Val x).isNaN then 0x7FC00000 else x ^^^ 2 ^ 31)))

/-- O19 (R13, R39, R135, R380): a sum of finite values is exact before it is rounded and never invalid; a NaN term makes it
NaN, infinities of both signs NaN and invalid, and any other infinity that infinity. An exact zero sum is minus zero when every
term is and, in every other case, under RDN. A product is exact, 0 × ∞ NaN and invalid. Quotients and roots. What is rounded is
a value that no number of 60 significant bits tells from the exact quotient or root: each such number lies below it, on it or
above it as it does of the exact one. Special operands give what R135 and R154 say. Rounding to a float format a value no larger
than its largest finite one. The result is a finite value of the format; under RDN it is the greatest that is not above, under
RUP the least that is not below, under RTZ the nearest that is no larger in magnitude, under RNE and RNA a nearest one, on a tie
the one with an even code and the one of larger magnitude, under RSR one of the two around it as the draw says, and of the
value's sign; and it is inexact exactly when it differs. Beyond the largest finite value, one that rounds to it with exponents
unbounded gives it, inexact; any other overflows, overflow and inexact: under saturation and in a format without infinity the
largest finite value of its sign, else that or infinity as the mode says. Underflow is set when an inexact result so rounded
stays below the least normal value. FTZ makes a subnormal result zero of its sign, underflowed and inexact. A NaN and an
infinity give their like, or the largest value, invalid and poisoned. Rounding to an integer format. The integers are the
candidates; one out of the format's range, or an infinity, gives the nearest bound and a NaN 0, all invalid, and the NaN and
infinity poisoned; else it is inexact exactly when it differs. That terms which are all +0 give -0 under RDN (log entry 26), and
that of what is rounded to an integer a NaN and an infinity alone poison (log entry 61), is the model's reading. -/
def Obligations.FloatRounding : Prop :=
  (∀ (mode : RMode) (ts : List FVal) (a b : FVal),
     let clash : Prop := FVal.inf true ∈ ts ∧ FVal.inf false ∈ ts
     let nan : Prop := ∃ t ∈ ts, t.isNaN = true
     let sums (v : FVal × Bool) (zero : Bool) : Prop :=
       (v.2 = true ↔ clash) ∧ (clash ∨ nan → v.1.isNaN = true) ∧ (¬ clash → ¬ nan → ∀ n, FVal.inf n ∈ ts → v.1 = .inf n) ∧
         ((∀ t ∈ ts, t.finite = true) →
           v.1.finite = true ∧ v.1.rat = (ts.map FVal.rat).sum ∧ (v.1.rat = 0 → v.1.sign = zero))
     let p := mulVal a b
     sums (sumVal mode ts) (ts.all (fun t => t.isZero && t.sign) || mode == .rdn) ∧
       (a.isNaN = true ∨ b.isNaN = true → p.1.isNaN = true ∧ p.2 = false) ∧
       ((a.isInf = true ∧ b.isZero = true) ∨ (a.isZero = true ∧ b.isInf = true) → p.1.isNaN = true ∧ p.2 = true) ∧
       (a.isNaN = false → b.isNaN = false → a.isZero = false → b.isZero = false → a.isInf = true ∨ b.isInf = true →
         p = (.inf (a.sign != b.sign), false)) ∧
       (a.finite = true → b.finite = true →
         p.1.finite = true ∧ p.1.rat = a.rat * b.rat ∧ p.2 = false ∧ p.1.sign = (a.sign != b.sign))) ∧
  (∀ (a b : FVal),
     let is (v : FVal × Flags) (neg : Bool) (less same : Rat → Prop) : Prop :=
       v.2 = {} ∧ v.1.finite = true ∧ v.1.sign = neg ∧ ∀ (n : Nat) (k : Int), n < 2 ^ 60 →
         let x : Rat := (n : Rat) * (2 : Rat) ^ k
         (x < gap 0 v.1.rat ↔ less x) ∧ (x = gap 0 v.1.rat ↔ same x)
     let nan (v : FVal × Flags) (f : Flags) : Prop := v.1.isNaN = true ∧ v.2 = f
     let zero (v : FVal × Flags) (neg : Bool) : Prop := v.1.isZero = true ∧ v.1.sign = neg ∧ v.2 = {}
     let neg := a.sign != b.sign
     let q := divVal a b
     let r := sqrtVal a
     let i := rsqrtVal a
     (a.isNaN = true ∨ b.isNaN = true → nan q {}) ∧
     (a.isInf = true → b.isInf = true → nan q nvFlag) ∧
     (a.isInf = true → b.finite = true → q = (.inf neg, {})) ∧
     (a.finite = true → b.isInf = true → zero q neg) ∧
     (a.isZero = true → b.isZero = true → nan q nvFlag) ∧
     (a.isZero = true → b.finite = true → b.isZero = false → zero q neg) ∧
     (a.finite = true → a.isZero = false → b.isZero = true → q = (.inf neg, { dz := true })) ∧
     (a.finite = true → a.isZero = false → b.finite = true → b.isZero = false →
       is q neg (fun x => x * gap 0 b.rat < gap 0 a.rat) (fun x => x * gap 0 b.rat = gap 0 a.rat)) ∧
     (a.isNaN = true → nan r {} ∧ nan i {}) ∧
     (a = .inf false → r = (.inf false, {}) ∧ zero i false) ∧
     (a.isZero = true → zero r a.sign ∧ i = (.inf a.sign, { dz := true })) ∧
     (a.isNaN = false → a.isZero = false → a.sign = true → nan r nvFlag ∧ nan i nvFlag) ∧
     (a.finite = true → a.isZero = false → a.sign = false →
       is r false (fun x => x * x < a.rat) (fun x => x * x = a.rat) ∧
       is i false (fun x => x * x * a.rat < 1) (fun x => x * x * a.rat = 1))) ∧
  (∀ (f : Fmt) (c : RCtx) (v : FVal), isFloatFmt f = true → c.ftz = false → v.finite = true →
     gap 0 v.rat ≤ (decodeFmt f (maxCode f)).1.rat →
     let r := roundFloat f c v
     let w := (decodeFmt f r.code).1
     let among (x : Rat) : Prop := ∃ n, (decodeFmt f n).1.finite = true ∧ (decodeFmt f n).1.rat = x
     w.finite = true ∧ w.sign = v.sign ∧ (r.fl.nx = true ↔ w.rat ≠ v.rat) ∧
       (c.mode = .rdn → w.rat ≤ v.rat ∧ ∀ x, among x → x ≤ v.rat → x ≤ w.rat) ∧
       (c.mode = .rup → v.rat ≤ w.rat ∧ ∀ x, among x → v.rat ≤ x → w.rat ≤ x) ∧
       (c.mode = .rtz → gap 0 w.rat ≤ gap 0 v.rat ∧ ∀ x, among x → gap 0 x ≤ gap 0 v.rat → gap w.rat v.rat ≤ gap x v.rat) ∧
       (c.mode = .rne ∨ c.mode = .rna → ∀ x, among x → gap w.rat v.rat ≤ gap x v.rat ∧
         (x ≠ w.rat → gap x v.rat = gap w.rat v.rat → if c.mode = .rne then r.code % 2 = 0 else gap 0 x ≤ gap 0 w.rat)) ∧
       (c.mode = .rsr → (among v.rat → w.rat = v.rat) ∧ ∀ lo hi, among lo → among hi → 0 ≤ lo → lo < gap 0 v.rat → gap 0 v.rat < hi →
         (∀ x, among x → x ≤ lo ∨ hi ≤ x) →
         w.rat = (if v.rat < 0 then -1 else 1) *
           (if (c.draw : Int) < ((gap 0 v.rat - lo) / (hi - lo) * 65536).floor then hi else lo))) ∧
  (∀ (f : Fmt) (c : RCtx) (v : FVal), isFloatFmt f = true →
     let r := roundFloat f c v
     let wide : Bool := f == .fp32 || f == .fp16 || f == .bf16
     let special : Bool := wide || f == .e5m2
     let largest : Nat := maxCode f + (if v.sign then 2 ^ (codeBits f - 1) else 0)
     let mag := gap 0 v.rat
     let top := (decodeFmt f (maxCode f)).1.rat
     let next := 2 * top - (decodeFmt f (maxCode f - 1)).1.rat
     let half := (top + next) / 2
     let tooBig : Prop := top < mag ∧ (match c.mode with
       | .rtz => next ≤ mag
       | .rdn => v.sign = true ∨ next ≤ mag
       | .rup => v.sign = false ∨ next ≤ mag
       | .rna => half ≤ mag
       | .rne | .rsr => half < mag ∨ (half = mag ∧ maxCode f % 2 = 1))
     let infinite : Bool := match c.mode with
       | .rne | .rna | .rsr => true
       | .rtz => false
       | .rdn => v.sign
       | .rup => !v.sign
     let least : Int := match f with
       | .fp32 | .bf16 => -126
       | .fp16 | .e5m2 => -14
       | .e4m3 => -6
       | .e3m2 => -2
       | _ => 0
     let normal : Rat := (2 : Rat) ^ least
     let unit := (decodeFmt f 1).1.rat
     let below := normal - unit / 2
     let reaches : Prop := match c.mode with
       | .rtz => False
       | .rdn => v.sign = true ∧ below < mag
       | .rup => v.sign = false ∧ below < mag
       | .rsr => below < mag ∧ (c.draw : Int) < ((mag - below) / (unit / 2) * 65536).floor
       | .rne | .rna => normal - unit / 4 ≤ mag
     (∀ x ∈ [FVal.inf true, .inf false], special = true → ((decodeFmt f (roundFloat f c x).code).1 = x ∧
       (roundFloat f c x).fl = {} ∧ (roundFloat f c x).poison = false)) ∧
     (v.isNaN = true → special = true → r = ⟨match f with
       | .fp32 => 0x7FC00000
       | .fp16 => 0x7E00
       | .bf16 => 0x7FC0
       | _ => 0x7E, {}, false⟩) ∧
     (v.finite = false → special = false → r = ⟨largest, nvFlag, true⟩) ∧
     (v.finite = true → r.poison = false ∧ r.fl.nv = false ∧ r.fl.dz = false ∧ (r.fl.ov = true ↔ tooBig) ∧
       (tooBig → r.fl = { ov := true, nx := true } ∧ (if special && infinite && !c.sat
         then (decodeFmt f r.code).1 = .inf v.sign else r.code = largest)) ∧
       (top < mag → ¬ tooBig → r = ⟨largest, { nx := true }, false⟩)) ∧
     (v.finite = true → c.ftz = false →
       (r.fl.uf = true ↔ r.fl.nx = true ∧ mag < normal ∧ ¬ reaches)) ∧
     (v.finite = true → c.ftz = true →
       let q := roundFloat f { c with ftz := false } v
       let x := gap 0 (decodeFmt f q.code).1.rat
       r = if wide = true ∧ q.fl.ov = false ∧ 0 < x ∧ x < normal
         then ⟨if v.sign then 2 ^ (codeBits f - 1) else 0, { uf := true, nx := true }, false⟩ else q)) ∧
  (∀ (f : Fmt) (c : RCtx) (v : FVal), isIntFmt f = true →
     let lo := (intRange f).1
     let hi := (intRange f).2
     let x := v.rat
     let whole : Int := (gap 0 x).floor
     let invalid (n : Int) (p : Bool) : Rounded := ⟨wrapInt f.width n, nvFlag, p⟩
     (v.isNaN = true → roundToInt f c v = invalid 0 true) ∧
     (v.isInf = true → roundToInt f c v = invalid (if v.sign then lo else hi) true) ∧
     (v.finite = true → ∃ n : Int,
       roundToInt f c v = (if n < lo then invalid lo false else if hi < n then invalid hi false
         else ⟨wrapInt f.width n, { nx := decide ((n : Rat) ≠ x) }, false⟩) ∧
       gap n x < 1 ∧
       (c.mode = .rdn → (n : Rat) ≤ x) ∧ (c.mode = .rup → x ≤ n) ∧ (c.mode = .rtz → gap 0 n ≤ gap 0 x) ∧
       (c.mode = .rne ∨ c.mode = .rna → gap n x ≤ 1 / 2 ∧
         (gap n x = 1 / 2 → if c.mode = .rne then n % 2 = 0 else gap 0 x < gap 0 n)) ∧
       (c.mode = .rsr → n = (if x < 0 then -1 else 1) *
         (if (c.draw : Int) < ((gap 0 x - whole) * 65536).floor then whole + 1 else whole))))

/-! ### Predicates and special registers -/

/-- O20 (R98, R105, R139, R140, R141): the predicate instructions. `pcomb` applies its table to every lane and, apart, to the U
bits; a write to p0 is discarded. -/
def Obligations.Predicates : Prop :=
  ∀ (u : Hdr) (d a b c : BitVec 3) (r : BitVec 5) (tt mask : BitVec 8) (s : State),
    let look (x y z : Bool) : Bool := tt.getLsbD ((if x then 4 else 0) + (if y then 2 else 0) + (if z then 1 else 0))
    let p := s.me.pget a
    let q := s.me.pget b
    let k := s.me.pget c
    (passes (.pcomb u d a b c tt) s → ∃ v : Pred,
      (∀ l, l < 64 → v.lanes.getLsbD l = look (p.lanes.getLsbD l) (q.lanes.getLsbD l) (k.lanes.getLsbD l)) ∧
      v.u = look p.u q.u k.u ∧ completes (.pcomb u d a b c tt) s (s.me.pset d v)) ∧
    writes (.pcount u r a) s r (BitVec.ofNat 64 ((List.range 64).countP (fun l => p.lanes.getLsbD l))) ∧
    (∃ n, n ≤ 64 ∧ (∀ l, l < n → p.lanes.getLsbD l = false) ∧ (n < 64 → p.lanes.getLsbD n = true) ∧
      writes (.pfirst u r a) s r (BitVec.ofNat 64 n)) ∧
    writes (.pget u r a) s r p.lanes ∧
    (passes (.pset u d r) s → completes (.pset u d r) s (s.me.pset d ⟨s.sget r, s.sget r != 0⟩)) ∧
    (passes (.plive u mask) s → completes (.plive u mask) s { s.me with plive := mask &&& 0xFE }) ∧
    s.me.pget 0 = ⟨BitVec.allOnes 64, true⟩ ∧ s.me.pset 0 p = s.me

/-- O21 (R142, R374): `feat` reads the feature words of this generation; every other word number reads 0. -/
def Obligations.FeatureWords : Prop :=
  ∀ (u : Hdr) (d : BitVec 5) (n : BitVec 22) (s : State),
    let k : Word := immOf (modsOf u.pfx) n
    writes (.feat u d n) s d
      (if k = 0 then 0x0000001800010001 else if k = 1 then 0x7FF else if k = 2 then 0x7FF else if k = 3 then 0x0000030810800200
        else if k = 4 then 0x4000200000300030 else if k = 5 then 0x3FF3E else 0)

/-- O22 (R101, R143, R178): `sysr` writes the register's value, except that a pure task's read of a register that depends on
timing raises PURITY. The fields of STATUS, WSTAT and SPILLH, the trap registers, the handler address and the rounding key read
as the strand holds them, and reserved bits read 0. That PART and PORTMAP are no timing registers is the model's reading (log
entry 27). -/
def Obligations.SysrReads : Prop :=
  ∀ (u : Hdr) (d : BitVec 5) (r : SysReg) (s : State),
    (s.me.pure = false ∨ timingReg r = false → writes (.sysr u d r) s d (sysRead s r)) ∧
    (s.me.pure = true → timingReg r = true → passes (.sysr u d r) s →
      traps (.sysr u d r) s { cause := 0x0D, sub := 4, tval := 4 }) ∧
    (∀ i, (sysRead s .status).getLsbD i = match i with
      | 0 => s.me.mode
      | 1 => s.me.inh
      | 2 => s.me.strict
      | 3 => bit (s.die s.myDie).dmode.toNat 63
      | 4 => decide (numOf s.cur % 2 = 1)
      | 5 => decide (numOf s.cur = 2)
      | 6 => s.me.pure
      | _ => false) ∧
    sysRead s .spillh = s.me.spillSize ++ s.me.spillBase ∧
    (s.me.spilld < 2 ^ 32 → s.me.depth < 2 ^ 16 → s.me.res < 2 ^ 16 →
      sysRead s .wstat = (BitVec.ofNat 32 s.me.spilld ++ BitVec.ofNat 16 s.me.depth ++ BitVec.ofNat 16 s.me.res : BitVec 64)) ∧
    sysRead s .thnd = s.me.thnd.setWidth 64 ∧ sysRead s .tcause = s.me.tcause.setWidth 64 ∧ sysRead s .tpc = s.me.tpc ∧
    sysRead s .tval = s.me.tval ∧ sysRead s .tlanes = s.me.tlanes ∧ sysRead s .srkey = s.me.srkey ∧
    sysRead s .flnv = s.me.flnv ∧ sysRead s .fldz = s.me.fldz ∧ sysRead s .flof = s.me.flof ∧
    sysRead s .fluf = s.me.fluf ∧ sysRead s .flnx = s.me.flnx ∧ sysRead s .cycle = s.cycle ∧
    (∀ n i, i < 64 → (sysRead s (.bfull n)).getLsbD i = s.kore.isFull (64 * n.toNat + i))

/-- O23 (R101, R143, R144, R178): what `sysw` does to the register it names: RW fields take the value, read-only and reserved
bits ignore it, WLIM stores at most 65,536, PART and PORTMAP wait for the next stitch start, a TOKQ write clears the overflow
bits it names, and VWB moves the window to the row within the partition. That SPILLH reads back as written, low bits included,
that SWB drops bits [3:0], and what VWB makes of a row is the model's choice (log entry 28). -/
def Obligations.SyswWrites : Prop :=
  ∀ (u : Hdr) (r : SysReg) (a : BitVec 5) (s : State), passes (.sysw u r a) s →
    ((Instr.sysw u r a).privileged = true → s.me.mode = true) → ¬ (s.me.pure = true ∧ r = .srkey) →
    let w := s.sget a
    ∃ t, yields (.sysw u r a) s t ∧ t.mem = s.mem ∧ t.me.sregs = s.me.sregs ∧ t.me.preds = s.me.preds ∧
      t.kore.vfile = s.kore.vfile ∧ t.kore.band = s.kore.band ∧
      (match r with
      | .status => t = s.setMe { s.me with strict := w.getLsbD 2 }
      | .plive => sysRead t .plive = w &&& 0xFE
      | .swb => sysRead t .swb = w &&& 0x70
      | .wlim => t = s.setMe { s.me with wlim := min w.toNat 65536 }
      | .spillh => sysRead t .spillh = w
      | .thnd => sysRead t .thnd = w &&& 0x00FFFFFFFFFFFFFF
      | .tpc => t = s.setMe { s.me with tpc := w }
      | .srkey => t = s.setMe { s.me with srkey := w }
      | .flnv => t = s.setMe { s.me with flnv := w }
      | .fldz => t = s.setMe { s.me with fldz := w }
      | .flof => t = s.setMe { s.me with flof := w }
      | .fluf => t = s.setMe { s.me with fluf := w }
      | .flnx => t = s.setMe { s.me with flnx := w }
      | .bankloss n => sysRead t (.bankloss n) = w &&& 0xFFFFFFFF
      | .part => t = s.setKore { s.kore with partNext := some (w.setWidth 24) }
      | .portmap => t = s.setKore { s.kore with portNext := some (w.setWidth 8) }
      | .vwb => s.pb ≤ w.toNat % 2048 → w.toNat % 2048 < s.pb + s.ps → s.pb + s.ps ≤ 2048 → t.vkey 0 = w.toNat % 2048
      | .tokq => tableWf {} s.kore.tok = true →
          ∀ q, q < 8 → t.kore.tq q = if w.getLsbD (8 * q + 6) then { s.kore.tq q with ovf := false } else s.kore.tq q
      | _ => t = s)

/-- O24 (R55, R296, R297): `nop` does nothing. A fence waits for the issuing strand's earlier accesses, which one core that
performs each before the next unit has completed, so it only moves on. That a fence only moves on is the model's choice for
strands whose accesses complete in order (log entry 5). -/
def Obligations.NopAndFences : Prop :=
  ∀ (u : Hdr) (sc : Scope) (s : State),
    (passes (.nop u) s → completes (.nop u) s s.me) ∧
    (owns s .w → completes (.fenceFull u sc) s s.me ∧ completes (.fenceAcq u sc) s s.me ∧
      completes (.fenceRel u sc) s s.me ∧ completes (.afence u sc) s s.me)

/-! ### Control transfer -/

/-- O25 (R64, R72, R122, R123, R125, R192): taken transfers. `br` and `jr` go to their target; `loop` counts its register down
and goes while it is not zero; the band tests branch on the full and poison bits. A taken transfer to an address whose low bits
are not 00 raises ALIGN, and one to a parcel of the code region that is a prefix or has T = 0 raises LANDING; TVAL is the target
and the transfer has no effect. These come before PURITY (R74). -/
def Obligations.Transfers : Prop :=
  (∀ (u : Hdr) (a : BitVec 5) (b : BitVec 9) (r : Row) (d24 : BitVec 24) (d32 : BitVec 32) (d22 : BitVec 22) (s : State),
     let target (x : Int) : Word := s.me.pc + BitVec.ofInt 64 (4 * x)
     let n := s.sget a - 1
     (passes (.brSj u d24) s → lands s (target d24.toInt) → transfers (.brSj u d24) s s.me (target d24.toInt)) ∧
     (passes (.brLb u d32) s → lands s (target d32.toInt) → transfers (.brLb u d32) s s.me (target d32.toInt)) ∧
     (passes (.jr u a) s → lands s (s.sget a) → transfers (.jr u a) s s.me (s.sget a)) ∧
     (passes (.loop u a d22) s → n = 0 → completes (.loop u a d22) s (s.me.sset a 0)) ∧
     (passes (.loop u a d22) s → n ≠ 0 → lands s (target d22.toInt) → transfers (.loop u a d22) s (s.me.sset a n) (target d22.toInt)) ∧
     (s.me.pure = false → passes (.bstFull u b d22) s → s.kore.isFull b.toNat = false → completes (.bstFull u b d22) s s.me) ∧
     (s.me.pure = false → passes (.bstFull u b d22) s → s.kore.isFull b.toNat = true → lands s (target d22.toInt) →
       transfers (.bstFull u b d22) s s.me (target d22.toInt)) ∧
     (s.me.pure = false → passes (.bstEmpty u b d22) s → s.kore.isFull b.toNat = true → completes (.bstEmpty u b d22) s s.me) ∧
     (s.me.pure = false → passes (.bstEmpty u b d22) s → s.kore.isFull b.toNat = false → lands s (target d22.toInt) →
       transfers (.bstEmpty u b d22) s s.me (target d22.toInt)) ∧
     (passes (.bstPoison u r d22) s → (s.rowGet r).poison = false → completes (.bstPoison u r d22) s s.me) ∧
     (passes (.bstPoison u r d22) s → (s.rowGet r).poison = true → lands s (target d22.toInt) →
       transfers (.bstPoison u r d22) s s.me (target d22.toInt))) ∧
  (∀ (i : Instr) (s : State) (t : Word), passes i s →
     (match i with
     | .brSj _ d => t = s.me.pc + BitVec.ofInt 64 (4 * d.toInt)
     | .brLb _ d => t = s.me.pc + BitVec.ofInt 64 (4 * d.toInt)
     | .jr _ a => t = s.sget a
     | .loop _ a d => t = s.me.pc + BitVec.ofInt 64 (4 * d.toInt) ∧ s.sget a ≠ 1
     | .call _ d _ => t = s.me.pc + BitVec.ofInt 64 (4 * d.toInt)
     | .callr _ a _ => t = s.sget a
     | .bstPoison _ r d => t = s.me.pc + BitVec.ofInt 64 (4 * d.toInt) ∧ (s.rowGet r).poison = true
     | .bstFull _ b d => t = s.me.pc + BitVec.ofInt 64 (4 * d.toInt) ∧ s.kore.isFull b.toNat = true
     | .bstEmpty _ b d => t = s.me.pc + BitVec.ofInt 64 (4 * d.toInt) ∧ s.kore.isFull b.toNat = false
     | _ => False) →
     (t.toNat % 4 ≠ 0 → traps i s { cause := 0x05, tval := t }) ∧ (stumbles s t → traps i s { cause := 0x04, tval := t }))

/-- O26 (R108, R110): a call whose frame fits. The window moves up by F rows and one scalar window, s16 holds the link word,
s17-s31 are 0, DEPTH and RES rise by one, control goes to the target, and nothing else changes. With frames to spill, the same
happens after the oldest have gone to the spill stack: SPILLD, RES and the oldest resident row move past them, and no byte
outside the stack's pages changes. (R109, R110): `ret` reads the link word, drops its frame, moves the window down by the
frame's rows and one scalar window and goes where the link says. When the caller's frame has been spilled it is refilled first:
its rows and its scalar window hold what the top record of the spill stack holds. That the poison of a spilled row is that of
its first block (log entry 48), and that a pure task spills and refills without PURITY (log entry 76), is the model's reading. -/
def Obligations.CallsAndReturns : Prop :=
  (∀ (i : Instr) (s : State) (target : Word) (frm : Nat), passes i s →
     (match i with
     | .call _ d f => target = s.me.pc + BitVec.ofInt 64 (4 * d.toInt) ∧ frm = f.toNat
     | .callr _ a f => target = s.sget a ∧ frm = f.toNat
     | _ => False) →
     lands s target → s.me.depth < 65535 → 16 * frm + 256 ≤ s.ps →
     let link : Word := (BitVec.ofNat 64 frm <<< 58) ||| past i s
     let fs := spillList s.me s.ps (s.me.voff + 16 * frm + 256) (s.me.res - 1) 0 s.me.rb
     let bytes := (fs.map (fun f => f * 256 + 128)).sum
     let va := s.me.spillBase + BitVec.ofNat 56 s.me.spilld
     s.me.spilld + bytes ≤ s.me.spillSize.toNat * 65536 →
     (s.me.voff + 16 * frm + 256 - s.me.rb ≤ s.ps → s.me.res + 1 ≤ 8 → transfers i s (s.me.called frm link) target) ∧
     (chunksOpen s { wr := true } va (bytes / 128) →
       ∃ t, spillFrames s fs = .ok t ∧ exec i s = .next (after t (t.me.called frm link) target) ∧
         t.me = { s.me with spilld := s.me.spilld + bytes, rb := s.me.rb + (fs.sum : Nat), res := s.me.res - fs.length } ∧
         t.cores = s.cores ∧ t.clusters = s.clusters ∧ t.dies = s.dies ∧ t.cycle = s.cycle ∧
         (∀ n, n ≠ s.cur → t.strand n = s.strand n) ∧
         (∀ b, (∀ j k, j < bytes / 128 → placed s .loose (va + BitVec.ofNat 56 (128 * j)) { wr := true } k → b < k ∨ k + 128 ≤ b) →
           t.byte b = s.byte b)) ∧
     (∀ t, spillFrames s fs = .ok t → t.me.pc = s.me.pc → exec i s = .next (after t (t.me.called frm link) target)) ∧
     (∀ y : Strand, (y.called frm link).sget 16 = link ∧ (∀ r : BitVec 5, 16 < r.toNat → (y.called frm link).sget r = 0) ∧
       (∀ r : BitVec 5, r.toNat < 16 → (y.called frm link).sget r = y.sget r) ∧
       (∀ v n, n < 16 → v ≠ y.swb + 1 → (y.called frm link).wget v n = y.wget v n))) ∧
  (∀ (u : Hdr) (s : State), passes (.ret u) s → s.me.depth ≠ 0 →
     let link := s.sget 16
     let frm := bits link.toNat 58 6
     let f := 16 * frm
     let n := 256 * f + 128
     let va := s.me.spillBase + BitVec.ofNat 56 (s.me.spilld - n)
     frm ≤ 32 → bits link.toNat 56 2 = 0 → link.toNat % 4 = 0 →
     (s.me.res ≠ 1 → transfers (.ret u) s
       { s.me with res := s.me.res - 1, voff := s.me.voff - f, swb := s.me.swb - 1, depth := s.me.depth - 1 }
       (link &&& 0x00FFFFFFFFFFFFFF)) ∧
     (∀ t, s.me.res = 1 → refillFrame s f = .ok t →
       exec (.ret u) s = .next (after t
         { t.me with voff := t.me.voff - f, swb := t.me.swb - 1, depth := t.me.depth - 1 } (link &&& 0x00FFFFFFFFFFFFFF))) ∧
     (s.me.res = 1 → n ≤ s.me.spilld → f ≤ s.ps → chunksOpen s { rd := true } va (2 * f + 1) →
       ∃ t, refillFrame s f = .ok t ∧
         exec (.ret u) s = .next (after t
           { t.me with voff := s.me.voff - f, swb := s.me.swb - 1, depth := s.me.depth - 1 } (link &&& 0x00FFFFFFFFFFFFFF)) ∧
         t.me = { s.me with spilld := s.me.spilld - n, rb := s.me.voff - f, sregs := t.me.sregs } ∧
         (∀ v m, m < 16 → v ≠ s.me.swb - 1 → t.me.wget v m = s.me.wget v m) ∧
         (∀ k m, m < 16 → placed s .loose (va + BitVec.ofNat 56 (256 * f)) { rd := true } k →
           (t.me.wget (s.me.swb - 1) m).toNat = s.num (k + 8 * m) 8) ∧
         (∀ j k l, j < f → placed s .loose (va + BitVec.ofNat 56 (256 * j)) { rd := true } k →
           placed s .loose (va + BitVec.ofNat 56 (256 * j + 128)) { rd := true } l →
           (t.partRow (s.me.voff - f + j)).bits.toNat = s.num k 128 + 2 ^ 1024 * s.num l 128 ∧
             (t.partRow (s.me.voff - f + j)).poison = s.blockPoison k) ∧
         t.mem = s.mem ∧ t.poison = s.poison ∧ t.dies = s.dies ∧ t.clusters = s.clusters ∧ t.cycle = s.cycle ∧
         (∀ m, m ≠ s.cur → t.strand m = s.strand m)))

/-- O27 (R108-R111): the WINDOW traps, with SPILLD and the sub-code in TVAL; the window stays as it was. A spill or refill that
fails has sub-code 6, and the frames that were moved before it stay moved. A link with an odd return address raises ALIGN. That
a ret whose record the spill stack does not hold raises WINDOW with sub-code 6 is the model's reading (log entry 17). -/
def Obligations.WindowTraps : Prop :=
  ∀ (i : Instr) (s : State) (target : Word) (frm : Nat), passes i s →
    let w (x : Strand) (n : Nat) : TrapInfo :=
      { cause := 0x08, sub := BitVec.ofNat 8 n, tval := BitVec.ofNat 64 (x.spilld * 2 ^ 32 + n) }
    let fs := spillList s.me s.ps (s.me.voff + 16 * frm + 256) (s.me.res - 1) 0 s.me.rb
    let bytes := (fs.map (fun f => f * 256 + 128)).sum
    ((match i with
      | .call _ d f => target = s.me.pc + BitVec.ofInt 64 (4 * d.toInt) ∧ frm = f.toNat
      | .callr _ a f => target = s.sget a ∧ frm = f.toNat
      | _ => False) → lands s target →
      (s.me.depth = 65535 → traps i s (w s.me 3)) ∧
      (s.me.depth ≠ 65535 → s.ps < 16 * frm + 256 → traps i s (w s.me 2)) ∧
      (s.me.depth ≠ 65535 → 16 * frm + 256 ≤ s.ps → s.me.spillSize.toNat * 65536 < s.me.spilld + bytes → traps i s (w s.me 1)) ∧
      (s.me.depth ≠ 65535 → 16 * frm + 256 ≤ s.ps → s.me.spilld + bytes ≤ s.me.spillSize.toNat * 65536 →
        ∀ gone f rest t, fs = gone ++ f :: rest → spillFrames s gone = .ok t →
          chunksFail t { wr := true } (t.me.spillBase + BitVec.ofNat 56 t.me.spilld) (2 * f + 1) →
          exec i s = .next (trapped t (w t.me 6)))) ∧
    (∀ u, i = .ret u →
      let link := (s.sget 16).toNat
      let f := 16 * bits link 58 6
      let n := 256 * f + 128
      (s.me.depth = 0 → traps i s (w s.me 4)) ∧
      (s.me.depth ≠ 0 → 32 < bits link 58 6 ∨ bits link 56 2 ≠ 0 → traps i s (w s.me 5)) ∧
      (s.me.depth ≠ 0 → bits link 58 6 ≤ 32 → bits link 56 2 = 0 →
        (link % 4 ≠ 0 → traps i s { cause := 0x05, tval := s.sget 16 &&& 0x00FFFFFFFFFFFFFF }) ∧
        (link % 4 = 0 → s.me.res = 1 →
          s.me.spilld < n ∨ chunksFail s { rd := true } (s.me.spillBase + BitVec.ofNat 56 (s.me.spilld - n)) (2 * f + 1) →
          traps i s (w s.me 6))))

/-- O28 (R145): `ctxsave` stores the save area's rows one after another from its address, each at the place of its row, and
moves on, those apart that its home took before an earlier wait; a misaligned address raises ALIGN. (R146): `ctxrestore` of an
area whose header fits reads its rows and becomes the strand they hold, in the partition of its core; an area of another
partition size raises WINDOW, sub-code 8; a misaligned address raises ALIGN. (R117, R118, R146): what a save area written for a
strand gives to any strand that restores it: its scalar registers, its live predicates and zeros for the others, handles, output
rows, latch, flags, trap registers and window; the two low bits of the resume pc are dropped, which is the model's choice (log
entry 45). That bits [63:56] of the address are ignored is the model's choice (log entry 19), and so are the two low bits of a
resume pc (log entry 45). -/
def Obligations.Contexts : Prop :=
  (∀ (u : Hdr) (a : BitVec 5) (s : State) (k : Nat → Nat), passes (.ctxsave u a) s → s.me.mode = true →
     let va : BitVec 56 := (s.sget a).setWidth 56
     let rows := saveRows s s.cur (past (.ctxsave u a) s)
     ((s.sget a).toNat % 256 ≠ 0 → traps (.ctxsave u a) s { cause := 0x05, tval := s.sget a }) ∧
     ((s.sget a).toNat % 256 = 0 →
       (∀ j, s.me.saved ≤ j → j < rows.length → placed s .loose (va + BitVec.ofNat 56 (256 * j)) { wr := true } (k j) ∧
         pendingPage s .loose (pageAt s .loose (va + BitVec.ofNat 56 (256 * j))) = false ∧
         migHolds s (va + BitVec.ofNat 56 (256 * j)) = false) →
       yields (.ctxsave u a) s ((rows.zipIdx.drop s.me.saved).foldl (fun (t : State) e => t.setRowAt (k e.2) e.1) s)) ∧
     rows.length = 32 + s.ps) ∧
  (∀ (u : Hdr) (a : BitVec 5) (s : State) (k : Nat → Nat), passes (.ctxrestore u a) s → s.me.mode = true → s.me.absent = [] →
     let va : BitVec 56 := (s.sget a).setWidth 56
     let rows := (List.range (32 + s.ps)).map (fun j => s.rowAt (k j))
     let x := restoreStrand s.me s.ps rows
     ((s.sget a).toNat % 256 ≠ 0 → traps (.ctxrestore u a) s { cause := 0x05, tval := s.sget a }) ∧
     ((s.sget a).toNat % 256 = 0 →
       (∀ j, j < 32 + s.ps → placed s .loose (va + BitVec.ofNat 56 (256 * j)) { rd := true } (k j) ∧
         pendingPage s .loose (pageAt s .loose (va + BitVec.ofNat 56 (256 * j))) = false ∧
         migHolds s (va + BitVec.ofNat 56 (256 * j)) = false) →
       (headerFits s.ps rows = false → traps (.ctxrestore u a) s
         { cause := 0x08, sub := 8, tval := BitVec.ofNat 64 (s.me.spilld * 2 ^ 32 + 8) }) ∧
       (headerFits s.ps rows = true →
         exec (.ctxrestore u a) s = .next (after (s.setKore (restorePart s.kore (numOf s.cur) (rows.drop 32))) x x.pc)))) ∧
  (∀ (s : State) (y : Strand) (resume : Word), s.me.wlim ≤ 65536 → s.me.res < 16 → s.me.depth < 2 ^ 16 → s.me.spilld < 2 ^ 32 →
     let rows := saveRows s s.cur resume
     let x := restoreStrand y s.ps rows
     headerFits s.ps rows = true ∧ x.pc = resume &&& ~~~3 ∧ (∀ r : BitVec 5, r.toNat < 16 → x.sget r = s.me.sget r) ∧
       (∀ p : BitVec 3, p ≠ 0 → x.pget p = if s.me.plive.getLsbD p.toNat then s.me.pget p else {}) ∧ x.plive = s.me.plive &&& 0xFE ∧
       x.spillSize = s.me.spillSize ∧ x.spillBase = s.me.spillBase ∧
       (0 < s.ps → s.ps ≤ 2048 → x.voff = s.me.voff % s.ps ∧
         (0 ≤ (s.me.voff : Int) - s.me.rb → (s.me.voff : Int) - s.me.rb < s.ps → (x.voff : Int) - x.rb = s.me.voff - s.me.rb)) ∧ (∀ h, x.hget h = s.me.hget h) ∧
       (∀ o : BitVec 3, tget {} x.orows o.toNat = tget {} s.me.orows o.toNat) ∧ x.swb = s.me.swb ∧
       (∀ v i, i < 16 → x.wget v i = s.me.wget v i) ∧ x.depth = s.me.depth ∧ x.res = s.me.res ∧ x.spilld = s.me.spilld ∧
       x.wlim = s.me.wlim ∧ x.srkey = s.me.srkey ∧ x.thnd = s.me.thnd ∧ x.tcause = s.me.tcause ∧ x.tpc = s.me.tpc ∧
       x.tval = s.me.tval ∧ x.tlanes = s.me.tlanes ∧ x.flnv = s.me.flnv ∧ x.fldz = s.me.fldz ∧ x.flof = s.me.flof ∧
       x.fluf = s.me.fluf ∧ x.flnx = s.me.flnx ∧ x.strict = s.me.strict ∧ x.inh = s.me.inh ∧ x.lx = s.me.lx)

/-! ### Vector instructions -/

/-- O29 (R148, R149, R151, R152, R155): the element-wise integer and bitwise operations over a run of rows: the exact result
mod 2^w, or clamped under SAT; shifts by the width or more empty the element, or fill it with its sign. Before that, an empty
source row or a destination row that cannot be taken makes the unit wait, or raises WAIT, and a poisoned source raises POISON in
strict mode (R116, R172-R175); so it is for every vector instruction. That an untyped instruction keeps the low 32 bits of an
extended immediate is the model's reading (log entry 21). The order of the sources by which POISON names a row is the model's
reading (log entry 24). -/
def Obligations.VectorInteger : Prop :=
  ∀ (u : Hdr) (ty : VTy) (g : BitVec 2) (d : Row) (a b : VSrc) (s : State), ty.isFloat = false →
    let m := modsOf u.pfx
    let f := vtyFmt ty
    let w := vtyWidth ty
    let n := groupRows g
    let two := runRefs n d [a, b] false
    let one := runRefs n d [a] false
    let x (j e : Nat) : Nat := source s f (modsForA m b) a j e
    let y (j e : Nat) : Nat := source s f m b j e
    let z (j e : Nat) : Nat := source s f m a j e
    let op (i : Instr) (k : Int → Int → Int) : Prop :=
      rowsGet i s m.q w n two d (fun j e => intElem f m.sat (k (intOf f (x j e)) (intOf f (y j e))))
    let codes (i : Instr) (k : Nat → Nat → Nat) : Prop := rowsGet i s m.q w n two d (fun j e => only (k (x j e) (y j e)))
    let bitwise (i : Instr) (k : Nat → Nat → Nat) : Prop :=
      rowsGet i s m.q 32 n two d (fun j e =>
        only (k (wideSource s (modsForA m b) a j e) (wideSource s m b j e)))
    op (.vadd u ty g d a b) (fun p q => p + q) ∧
    op (.vsub u ty g d a b) (fun p q => p - q) ∧
    op (.vmul u ty g d a b) (fun p q => p * q) ∧
    codes (.vmulh u ty g d a b) (fun p q => wrapInt w (intOf f p * intOf f q / (2 ^ w : Nat))) ∧
    codes (.vmin u ty g d a b) (fun p q => if intOf f q < intOf f p then q else p) ∧
    codes (.vmax u ty g d a b) (fun p q => if intOf f p < intOf f q then q else p) ∧
    rowsGet (.vabs u ty g d a) s m.q w n one d (fun j e => intElem f m.sat (intOf f (z j e)).natAbs) ∧
    rowsGet (.vneg u ty g d a) s m.q w n one d (fun j e => intElem f m.sat (-intOf f (z j e))) ∧
    codes (.vshl u ty g d a b) (fun p q => if w ≤ q then 0 else p * 2 ^ q % 2 ^ w) ∧
    codes (.vshr u ty g d a b) (fun p q => if w ≤ q then 0 else p / 2 ^ q) ∧
    codes (.vsar u ty g d a b) (fun p q => wrapInt w (sext w p / (2 ^ min w q : Nat))) ∧
    bitwise (.vand u g d a b) (fun p q => p &&& q) ∧
    bitwise (.vor u g d a b) (fun p q => p ||| q) ∧
    bitwise (.vxor u g d a b) (fun p q => p ^^^ q) ∧
    rowsGet (.vnot u g d a) s m.q 32 n one d (fun j e => only (wideSource s m a j e ^^^ 0xFFFFFFFF)) ∧
    rowsGet (.vmov u g d a) s m.q 32 n one d (fun j e => only (wideSource s m a j e))

/-- O30 (R30, R136, R148, R149, R151, R153, R154): the element-wise float operations over a run of rows: each element is the
rounding of the exact result of its elements; the selections and sign changes set no flag, and a NaN's sign change is the
canonical NaN. `vexp2` and `vlog2` of an element. The special inputs give what the table says; 2^a of an integer from −149 to
127 (from −126 under FTZ) and log2 of 2^n are exact and set no flag; a power beyond 2^±2000 rounds as 2^±2000 does; any other
result lies with the exact function value in an enclosure narrower than 2^−213 (of the value, for `vexp2`), and is the rounding
of its ends, hence of the exact value, where they round alike. Where the enclosure of vexp2 and vlog2 does not decide, their
code is an opaque value of the model's (log entry 11). The order of the sources by which POISON names a row is the model's
reading (log entry 24). -/
def Obligations.VectorFloat : Prop :=
  (∀ (u : Hdr) (ty : VTy) (g : BitVec 2) (d : Row) (a b : VSrc) (s : State), ty.isFloat = true →
     let m := modsOf u.pfx
     let f := vtyFmt ty
     let w := vtyWidth ty
     let n := groupRows g
     let val (h : Fmt) (c : Nat) : FVal := if m.ftz then flushIn h (decodeFmt h c).1 else (decodeFmt h c).1
     let x (j e : Nat) : Nat := source s f (modsForA m b) a j e
     let y (j e : Nat) : Nat := source s f m b j e
     let z (h : Fmt) (j e : Nat) : Nat := source s h m a j e
     let low (j e : Nat) : Nat := flushCode f m.ftz (z f j e)
     let quiet : Nat := match f with
       | .fp32 => 0x7FC00000
       | .fp16 => 0x7E00
       | _ => 0x7FC0
     let old (j e : Nat) : Nat := elem w (s.rowGet (Row.plus d j)).bits e
     let ctx (j e : Nat) : RCtx := rowRounding s.me m (Row.plus d j).code e
     let two (i : Instr) (readsD : Bool) (k : Nat → Nat → Rounded) : Prop := rowsGet i s m.q w n (runRefs n d [a, b] readsD) d k
     let one (i : Instr) (h : Fmt) (k : Nat → Nat → Rounded) : Prop := rowsGet i s m.q h.width n (runRefs n d [a] false) d k
     two (.vadd u ty g d a b) false (fun j e => floatElem f (ctx j e) (flagged (sumVal m.mode [val f (x j e), val f (y j e)]))) ∧
     two (.vsub u ty g d a b) false
       (fun j e => floatElem f (ctx j e) (flagged (sumVal m.mode [val f (x j e), (val f (y j e)).neg]))) ∧
     two (.vmul u ty g d a b) false (fun j e => floatElem f (ctx j e) (flagged (mulVal (val f (x j e)) (val f (y j e))))) ∧
     two (.vdiv u ty g d a b) false (fun j e => floatElem f (ctx j e) (divVal (val f (x j e)) (val f (y j e)))) ∧
     two (.vfma u ty g d a b) true
       (fun j e => floatElem f (ctx j e) (fused m.mode (val f (x j e)) (val f (y j e)) (val f (old j e)))) ∧
     two (.vmin u ty g d a b) false (fun j e => only (chosen f true (flushCode f m.ftz (x j e)) (flushCode f m.ftz (y j e)))) ∧
     two (.vmax u ty g d a b) false (fun j e => only (chosen f false (flushCode f m.ftz (x j e)) (flushCode f m.ftz (y j e)))) ∧
     one (.vabs u ty g d a) f (fun j e => only (if (decodeFmt f (low j e)).1.isNaN then quiet else low j e % 2 ^ (w - 1))) ∧
     one (.vneg u ty g d a) f (fun j e => only (if (decodeFmt f (low j e)).1.isNaN then quiet else low j e ^^^ 2 ^ (w - 1))) ∧
     one (.vrcp u g d a) .fp32 (fun j e => floatElem .fp32 (ctx j e) (divVal (.fin false 1 0) (val .fp32 (z .fp32 j e)))) ∧
     one (.vrsqrt u g d a) .fp32 (fun j e => floatElem .fp32 (ctx j e) (rsqrtVal (val .fp32 (z .fp32 j e)))) ∧
     one (.vsqrt u g d a) .fp32 (fun j e => floatElem .fp32 (ctx j e) (sqrtVal (val .fp32 (z .fp32 j e)))) ∧
     one (.vexp2 u g d a) .fp32 (fun j e => exp2Rounded (ctx j e) (z .fp32 j e)) ∧
     one (.vlog2 u g d a) .fp32 (fun j e => log2Rounded (ctx j e) (z .fp32 j e))) ∧
  (∀ (c : RCtx) (w : Nat),
     let v := if c.ftz then flushIn .fp32 (f32Val w) else f32Val w
     let p := exp2Rounded c w
     let l := log2Rounded c w
     let gives (r : Rounded) (code : Nat) (fl : Flags) : Prop := r = ⟨code, fl, false⟩
     let exact (r : Rounded) (x : Rat) : Prop := r.fl = {} ∧ r.poison = false ∧
       (decodeFmt .fp32 r.code).1.finite = true ∧ (decodeFmt .fp32 r.code).1.rat = x
     let near (r : Rounded) (y width : ℝ) : Prop := ∃ lo hi : FVal, lo.finite = true ∧ hi.finite = true ∧
       (lo.rat : ℝ) ≤ y ∧ y ≤ (hi.rat : ℝ) ∧ (hi.rat : ℝ) - (lo.rat : ℝ) ≤ width ∧
       (roundFloat .fp32 c lo = roundFloat .fp32 c hi → r = roundFloat .fp32 c lo)
     (v.isNaN = true → gives p 0x7FC00000 {} ∧ gives l 0x7FC00000 {}) ∧
     (v = .inf false → gives p 0x7F800000 {} ∧ gives l 0x7F800000 {}) ∧
     (v = .inf true → gives p 0 {} ∧ gives l 0x7FC00000 nvFlag) ∧
     (v.isZero = true → gives p 0x3F800000 {} ∧ gives l 0xFF800000 { dz := true }) ∧
     (v.finite = true → v.isZero = false → v.sign = true → gives l 0x7FC00000 nvFlag) ∧
     (∀ n : Int, v.finite = true → v.rat = n → n ≤ 127 → (if c.ftz then -126 else -149) ≤ n → exact p ((2 : Rat) ^ n)) ∧
     (∀ n : Int, v.finite = true → v.rat = (2 : Rat) ^ n → exact l n) ∧
     (v.finite = true → 2000 < gap 0 v.rat → p = roundFloat .fp32 c (.fin false 1 (if v.sign then -2000 else 2000))) ∧
     (v.finite = true → v.isZero = false → gap 0 v.rat ≤ 2000 →
       near p ((2 : ℝ) ^ (v.rat : ℝ)) ((2 : ℝ) ^ (v.rat : ℝ) * (2 : ℝ) ^ (-213 : ℤ))) ∧
     (v.finite = true → v.isZero = false → v.sign = false → near l (Real.logb 2 (v.rat : ℝ)) ((2 : ℝ) ^ (-213 : ℤ))))

/-- O31 (R106, R156): a vector compare. A lane's condition holds when the relation holds for each of its elements; PD and PE
take it and its negation in the enabled lanes as the form says, and their U bits tell whether an enabled lane holds. A `.unc`
compare with no enabled lane clears both. The order of the sources by which POISON names a row is the model's reading (log entry
24). -/
def Obligations.VectorCompares : Prop :=
  (∀ (u : Hdr) (form : CForm) (ty : VTy) (c : Cond) (pe pd : BitVec 3) (a b : VSrc) (s : State),
     let i : Instr := .vcmp u form ty c pe pd a b
     let m := modsOf u.pfx
     let f := vtyFmt ty
     let k := 32 / vtyWidth ty
     let val (x : Nat) : FVal := if m.ftz then flushIn f (decodeFmt f x).1 else (decodeFmt f x).1
     let rel (x y : Nat) : Bool := if ty.isFloat then condFloat c (val x) (val y) else condOrder c (intOf f x) (intOf f y)
     let cond (l : Nat) : Bool := (List.range k).all (fun e =>
       rel (source s f (modsForA m b) a 0 (l * k + e)) (source s f m b 0 (l * k + e)))
     let on (l : Nat) : Bool := (lanesOf i s).getLsbD l
     let d := s.me.pget pd
     let e := s.me.pget pe
     (owns s .x → stalls i s (srcRef a 0 ++ srcRef b 0) []) ∧
     (vready i s (srcRef a 0 ++ srcRef b 0) [] →
       ∃ p q : Pred, completes i s ((s.me.pset pd p).pset pe q) ∧
         (∀ l, l < 64 →
           p.lanes.getLsbD l = (match form with
             | .plain => if on l then cond l else d.lanes.getLsbD l
             | .unc => on l && cond l
             | .and => d.lanes.getLsbD l && (!on l || cond l)
             | .or => d.lanes.getLsbD l || (on l && cond l)) ∧
           q.lanes.getLsbD l = (match form with
             | .plain => if on l then !cond l else e.lanes.getLsbD l
             | .unc => on l && !cond l
             | .and => e.lanes.getLsbD l || (on l && !cond l)
             | .or => e.lanes.getLsbD l && (!on l || !cond l))) ∧
         p.u = (List.range 64).any (fun l => on l && p.lanes.getLsbD l) ∧
         q.u = (List.range 64).any (fun l => on l && q.lanes.getLsbD l))) ∧
  (∀ (u : Hdr) (ty : VTy) (c : Cond) (pe pd : BitVec 3) (a b : VSrc) (s : State),
     owns s .x → lanesOf (.vcmp u .unc ty c pe pd a b) s = 0 →
     completes (.vcmp u .unc ty c pe pd a b) s ((s.me.pset pd {}).pset pe {}))

/-- O32 (R157, R159, R160): the conversions element by element: `vcvt` between formats over as many rows as the widths need,
`vdequant` with the scale of each element's block, and the four-term dot product into the destination's lanes. One element of
each conversion. A finite value is rounded to the destination's format; a NaN and an infinity become their like, or, where the
format has none, its largest value of their sign, invalid and poisoned; of integers the low bits are kept, or clamped under SAT.
An MX element is its value times 2^(c − 127), under scale 0xFF the canonical NaN, invalid. A dot product rounds the exact sum of
the accumulator and the products once. That a scale given as an immediate is a two's-complement value is the model's reading
(log entry 22). The order of the sources by which POISON names a row is the model's reading (log entry 24). So is that of values
converted to an integer a NaN and an infinity alone poison (log entry 61). -/
def Obligations.VectorConvert : Prop :=
  (∀ (u : Hdr) (dst src : Fmt) (mx : MxFmt) (df : DotFmt) (blk : BitVec 2) (d : Row) (a b : VSrc) (s : State),
     let m := modsOf u.pfx
     let bare := { m with ext := none }
     let rows (x : Nat) : Nat := if x = 0 then 1 else x
     let at' (f : Fmt) (p : VSrc) (k : Nat) : Nat := source s f bare p (k / (2048 / f.width)) (k % (2048 / f.width))
     (dst.cvtOk = true → src.cvtOk = true →
       rowsGet (.vcvt u dst src d a) s m.q dst.width (rows (dst.width / src.width)) (srcRun a (rows (src.width / dst.width))) d
         (fun j e => convertFmt dst src (rowRounding s.me m (Row.plus d j).code e) (at' src a (j * (2048 / dst.width) + e)))) ∧
     (let f := MxFmt.toFmt mx
      rowsGet (.vdequant u mx blk d a b) s m.q 32 mx.rows (srcRef a 0 ++ srcRef b 0) d
       (fun j e => mxDequant mx (rowRounding s.me m (Row.plus d j).code e)
         (match b with
           | .imm n => scaleCode (immVal bare 9 n.toNat)
           | _ => source s .int8 bare b 0 ((64 * j + e) / (4 * 2 ^ blk.toNat)))
         (source s f bare a 0 (64 * j + e)))) ∧
     (let g := dotFmt df
      let word (p : VSrc) (l : Nat) : Nat :=
       joinElems g.width ((List.range (32 / g.width)).map (fun k => source s g bare p 0 (l * (32 / g.width) + k)))
      rowsGet (.vdot4 u df d a b) s m.q 32 1 (srcRef a 0 ++ srcRef b 0 ++ [.row d]) d
       (fun _ l => dotLane df m (word a l) (word b l) (elem 32 (s.rowGet d).bits l)))) ∧
  (∀ (dst src : Fmt) (mx : MxFmt) (df : DotFmt) (c : RCtx) (m : Mods) (w x a b d : Nat),
     let read (f : Fmt) (z : Bool) (k : Nat) : FVal := if z then flushIn f (decodeFmt f k).1 else (decodeFmt f k).1
     let reserved := (decodeFmt src w).2
     let nv (t : Bool) : Flags := if t then nvFlag else {}
     let v := read src c.ftz w
     (dst.cvtOk = true → src.cvtOk = true →
       (isIntFmt dst = true → isIntFmt src = true → convertFmt dst src c w = only (wrapInt dst.width
         (if c.sat then max (intRange dst).1 (min (intRange dst).2 (intOf src w)) else intOf src w))) ∧
       (isIntFmt dst = true → isIntFmt src = false → convertFmt dst src c w = roundToInt dst c v) ∧
       (isIntFmt dst = false → isIntFmt src = true → ∃ u : FVal, u.finite = true ∧ u.rat = intOf src w ∧ (u.rat = 0 → u.sign = false) ∧
         convertFmt dst src c w = roundFloat dst c u) ∧
       (isIntFmt dst = false → isIntFmt src = false →
         (v.finite = true → convertFmt dst src c w = roundFloat dst c v) ∧
         (v.isNaN = true → convertFmt dst src c w = (if hasSpecial dst then ⟨canonNaN dst, nv reserved, false⟩
           else ⟨maxCode dst + signBit dst v.sign, nvFlag, true⟩)) ∧
         (v.isInf = true → convertFmt dst src c w = (if hasSpecial dst then only (infCode dst v.sign)
           else ⟨maxCode dst + signBit dst v.sign, nvFlag, true⟩)))) ∧
     (let f := MxFmt.toFmt mx
      let v := (decodeFmt f w).1
      (x % 256 = 255 → mxDequant mx c x w = ⟨0x7FC00000, nvFlag, false⟩) ∧
      (x % 256 ≠ 255 →
       (v.finite = true → ∃ u : FVal, u.finite = true ∧ u.sign = v.sign ∧ u.rat = v.rat * (2 : Rat) ^ ((x % 256 : Nat) - 127 : Int) ∧
         mxDequant mx c x w = roundFloat .fp32 c u) ∧
       (v.isNaN = true → mxDequant mx c x w = ⟨0x7FC00000, nv (decodeFmt f w).2, false⟩) ∧
       (v.isInf = true → mxDequant mx c x w = only (infCode .fp32 v.sign)))) ∧
     (let g := dotFmt df
      let k := 32 / g.width
      let part (y e : Nat) : Nat := y / 2 ^ (g.width * e) % 2 ^ g.width
      (df = .i8 →
       let t : Int := sext 32 d + ((List.range 4).map (fun e => sext 8 (part a e) * sext 8 (part b e))).sum
       dotLane df m a b d = only (wrapInt 32 (if m.sat then max (-2 ^ 31) (min (2 ^ 31 - 1) t) else t))) ∧
      (df ≠ .i8 →
       let one (y e : Nat) : FVal := (decodeFmt g (part y e)).1
       let products : List (FVal × Bool) := (List.range k).map (fun e => mulVal (one a e) (one b e))
       let terms := read .fp32 m.ftz d :: products.map (·.1)
       let clash := terms.contains (.inf true) && terms.contains (.inf false)
       let wrong := clash || products.any (·.2) ||
         (List.range k).any (fun e => (decodeFmt g (part a e)).2 || (decodeFmt g (part b e)).2)
       ((∀ t ∈ terms, t.finite = true) → ∃ u : FVal, u.finite = true ∧ u.rat = (terms.map FVal.rat).sum ∧
         (u.rat = 0 → u.sign = terms.all (fun t => t.isZero && t.sign)) ∧
         dotLane df m a b d = roundFloat .fp32 { sat := m.sat, ftz := m.ftz } u) ∧
       (clash = true ∨ (∃ t ∈ terms, t.isNaN = true) → dotLane df m a b d = ⟨0x7FC00000, nv wrong, false⟩) ∧
       (clash = false → (∀ t ∈ terms, t.isNaN = false) → ∀ n, .inf n ∈ terms → dotLane df m a b d = only (infCode .fp32 n)))))

/-- O33 (R35, R158): `vquant` writes the codes of each block whose lanes are all enabled and the block's scale in the scale
row; the other blocks and scales keep what they held. Both rows are poisoned by a poisoned source, by a NaN or an infinity of a
quantised block, and by their old poison where a lane is suppressed; lx is the row written last. The lanes that hold a NaN or an
infinity of a quantised block take the invalid flag, and the others' flags are those of their elements. The quantisation of a
block of FP32 values. A NaN or an infinity gives the scale 0xFF, elements +0 and the invalid flag where it stands; zeros alone
the scale 0; else X is the exponent of the greatest magnitude less the format's largest one, clamped to −127 to 127, the scale X
+ 127, and each element the nearest code to v / 2^X, saturated. The order of the row codes is the model's choice (log entry 18).
The order of the sources by which POISON names a row is the model's reading (log entry 24). That with no whole block both rows
count as written is its choice (log entry 59). -/
def Obligations.VectorQuant : Prop :=
  (∀ (u : Hdr) (mx : MxFmt) (blk : BitVec 2) (d vs : Row) (a : VSrc) (s : State),
     let i : Instr := .vquant u mx blk d a vs
     let m := modsOf u.pfx
     let w := (MxFmt.toFmt mx).width
     let n := 4 * 2 ^ blk.toNat
     let val (k : Nat) : FVal :=
       let c := source s .fp32 { m with ext := none } a (k / 64) (k % 64)
       if m.ftz then flushIn .fp32 (f32Val c) else f32Val c
     let block (b : Nat) := mxQuantBlock mx ((List.range n).map (fun k => val (b * n + k)))
     let whole (b : Nat) : Bool := (List.range n).all (fun k => (lanesOf i s).getLsbD ((b * n + k) * w / 32))
     let special (e : Nat) : Bool := (val e).isNaN || (val e).isInf
     let poisoned (old : Bool) : Bool := (srcRun a mx.rows).any (fun r => (Ref.at s r).poison) ||
       (lanesOf i s != BitVec.allOnes 64 && old) || (List.range (2048 / w)).any (fun e => whole (e / n) && special e)
     let flags (old new : Word) (c : Nat → Bool) : Prop := ∀ l, l < 64 → new.getLsbD l = (old.getLsbD l ||
       (!m.q && (List.range (2048 / w)).any (fun e => e * w / 32 == l && whole (e / n) && c e)))
     let fl (e : Nat) : Flags := ((block (e / n)).2.1.map (·.2)).getD (e % n) {}
     (owns s .x → stalls i s (srcRun a mx.rows) [d, vs]) ∧
     (vready i s (srcRun a mx.rows) [d, vs] →
       ∃ t, yields i s t ∧ rowFrame s t [d, vs] ∧
         (∀ e, e < 2048 / w → elem w (t.rowGet d).bits e =
           if whole (e / n) then ((block (e / n)).2.1.map (·.1)).getD (e % n) 0 % 2 ^ w else elem w (s.rowGet d).bits e) ∧
         (∀ b, b < 256 → elem 8 (t.rowGet vs).bits b =
           if b < 2048 / w / n ∧ whole b = true then (block b).1 % 256 else elem 8 (s.rowGet vs).bits b) ∧
         (t.rowGet d).poison = poisoned (s.rowGet d).poison ∧ (t.rowGet vs).poison = poisoned (s.rowGet vs).poison ∧
         t.me.lx = t.rowGet (if vs.code < d.code then d else vs) ∧
         flags s.me.flnv t.me.flnv special ∧ t.me.fldz = s.me.fldz ∧ flags s.me.flof t.me.flof (fun e => (fl e).ov) ∧
         flags s.me.fluf t.me.fluf (fun e => (fl e).uf) ∧ flags s.me.flnx t.me.flnx (fun e => (fl e).nx))) ∧
  (∀ (mx : MxFmt) (vs : List FVal),
     let f := MxFmt.toFmt mx
     let emax : Int := match mx with
       | .e2m1 => 2
       | .e2m3 => 2
       | .e3m2 => 4
       | .e4m3 => 8
       | .e5m2 => 15
     let q := mxQuantBlock mx vs
     ((∃ v ∈ vs, v.finite = false) → q.1 = 0xFF ∧ q.2.1 = vs.map (fun v => (0, if v.finite then {} else nvFlag))) ∧
     ((∀ v ∈ vs, v.isZero = true) → q.1 = 0 ∧ q.2.1 = vs.map (fun _ => (0, {}))) ∧
     ((∀ v ∈ vs, v.finite = true) → ∀ top : Int, (∃ v ∈ vs, (2 : Rat) ^ top ≤ gap 0 v.rat) →
       (∀ v ∈ vs, gap 0 v.rat < (2 : Rat) ^ (top + 1)) →
       let x := max (-127) (min 127 (top - emax))
       q.1 = (x + 127).toNat ∧ q.2.1.length = vs.length ∧
         ∀ (k : Nat) (v : FVal), vs[k]? = some v → ∃ u : FVal, u.finite = true ∧ u.sign = v.sign ∧ u.rat = v.rat * (2 : Rat) ^ (-x) ∧
           q.2.1[k]? = some ((roundFloat f { sat := true } u).code, (roundFloat f { sat := true } u).fl)))

/-- O34 (R161-R165): the instructions across lanes. A permute reads lane k of its source, 0 beyond lane 63 and from a
suppressed lane; a reduction puts one result into every enabled lane and a scan the running sums; `vcompress` gathers the
enabled lanes, `vexpand` spreads them; `vget` and `vput` reach the row whose code a scalar holds. A scalar that names no row
raises ILL when a lane is enabled. What a reduction and a prefix make of the participating elements. The integer sum is taken
mod 2^w, the float sum rounded once; the least or greatest integer; and of floats that of the order of R136, NaN only when all
are. That an untyped instruction keeps the low 32 bits of an extended immediate is the model's reading (log entry 21). The order
of the sources by which POISON names a row is the model's reading (log entry 24). -/
def Obligations.AcrossLanes : Prop :=
  (∀ (u : Hdr) (ty : VTy) (d : Row) (a b : VSrc) (c : SImm) (src : RowSrc) (r : BitVec 5) (s : State),
     let m := modsOf u.pfx
     let bare := { m with ext := none }
     let f := vtyFmt ty
     let w := vtyWidth ty
     let lane (i : Instr) (k : VSrc → Nat → Nat) (l : Nat) : Nat :=
       if l < 64 ∧ (lanesOf i s).getLsbD l = true then k a l else 0
     let wide (q : Mods) (p : VSrc) (l : Nat) : Nat := wideSource s q p 0 l
     let count : Int := match c with
       | .scal x => ((s.sget x).toNat : Int)
       | .imm n => immVal m 9 n.toNat
     let some' (i : Instr) (hi : Nat) : List Nat :=
       ((List.range (2048 / w)).filter (fun e => decide (e ≤ hi) && (lanesOf i s).getLsbD (e * w / 32))).map (source s f bare a 0)
     rowsGet (.vperm u d a b) s false 32 1 (srcRef a 0 ++ srcRef b 0) d
       (fun _ l => only (lane (.vperm u d a b) (wide bare) (wide m b l))) ∧
     rowsGet (.vbcast u d a c) s false 32 1 (srcRef a 0) d
       (fun _ _ => only (if count < 0 then 0 else lane (.vbcast u d a c) (wide (modsForA' m c)) count.toNat)) ∧
     rowsGet (.vrot u d a c) s false 32 1 (srcRef a 0) d
       (fun _ l => only (lane (.vrot u d a c) (wide (modsForA' m c)) (((l : Int) - count) % 64).toNat)) ∧
     rowsGet (.vredsum u ty d a) s m.q w 1 (srcRef a 0) d
       (fun _ _ => sumElems ty (rowRounding s.me m d.code 0) (some' (.vredsum u ty d a) 2048)) ∧
     rowsGet (.vredmin u ty d a) s m.q w 1 (srcRef a 0) d
       (fun _ _ => only (selectElems ty m.ftz true (some' (.vredmin u ty d a) 2048))) ∧
     rowsGet (.vredmax u ty d a) s m.q w 1 (srcRef a 0) d
       (fun _ _ => only (selectElems ty m.ftz false (some' (.vredmax u ty d a) 2048))) ∧
     rowsGet (.vscan u ty d a) s m.q w 1 (srcRef a 0) d
       (fun _ e => sumElems ty (rowRounding s.me m d.code e) (some' (.vscan u ty d a) e)) ∧
     rowsGet (.vexpand u d a) s false 32 1 (srcRef a 0) d
       (fun _ l => only (wide m a ((List.range l).countP (fun j => (lanesOf (.vexpand u d a) s).getLsbD j)))) ∧
     (let i : Instr := .vcompress u d a
      let on := (List.range 64).filter (fun l => (lanesOf i s).getLsbD l)
      (owns s .x → stalls i s (srcRef a 0) [d]) ∧
      (vready i s (srcRef a 0) [d] → ∃ t, yields i s t ∧ rowFrame s t [d] ∧ t.me.lx = t.rowGet d ∧
       (t.rowGet d).poison = ((srcRef a 0).any (fun r => (Ref.at s r).poison) ||
         (lanesOf i s != BitVec.allOnes 64 && (s.rowGet d).poison)) ∧
       t.me.flnv = s.me.flnv ∧ t.me.fldz = s.me.fldz ∧ t.me.flof = s.me.flof ∧ t.me.fluf = s.me.fluf ∧ t.me.flnx = s.me.flnx ∧
       ∀ l, l < 64 → elem 32 (t.rowGet d).bits l = match on[l]? with
         | some k => wide m a k % 2 ^ 32
         | none => elem 32 (s.rowGet d).bits l)) ∧
     (∀ q, codeRef 0x308 (s.sget r) = some q →
       rowsGet (.vget u d r) s false 32 1 [q] d (fun _ l => only (elem 32 (Ref.at s q).bits l))) ∧
     (∀ q, codeRef 0x307 (s.sget r) = some (.row q) →
       rowsGet (.vput u src r) s false 32 1 [rowSrcRef src] q (fun _ l => only (elem 32 (Ref.at s (rowSrcRef src)).bits l)))) ∧
  (∀ (u : Hdr) (d : Row) (src : RowSrc) (r : BitVec 5) (s : State), owns s .x →
     (lanesOf (.vget u d r) s ≠ 0 → 0x308 < (s.sget r).toNat →
       traps (.vget u d r) s { cause := 0x01, tval := parcelsWord (.vget u d r) }) ∧
     (lanesOf (.vput u src r) s ≠ 0 → 0x307 < (s.sget r).toNat →
       traps (.vput u src r) s { cause := 0x01, tval := parcelsWord (.vput u src r) })) ∧
  (∀ (ty : VTy) (c : RCtx) (least : Bool) (xs : List Nat),
     let f := vtyFmt ty
     let val (x : Nat) : FVal := if c.ftz then flushIn f (decodeFmt f x).1 else (decodeFmt f x).1
     let ts := xs.map val
     let clash := ts.contains (.inf true) && ts.contains (.inf false)
     let nan (x : Nat) : Bool := (decodeFmt f x).1.isNaN
     let code := selectElems ty c.ftz least xs
     (ty.isFloat = false →
       sumElems ty c xs = only (wrapInt (vtyWidth ty) (xs.map (intOf f)).sum) ∧
       (xs ≠ [] → code ∈ xs ∧ ∀ x ∈ xs, if least then intOf f code ≤ intOf f x else intOf f x ≤ intOf f code)) ∧
     (ty.isFloat = true →
       ((∀ t ∈ ts, t.finite = true) → ∃ v : FVal, v.finite = true ∧ v.rat = (ts.map FVal.rat).sum ∧
         (v.rat = 0 → v.sign = (ts.all (fun t => t.isZero && t.sign) || c.mode == .rdn)) ∧ sumElems ty c xs = roundFloat f c v) ∧
       (clash = true ∨ (∃ t ∈ ts, t.isNaN = true) →
         sumElems ty c xs = ⟨canonNaN f, if clash then nvFlag else {}, false⟩) ∧
       (clash = false → (∀ t ∈ ts, t.isNaN = false) → ∀ n, .inf n ∈ ts → sumElems ty c xs = only (infCode f n)) ∧
       (xs ≠ [] → (∀ x ∈ xs, nan x = true) → code = canonNaN f) ∧
       ((∃ x ∈ xs, nan x = false) → (∃ x ∈ xs, nan x = false ∧ code = flushCode f c.ftz x) ∧
         ∀ x ∈ xs, nan x = false →
           let y := flushCode f c.ftz x
           (if least then precedes f y code else precedes f code y) = false)))

/-- O35 (R48, R65, R95, R133): pair words. The scalar half writes when the guard passes, from the values before the word; the
vector half acts in the enabled lanes; with no enabled lane, or a vector half that is the no-operation, the scalar half acts
alone. The order of the sources by which POISON names a row is the model's reading (log entry 24). -/
def Obligations.PairWords : Prop :=
  ∀ (u : Hdr) (h : PairS) (d : BitVec 5) (a b : PSrc) (s : State),
    let x := s.sget
    let scalar : Option (BitVec 5 × Word) := match h with
      | .nop => none
      | .add d a b => some (d, x a + x b)
      | .sub d a b => some (d, x a - x b)
      | .and d a b => some (d, x a &&& x b)
      | .or d a b => some (d, x a ||| x b)
      | .xor d a b => some (d, x a ^^^ x b)
      | .min d a b => some (d, if (x a).slt (x b) then x a else x b)
      | .max d a b => some (d, if (x a).slt (x b) then x b else x a)
      | .addi d a n => some (d, x a + n.signExtend 64)
      | .shl d a n => some (d, x a <<< n.toNat)
      | .shr d a n => some (d, x a >>> n.toNat)
      | .sar d a n => some (d, (x a).sshiftRight n.toNat)
      | .mov d a => some (d, x a)
      | .movi d n => some (d, n.signExtend 64)
    let put (i : Instr) (y : Strand) : Strand := match scalar with
      | some (r, v) => if guardU s.me i.guard then y.sset r v else y
      | none => y
    let row : Row := .v (d.setWidth 8)
    let p (e : Nat) : Nat := source s .int32 {} (pairSrc a) 0 e
    let q (e : Nat) : Nat := source s .int32 {} (pairSrc b) 0 e
    let o (e : Nat) : Nat := elem 32 (s.rowGet row).bits e
    let k (e : Nat) : RCtx := rowRounding s.me {} row.code e
    let int (f : Int → Int → Int) (e : Nat) : Rounded := intElem .int32 false (f (sext 32 (p e)) (sext 32 (q e)))
    let flt (f : FVal → FVal → FVal × Flags) (e : Nat) : Rounded := floatElem .fp32 (k e) (f (f32Val (p e)) (f32Val (q e)))
    let two := runRefs 1 row [pairSrc a, pairSrc b] false
    let word (i : Instr) (refs : List Ref) (f : Nat → Rounded) : Prop :=
      (owns s .x → lanesOf i s = 0 → completes i s (put i s.me)) ∧
      (owns s .x → stalls i s refs [row]) ∧
      (vready i s refs [row] → ∃ t, exec i s = .next (after t (put i t.me) (past i s)) ∧
        rowsGive s t (lanesOf i s) false 32 1 refs row (fun _ e => f e))
    let both (i : Instr) (v : PairV) (refs : List Ref) (f : Nat → Rounded) : Prop :=
      word i refs f ∧ (h = .nop → word (.pairSNop u v) refs f)
    let alone (i : Instr) : Prop := completes i s (put i s.me)
    (h = .nop → alone (.pairVNop u) ∧ alone (.pairSNop u .nop)) ∧
    (∀ d a b, h = .add d a b → alone (.pairSAdd u d a b)) ∧ (∀ d a b, h = .sub d a b → alone (.pairSSub u d a b)) ∧
    (∀ d a b, h = .and d a b → alone (.pairSAnd u d a b)) ∧ (∀ d a b, h = .or d a b → alone (.pairSOr u d a b)) ∧
    (∀ d a b, h = .xor d a b → alone (.pairSXor u d a b)) ∧ (∀ d a b, h = .min d a b → alone (.pairSMin u d a b)) ∧
    (∀ d a b, h = .max d a b → alone (.pairSMax u d a b)) ∧ (∀ d a n, h = .addi d a n → alone (.pairSAddi u d a n)) ∧
    (∀ d a n, h = .shl d a n → alone (.pairSShl u d a n)) ∧ (∀ d a n, h = .shr d a n → alone (.pairSShr u d a n)) ∧
    (∀ d a n, h = .sar d a n → alone (.pairSSar u d a n)) ∧ (∀ d a, h = .mov d a → alone (.pairSMov u d a)) ∧
    (∀ d n, h = .movi d n → alone (.pairSMovi u d n)) ∧
    both (.pairVVaddI32 u h d a b) (.vaddI32 d a b) two (int (fun x y => x + y)) ∧ both (.pairVVsubI32 u h d a b) (.vsubI32 d a b) two (int (fun x y => x - y)) ∧
    both (.pairVVmulI32 u h d a b) (.vmulI32 d a b) two (int (fun x y => x * y)) ∧
    both (.pairVVminI32 u h d a b) (.vminI32 d a b) two (fun e => only (if sext 32 (q e) < sext 32 (p e) then q e else p e)) ∧
    both (.pairVVmaxI32 u h d a b) (.vmaxI32 d a b) two (fun e => only (if sext 32 (p e) < sext 32 (q e) then q e else p e)) ∧
    both (.pairVVand u h d a b) (.vand d a b) two (fun e => only (p e &&& q e)) ∧ both (.pairVVor u h d a b) (.vor d a b) two (fun e => only (p e ||| q e)) ∧
    both (.pairVVxor u h d a b) (.vxor d a b) two (fun e => only (p e ^^^ q e)) ∧
    both (.pairVVmov u h d a) (.vmov d a) (runRefs 1 row [pairSrc a] false) (fun e => only (p e)) ∧
    both (.pairVVaddF32 u h d a b) (.vaddF32 d a b) two (flt (fun x y => flagged (sumVal .rne [x, y]))) ∧
    both (.pairVVsubF32 u h d a b) (.vsubF32 d a b) two (flt (fun x y => flagged (sumVal .rne [x, y.neg]))) ∧
    both (.pairVVmulF32 u h d a b) (.vmulF32 d a b) two (flt (fun x y => flagged (mulVal x y))) ∧
    both (.pairVVfmaF32 u h d a b) (.vfmaF32 d a b) (runRefs 1 row [pairSrc a, pairSrc b] true) (fun e => floatElem .fp32 (k e)
      (fused .rne (f32Val (p e)) (f32Val (q e)) (f32Val (o e)))) ∧
    both (.pairVVminF32 u h d a b) (.vminF32 d a b) two (fun e => only (chosen .fp32 true (p e) (q e))) ∧
    both (.pairVVmaxF32 u h d a b) (.vmaxF32 d a b) two (fun e => only (chosen .fp32 false (p e) (q e)))

/-! ### Memory, rings, engines and records -/

/-- O36 (R290, R291, R292): `hbuild` makes a handle of four registers, lowest quarter first; `hread` reads a quarter; `hview`
gives the view of tile (a, b): BASE moved to the tile's first element, the first two extents clipped, all else as it was. A tile
outside the extents, a Stream handle, or a second index of a handle of rank 1 raise PERM, a 4-bit view that would begin at an
odd element ALIGN, an illegal handle ILL. That PERM on a reserved die reports BASE in TVAL is the model's reading (log entry
29), and tile sizes of 1 for hview without a stitch are its choice (log entry 20). -/
def Obligations.Handles : Prop :=
  ∀ (u : Hdr) (h g : BitVec 4) (a b d : BitVec 5) (q : BitVec 2) (s : State),
    let p := s.me.hget g
    let t0 := (s.kore.stitch.map (·.t0)).getD 1
    let t1 := (s.kore.stitch.map (·.t1)).getD 1
    let x0 := (s.sget a).toNat * t0
    let x1 := (s.sget b).toNat * t1
    let o := x0 + x1 * hfield p 170 20
    let inside : Prop := hSpace p ≠ .stream ∧ x0 < hExt p 0 ∧ x1 < hExt p 1 ∧ (hRank p = 1 → s.sget b = 0)
    let pair : Word := (s.sget b).setWidth 32 ++ (s.sget a).setWidth 32
    (passes (.hbuild u h a) s → s.me.mode = true → ∃ v : HBits, completes (.hbuild u h a) s (s.me.hset h v) ∧
      ∀ k, k < 4 → v.extractLsb' (64 * k) 64 = s.sget (a + BitVec.ofNat 5 k)) ∧
    writes (.hread u d h q) s d ((s.me.hget h).extractLsb' (64 * q.toNat) 64) ∧
    (passes (.hview u h g a b) s →
      (hLegal p = false → traps (.hview u h g a b) s { cause := 0x01, tval := parcelsWord (.hview u h g a b) }) ∧
      (hLegal p = true → reservedDie (hBase p) = true →
        traps (.hview u h g a b) s { cause := 0x0C, tval := (hBase p).setWidth 64 }) ∧
      (hLegal p = true → reservedDie (hBase p) = false →
        (¬ inside → traps (.hview u h g a b) s { cause := 0x0C, tval := pair }) ∧
        (inside → hWidth p = 4 → o % 2 = 1 → traps (.hview u h g a b) s { cause := 0x05, tval := pair }) ∧
        (inside → (hWidth p = 4 → o % 2 = 0) → ∃ v : HBits, completes (.hview u h g a b) s (s.me.hset h v) ∧
          hBase v = hBase p + BitVec.ofNat 56 (o * hWidth p / 8) ∧
          hfield v 106 16 = min t0 (hExt p 0 - x0) % 65536 ∧ hfield v 122 16 = min t1 (hExt p 1 - x1) % 65536 ∧
          ∀ i, i < 36 ∨ (92 ≤ i ∧ i < 106) ∨ 138 ≤ i → v.getLsbD i = p.getLsbD i)))

/-- O37 (R276, R277, R279, R280, R281, R32, R208, R255, R259, R273): the loads. Enabled elements take what lies at their
addresses, elements past the end of the tile 0, and the other elements stay; a Fixed element that a valid replica holds comes
from the replica (R245). The row is poisoned by a block it read, by a poisoned index row and by its old poison where a lane is
suppressed; lx is the row, PS of the handle rises for a poisoned block; and no byte of memory changes but for the replica bits
in the region's descriptor, which a Fixed load may set. An index outside the tile fails its lane: the other lanes are loaded,
and PERM names the failed ones with TVAL = BASE. A misaligned BASE, and an odd first element of 4 bits, raise ALIGN; elements
outside the region, or under `.here` outside the region area, raise PERM with their lanes, and a run of another role or
generation ROLE, and nothing is loaded. That a lane with one failed element, such as an index outside the tile, is not written
at all, its other narrow elements included, and that PS is set by poison of the data and not by a poisoned index row, is the
model's reading (log entry 29); that S[A] + i does not wrap is its choice (log entry 83), and which replicas exist is an opaque
choice (log entry 13). The order of the sources by which POISON names a row is the model's reading (log entry 24). What `.here`
checks, element by element and PERM first, is its reading (log entry 9). -/
def Obligations.Loads : Prop :=
  ∀ (u : Hdr) (ew : EW) (hre : Bool) (d idx : Row) (h : BitVec 4) (a : BitVec 5) (s : State) (k : BitVec 56 → Nat),
    let hb := s.me.hget h
    let w := ewBits ew
    let tile := tileOf hb w
    let index := runRefs ew.indexRows idx [.row idx] false
    let gets (i : Instr) (sp : Space) (refs : List Ref) (gather : Bool) (num : Nat → Nat) : Prop :=
      let lanes := lanesOf i s
      let all := picks w lanes num
      let lost (l : Nat) : Bool := gather && all.any (fun p => p.lane == l && decide (tile.count ≤ p.e))
      let on (l : Nat) : Bool := lanes.getLsbD l && !lost l
      let some' := (List.range 64).any on
      let els := insideElems tile all
      let copy (va : BitVec 56) : Option Replica := if sp = .fixed ∧ hre = false then replicaOf s hb va else none
      let far := els.filter (fun e => (copy e.va).isNone)
      let value (va : BitVec 56) (hi : Bool) : Nat := match copy va with
        | some c => (c.elem va w hi).1
        | none => readElem s (k va) w hi
      let bad := els.any (fun e => match copy e.va with
        | some c => (c.elem e.va w e.hi).2
        | none => s.blockPoison (k e.va))
      let old := s.rowGet d
      let odd : Prop := w = 4 ∧ gather = false ∧ num 0 % 2 = 1
      owns s .m → lanes ≠ 0 → (s.me.pure = true → sp = .fixed ∧ hDv hb = true) →
      (shaped hb sp w → (hBase hb).toNat % elemBytes w ≠ 0 ∨ odd → traps i s (misaligned hb lanes)) ∧
      (fits hb sp w → ¬ odd → stalls i s refs [d] ∧ (readable s refs → (∀ n, d = .b n → canTake s s.cur n.toNat = true) →
        ((s.kore.reserved.map (·.1)).Nodup → denies i s hb hre w far ∧
          (gather = true → els = [] → traps i s (lostLanes hb lost))) ∧
        (s.me.absent = [] → reaches s hb sp { rd := true } hre w far k →
          ∃ t, (if (List.range 64).any lost then exec i s = .next (trapped t (lostLanes hb lost)) else yields i s t) ∧
          rowsKept s t (if some' then [d] else []) ∧
          (∀ e, e < 2048 / w → elem w (t.rowGet d).bits e =
            if on (e * w / 32) then (if num e < tile.count then value (tile.addr (num e)).1 (tile.addr (num e)).2 else 0) % 2 ^ w
            else elem w old.bits e) ∧
          (t.rowGet d).poison = (if some' then bad || refs.any (fun r => (Ref.at s r).poison) || (!(List.range 64).all on && old.poison)
            else old.poison) ∧
          t.me.lx = (if some' then t.rowGet d else s.me.lx) ∧ t.me.preds = s.me.preds ∧
          (∀ g, t.me.hget g = if g = h ∧ bad = true then hb ||| (1#256 <<< 253) else s.me.hget g) ∧
          t.me.flnv = s.me.flnv ∧ t.me.fldz = s.me.fldz ∧ t.me.flof = s.me.flof ∧ t.me.fluf = s.me.fluf ∧
          t.me.flnx = s.me.flnx ∧ t.kore.stitch = s.kore.stitch ∧ t.poison = s.poison ∧
          (∀ n, { t.die n with replicas := [] } = { s.die n with replicas := [] }) ∧
          (∀ j, (let f := rgnKey s (homeOf (hBase hb)) (hRegion hb) + 0x18
                 sp = .fixed ∧ hre = false ∧ f ≤ j ∧ j < f + 8) ∨ t.byte j = s.byte j))))
    let first (e : Nat) : Nat := (s.sget a).toNat + e
    gets (.ldf u ew hre d h a) .fixed [] false first ∧ gets (.ldl u ew hre d h a) .loose [] false first ∧
    gets (.ldfg u ew hre d h idx) .fixed index true (indexOf s idx) ∧ gets (.ldlg u ew hre d h idx) .loose index true (indexOf s idx)

/-- O38 (R31, R208, R259, R273, R276, R277, R280, R281): the stores. The enabled elements inside the tile are written at their
addresses, a scatter's in ascending order and a plain store's in an order left open (R282), and no other byte changes; a
poisoned source poisons every block written to, and a clean one cleans the blocks it writes whole. The strand, the cores and the
clusters stay as they were; a die's trackers may count (R354), and where the store writes the STATE byte of a region's
descriptor and so frees the region, what the die remembers of it goes (R257, R321). An index outside the tile fails its element:
the elements inside are written, and PERM names the lanes that hold the others, with TVAL = BASE. ALIGN, and PERM and ROLE of
the home, are as for the loads, and nothing is written. That a lane with one failed element stores none of its elements is the
model's reading (log entry 29), and that S[A] + i does not wrap its choice (log entry 83). Which handle is the declared output
is the model's reading (log entry 49). The order of the sources by which POISON names a row is the model's reading (log entry
24). What `.here` checks, element by element and PERM first, is its reading (log entry 9). -/
def Obligations.Stores : Prop :=
  ∀ (u : Hdr) (ew : EW) (hre : Bool) (src : RowSrc) (idx : Row) (h : BitVec 4) (a : BitVec 5) (s : State) (k : BitVec 56 → Nat),
    let hb := s.me.hget h
    let w := ewBits ew
    let tile := tileOf hb w
    let index := runRefs ew.indexRows idx [.row idx] false
    let puts (i : Instr) (refs : List Ref) (scatter : Bool) (num : Nat → Nat) : Prop :=
      let lanes := lanesOf i s
      let all := picks w lanes num
      let lost (l : Nat) : Bool := scatter && all.any (fun p => p.lane == l && decide (tile.count ≤ p.e))
      let els := insideElems tile all
      let cell (e : Elem) := elemCells (k e.va) w e.hi (elem w (Ref.at s (rowSrcRef src)).bits e.i)
      let cells := els.flatMap cell
      let bad := refs.any (fun r => (Ref.at s r).poison)
      let odd : Prop := w = 4 ∧ scatter = false ∧ num 0 % 2 = 1
      owns s .w → lanes ≠ 0 → (s.me.pure = true → isOutput s h = true) →
      (shaped hb .loose w → (hBase hb).toNat % elemBytes w ≠ 0 ∨ odd → traps i s (misaligned hb lanes)) ∧
      (fits hb .loose w → ¬ odd → stalls i s refs [] ∧ (readable s refs →
        denies i s hb hre w els ∧
        (reaches s hb .loose { wr := true } hre w els k → (∀ e ∈ els, trackFull s e.va = false) →
          ∃ t, (if (List.range 64).any lost then exec i s = .next (trapped t (lostLanes hb lost))
              else exec i s = .next (after t s.me (past i s))) ∧
          (∃ order : List Elem, order.Perm els ∧ (scatter = true → order = els) ∧
            ∀ j, t.byte j = written (order.flatMap cell) j (s.byte j)) ∧
          (∀ j, t.blockPoison j = if cells.any (fun c => c.1 / 256 == j / 256)
            then bad || (s.blockPoison j && !(List.range 256).all (fun o => cells.any (fun c => c.1 == 256 * (j / 256) + o && c.2.2 == .full)))
            else s.blockPoison j) ∧
          (∀ n, { t.die n with tracks := [], sampler := [], rgnx := [], bounds := [] } =
            { s.die n with tracks := [], sampler := [], rgnx := [], bounds := [] }) ∧
          ((∀ c ∈ cells, descOf s c.1 = none) → ∀ n, { t.die n with tracks := [] } = { s.die n with tracks := [] }) ∧
          t = { s with mem := t.mem, poison := t.poison, dies := t.dies })))
    puts (.stl u ew hre src h a) [rowSrcRef src] false (fun e => (s.sget a).toNat + e) ∧
    puts (.stls u ew hre src h idx) (index ++ [rowSrcRef src]) true (indexOf s idx)

/-- O39 (R246, R247, R284, R285, R286, R287): the rings. `sts` writes its row at WROW of slot W, and completes the slot's
header and advances W with its last row; `sts.eos` fills the rows of a partial slot that no earlier try of it has stored with
zeros, then writes the end slot; `lds` takes row RROW of slot R, or the end, into a row with its predicates and PS; `sptr` reads
a pointer. A side is bound by its first use that completes, and another strand's use of a bound side, or a row after the end,
raises PERM with the slot's address and binds nothing. A row or an end for a full ring and a read of an empty one wait, their
request at the home, or raise WAIT when LIM is 0 (R113). No other byte of memory changes. That sts, sts.eos and lds check no
alignment, so that they complete through a misaligned BASE, is the model's reading (log entry 29), and so is that an sts.eos
binds the producer side (log entry 84). Which home serves a ring, and that POISON of a slot is ORed also by its first row, is
the model's reading (log entry 30). The binding of a strand that runs no stitch is its choice (log entry 66), and that a request
which waits at a ring's home is one it has taken is its reading (log entry 70). -/
def Obligations.Rings : Prop :=
  ∀ (u : Hdr) (src : RowSrc) (h : BitVec 4) (lim : BitVec 12) (pd : BitVec 3) (dst : Row) (d : BitVec 5) (s : State) (k : Nat),
    let hb := s.me.hget h
    let n := homeOf (hBase hb)
    let r := hRegion hb
    let z := ringZ s n r
    let slots := ringN s n r
    let ptr (t : State) (w : Nat) : Nat := t.num (k + ringWordAt s n r w) 8
    let flags (t : State) (j : Nat) : Nat := t.num (k + slotHeadAt s n r j) 8
    let seq (t : State) (j : Nat) : Nat := t.num (k + slotHeadAt s n r j + 8) 8
    let rowAt (t : State) (j i : Nat) : PRow := t.rowAt (k + j * z + 256 * i)
    let slotVa (j : Nat) : Word := (rgnVa s n r (j * z)).setWidth 64
    let num (b : Bool) : Nat := if b then 1 else 0
    let W := ptr s 0
    let R := ptr s 1
    let C := ptr s 2
    let wrow := ptr s 3
    let rrow := ptr s 4
    let x := s.rgnx n r
    let row := Ref.at s (rowSrcRef src)
    let all (b : Bool) : Pred := ⟨if b then BitVec.allOnes 64 else 0, b⟩
    let keeps (t : State) (cs : List (Nat × Nat)) (ws : List Nat) : Prop :=
      ∀ j, (∀ c ∈ cs, j < k + c.1 ∨ k + c.1 + c.2 ≤ j) → (∀ w ∈ ws, j < k + ringWordAt s n r w ∨ k + ringWordAt s n r w + 8 ≤ j) →
        t.byte j = s.byte j
    let producer (i : Instr) (t : State) : Prop :=
      exec i s = .next (after t s.me (past i s)) ∧ ptr t 5 = bindWord s ∧
        t = { s with mem := t.mem, poison := t.poison, cores := t.cores, dies := t.dies } ∧
        t.kore = { s.kore with stitch := s.kore.stitch.map (fun y => { y with restartable := false }) } ∧
        (∀ c, c ≠ s.myCore → t.core c = s.core c) ∧ (∀ m, m ≠ n → t.die m = s.die m) ∧
        { t.die n with rgnx := [] } = { s.die n with rgnx := [] } ∧ (∀ q, q ≠ r → t.rgnx n q = s.rgnx n q)
    let checks (own : Bool) : Prop := homeCheck s s.myTenant hb own 1 [(0, rgnVa s n r 0)] = .ok
    let other (w : Nat) : Prop := ptr s w ≠ 0 ∧ ptr s w ≠ bindWord s
    let since (kind : WaitKind) : Option Wait := some ⟨kind, s.cycle, some (16 * lim.toNat)⟩
    let atHome : Option HeldReq := if rgnState s n r = 2 then s.me.taken else some ⟨n, r, .stream, [(rgnVa s n r 0).toNat / 65536]⟩
    let waitTrap (p q : Nat) : TrapInfo :=
      { cause := 0x09, tval := BitVec.ofNat 64 (3 * 2 ^ 60 + h.toNat * 2 ^ 56 + p % 2 ^ 28 * 2 ^ 28 + q % 2 ^ 28) }
    let unrun (v : State) : Prop := (∀ c, c ≠ s.myCore → v.core c = s.core c) ∧
      v.kore = { s.kore with stitch := s.kore.stitch.map (fun y => { y with restartable := false }) }
    let stops (i : Instr) (v : State) (held : List PRow) (w : Nat) : Prop :=
      (lim = 0 → exec i s = .next (trapped v (waitTrap w C))) ∧
      (lim ≠ 0 → exec i s = .next (v.setMe { s.me with held := held, taken := atHome, wait := since (.sts h hb) }).tick)
    ringAt s hb k → s.me.absent = [] → C ≤ W → W + 2 < 2 ^ 64 → (wrow + 1) * 256 ≤ z → (rrow + 1) * 256 ≤ z → R < 2 ^ 64 - 1 →
    (passes (.sts u src h lim) s → owns s .w → s.me.held = [] → checks (ringOwn s n r 5) →
      (∀ b, rowSrcRef src = .row (.b b) → s.kore.isFull b.toNat = true) →
      (other 5 → traps (.sts u src h lim) s { cause := 0x0C, tval := slotVa (W % slots) }) ∧
      (ptr s 5 = bindWord s → x.ended = true → traps (.sts u src h lim) s { cause := 0x0C, tval := slotVa (W % slots) }) ∧
      (ptr s 5 = 0 ∨ ptr s 5 = bindWord s → x.ended = false → slots ≤ W - C → s.me.wait = none → s.me.arrived = false →
        ∃ v : State, v = { s with cores := v.cores } ∧ unrun v ∧ stops (.sts u src h lim) v [row] W) ∧
      (ptr s 5 = 0 ∨ ptr s 5 = bindWord s → x.ended = false → W - C < slots →
        let j := W % slots
        let bad := bit (flags s j) 1 || row.poison
        ∃ t, producer (.sts u src h lim) t ∧ rowAt t j wrow = row ∧
          (∀ q, q / 256 ≠ (k + j * z + 256 * wrow) / 256 → t.blockPoison q = s.blockPoison q) ∧
          keeps t [(j * z + 256 * wrow, 256), (slotHeadAt s n r j, 16)] [0, 3, 5] ∧
          (if (wrow + 1) * 256 = z then
            flags t j = 2 * num bad + 256 * (z / 256 % 256) ∧ seq t j = W ∧ ptr t 0 = W + 1 ∧ ptr t 3 = 0 ∧
              t.rgnx n r = { x with ringPoison := x.ringPoison || bad }
          else
            flags t j = flags s j / 4 * 4 + 2 * num bad + flags s j % 2 ∧ seq t j = seq s j ∧ ptr t 0 = W ∧ ptr t 3 = wrow + 1 ∧ t.rgnx n r = x))) ∧
    (passes (.stsEos u h lim) s → owns s .w → s.me.held = [] → checks (ringOwn s n r 5) → other 5 →
      traps (.stsEos u h lim) s { cause := 0x0C, tval := slotVa (W % slots) }) ∧
    (passes (.stsEos u h lim) s → owns s .w → s.me.held = [] → checks (ringOwn s n r 5) → ptr s 5 = bindWord s → x.ended = true →
      traps (.stsEos u h lim) s { cause := 0x0C, tval := slotVa (W % slots) }) ∧
    (passes (.stsEos u h lim) s → owns s .w → s.me.held = [] → checks (ringOwn s n r 5) →
      ptr s 5 = 0 ∨ ptr s 5 = bindWord s → x.ended = false →
      (wrow = 0 → W - C < slots → ∃ t, producer (.stsEos u h lim) t ∧ t.poison = s.poison ∧
        keeps t [(slotHeadAt s n r (W % slots), 16)] [0, 3, 5] ∧
        flags t (W % slots) = 1 + 2 * num x.ringPoison ∧ seq t (W % slots) = W ∧ ptr t 0 = W + 1 ∧ ptr t 3 = 0 ∧
        t.rgnx n r = { x with ended := true }) ∧
      (wrow ≠ 0 → W + 1 - C < slots →
        let j := W % slots
        let e := (W + 1) % slots
        let bad := bit (flags s j) 1
        let first := wrow + s.me.saved
        ∃ t, producer (.stsEos u h lim) t ∧ (∀ i, first ≤ i → 256 * (i + 1) ≤ z → rowAt t j i = ⟨0, false⟩) ∧
          (∀ q, q < k + j * z + 256 * first ∨ k + j * z + z ≤ q → q / 256 ≠ (k + j * z + z - 1) / 256 →
            q / 256 ≠ (k + j * z + 256 * first) / 256 → t.blockPoison q = s.blockPoison q) ∧
          keeps t [(j * z + 256 * first, z - 256 * first), (slotHeadAt s n r j, 16), (slotHeadAt s n r e, 16)] [0, 3, 5] ∧
          flags t j = 2 * num bad + 256 * (wrow % 256) ∧ seq t j = W ∧
          flags t e = 1 + 2 * num (x.ringPoison || bad) ∧ seq t e = W + 1 ∧ ptr t 0 = W + 2 ∧ ptr t 3 = 0 ∧
          t.rgnx n r = { x with ringPoison := x.ringPoison || bad, ended := true }) ∧
      (wrow = 0 → slots ≤ W - C → s.me.wait = none → s.me.arrived = false →
        ∃ v : State, v = { s with cores := v.cores } ∧ unrun v ∧ stops (.stsEos u h lim) v [] W) ∧
      (wrow ≠ 0 → s.me.saved = 0 → W - C < slots → slots ≤ W + 1 - C → s.me.wait = none → s.me.arrived = false →
        let j := W % slots
        let bad := bit (flags s j) 1
        ∃ v : State, v = { s with mem := v.mem, poison := v.poison, cores := v.cores, dies := v.dies } ∧ unrun v ∧
          (∀ m, m ≠ n → v.die m = s.die m) ∧ { v.die n with rgnx := [] } = { s.die n with rgnx := [] } ∧
          (∀ q, q ≠ r → v.rgnx n q = s.rgnx n q) ∧ v.rgnx n r = { x with ringPoison := x.ringPoison || bad } ∧
          (∀ i, wrow ≤ i → 256 * (i + 1) ≤ z → rowAt v j i = ⟨0, false⟩) ∧
          keeps v [(j * z + 256 * wrow, z - 256 * wrow), (slotHeadAt s n r j, 16)] [0, 3] ∧
          flags v j = 2 * num bad + 256 * (wrow % 256) ∧ seq v j = W ∧ ptr v 0 = W + 1 ∧ ptr v 3 = 0 ∧
          stops (.stsEos u h lim) v [] (W + 1))) ∧
    (passes (.lds u pd dst h lim) s → owns s .m → s.me.held = [] → checks (ringOwn s n r 6) →
      (∀ b, dst = .b b → canTake s s.cur b.toNat = true) → (s.kore.reserved.map (·.1)).Nodup → other 6 →
      traps (.lds u pd dst h lim) s { cause := 0x0C, tval := slotVa (R % slots) }) ∧
    (passes (.lds u pd dst h lim) s → owns s .m → s.me.held = [] → checks (ringOwn s n r 6) →
      (∀ b, dst = .b b → canTake s s.cur b.toNat = true) → (s.kore.reserved.map (·.1)).Nodup →
      ptr s 6 = 0 ∨ ptr s 6 = bindWord s → W ≤ R → s.me.wait = none → s.me.arrived = false →
      (lim = 0 → traps (.lds u pd dst h lim) s (waitTrap W R)) ∧
      (lim ≠ 0 → ∃ t : State, exec (.lds u pd dst h lim) s = .next t.tick ∧ t = { s with strands := t.strands, cores := t.cores } ∧
        t.me = { s.me with taken := atHome, wait := since (.lds h hb) } ∧ (∀ m, m ≠ s.cur → t.strand m = s.strand m) ∧
        t.kore = { s.kore with reserved := t.kore.reserved } ∧ (∀ c, c ≠ s.myCore → t.core c = s.core c) ∧
        ∀ b, reservedBy t.kore b = if bandRows [dst] = [b] then some s.cur else reservedBy s.kore b)) ∧
    (passes (.lds u pd dst h lim) s → owns s .m → s.me.held = [] → checks (ringOwn s n r 6) →
      (∀ b, dst = .b b → canTake s s.cur b.toNat = true) →
      ptr s 6 = 0 ∨ ptr s 6 = bindWord s → R < W →
      let j := R % slots
      let eos := bit (flags s j) 0
      let bad := bit (flags s j) 1
      ∃ t, yields (.lds u pd dst h lim) s t ∧ rowsKept s t [dst] ∧
        t.rowGet dst = ⟨if eos then 0 else (rowAt s j rrow).bits, bad⟩ ∧ t.me.lx = t.rowGet dst ∧
        t.me.preds = ((s.me.pset pd (all eos)).pset (pd + 1) (all !eos)).preds ∧
        (∀ g, t.me.hget g = if g = h ∧ bad = true then hb ||| (1#256 <<< 253) else s.me.hget g) ∧
        t.me.flnv = s.me.flnv ∧ t.me.fldz = s.me.fldz ∧ t.me.flof = s.me.flof ∧ t.me.fluf = s.me.fluf ∧ t.me.flnx = s.me.flnx ∧
        t.kore.stitch = s.kore.stitch.map (fun y => if y.rings.contains (n, r) then y else { y with rings := (n, r) :: y.rings }) ∧
        t.dies = s.dies ∧ t.poison = s.poison ∧ keeps t [] [1, 4, 6] ∧ ptr t 6 = bindWord s ∧
        (if eos = true ∨ (rrow + 1) * 256 = z then ptr t 1 = R + 1 ∧ ptr t 4 = 0 else ptr t 1 = R ∧ ptr t 4 = rrow + 1)) ∧
    (checks (ringOpen s n r) → writes (.sptrW u d h) s d (BitVec.ofNat 64 W) ∧ writes (.sptrR u d h) s d (BitVec.ofNat 64 R) ∧
      writes (.sptrC u d h) s d (BitVec.ofNat 64 C))

/-- O40 (R221, R277, R283, R41, R42, R45): the Accrue updates. Each enabled element inside the tile gives one update, in
ascending order. While no update of its stitch to its element waits in the merge window and there is room, it enters the window;
one that meets such an update of its kind there is merged into it; when the window is full the oldest update moves to the
staging buffer; after an early commit it is released to its home. Memory is not changed by the instruction itself. That sacc
POISON counts the block of the element is the model's reading (log entry 50). That 64-bit forms with odd lanes enabled alone
send nothing and make their checks all the same (log entry 60), and that S[A] + i does not wrap (log entry 83), is its choice. -/
def Obligations.AccrueUpdates : Prop :=
  ∀ (u : Hdr) (f : AfSrc) (src : RowSrc) (h : BitVec 4) (a : BitVec 5) (s : State),
    let hb := s.me.hget h
    let row := Ref.at s (rowSrcRef src)
    let c := s.cluster s.myCluster
    let int (o w x : Nat) : AccOp := .int o w (BitVec.ofNat 64 (x % 2 ^ w))
    let sends (i : Instr) (fmts : List Fmt) (w : Nat) (op : Nat → AccOp) : Prop :=
      let els := insideElems (tileOf hb (hWidth hb)) (picks w (lanesOf i s) (fun e => (s.sget a).toNat + e))
      let entry (e : Elem) : AccEntry :=
        { id := s.myLaunch, lin := (s.kore.stitch.map (·.lin)).getD 0, core := s.myCore, tenant := s.myTenant, handle := hb
          va := e.va, op := op (elem w row.bits e.i), poison := row.poison }
      let early := (s.kore.stitch.map (·.early)).getD false
      let fresh : Prop := ∀ e ∈ els, ∀ y ∈ c.window, y.same (entry e) = false
      owns s .w → lanesOf i s ≠ 0 → hLegal hb = true → hSpace hb = .accrue → reservedDie (hBase hb) = false →
        vaDie (hBase hb) ≠ 31 → (∃ g ∈ fmts, hFmt hb = some g) → (s.me.pure = true → isOutput s h = true) →
        (hBase hb).toNat % elemBytes (hWidth hb) = 0 → readable s [rowSrcRef src] →
        ∃ t, exec i s = .next (after t s.me (past i s)) ∧ t = { s with cores := t.cores, clusters := t.clusters, dies := t.dies } ∧
          (early = true → t.clusters = s.clusters ∧ t.cores = s.cores ∧
            ∀ d, (t.die d).released = (s.die d).released ++ (els.filter (fun e => homeOf e.va == d)).map entry) ∧
          (early = false → fresh → (els.map (·.va)).Nodup → c.window.length + els.length ≤ 64 →
            t.dies = s.dies ∧ t.cores = s.cores ∧ onlyCluster s t s.myCluster ∧
            t.cluster s.myCluster = { c with window := c.window ++ els.map entry }) ∧
          (∀ e p y q o, early = false → els = [e] → c.window = p ++ y :: q → (∀ z ∈ p, z.same (entry e) = false) →
            y.same (entry e) = true → y.op.merge (entry e).op = some o →
            onlyCluster s t s.myCluster ∧
            t.cluster s.myCluster = { c with window := p ++ { y with op := o, poison := y.poison || row.poison } :: q }) ∧
          (∀ e y q, early = false → els = [e] → fresh → c.window = y :: q → q.length = 63 → c.staging.length + 1 < 65536 →
            ((s.clusters.flatMap (fun z => z.2.staging)).filter (AccEntry.of y.id y.lin)).length + 1 <
              ((stitchOf s y.id y.lin).map (·.stageQ)).getD 65536 →
            onlyCluster s t s.myCluster ∧
            t.cluster s.myCluster = { c with window := q ++ [entry e], staging := c.staging ++ [y] })
    sends (.accAddI32 u src h a) [.int32, .u32] 32 (int 0 32) ∧ sends (.accAddI64 u src h a) [.int64] 64 (int 0 64) ∧
    sends (.accAddAf u f src h a) [.af128] (afSrcFmt f).width (fun x =>
      let r := afAddend (hAflsb hb) (decodeFmt (afSrcFmt f) x).1
      .af r.1 r.2) ∧
    sends (.accMinI32 u src h a) [.int32] 32 (int 1 32) ∧ sends (.accMaxI32 u src h a) [.int32] 32 (int 2 32) ∧
    sends (.accAnd u src h a) [.int32, .u32] 32 (int 3 32) ∧ sends (.accOr u src h a) [.int32, .u32] 32 (int 4 32) ∧
    sends (.accXor u src h a) [.int32, .u32] 32 (int 5 32)

/-- O41 (R249, R254, R288, R289): the atomics, performed at a present page with nothing pending. Memory takes the new value and
the register the old one, sign-extended from 32 bits unless the form is unsigned; no other byte changes, and the stitch can no
longer be run again from its start. What a die remembers of a region goes where the atomic frees it through its descriptor. -/
def Obligations.Atomics : Prop :=
  ∀ (u : Hdr) (f : AmoF) (d : BitVec 5) (h : BitVec 4) (a : BitVec 5) (s : State) (k : Nat),
    let hb := s.me.hget h
    let w := if f.w64 then 64 else 32
    let n := w / 8
    let tile := tileOf hb w
    let va := (tile.addr (s.sget a).toNat).1
    let old := s.num k n
    let x := (s.sget d).toNat % 2 ^ w
    let y := (s.sget (d + 1)).toNat % 2 ^ w
    let less (p q : Nat) : Bool := if f.uns then decide (p < q) else decide ((BitVec.ofNat w p).toInt < (BitVec.ofNat w q).toInt)
    let acts (i : Instr) (new : Nat) : Prop :=
      passes i s → owns s .w → fits hb .loose w → s.me.pure = false → (s.sget a).toNat < tile.count → va.toNat % n = 0 →
        s.me.amoReply = none → s.me.taken = none → homeCheck s s.myTenant hb false n [(0, va)] = .ok → placed s .loose va { rd := true, wr := true } k →
        pendingPage s .loose (pageAt s .loose va) = false →
        ∃ t, exec i s = .next (after t (s.me.sset d (if f.w64 || f.uns then BitVec.ofNat 64 old
            else (BitVec.ofNat 32 old).signExtend 64)) (past i s)) ∧
          t.num k n = new ∧ (∀ j, j < k ∨ k + n ≤ j → t.byte j = s.byte j) ∧
          t = { s with mem := t.mem, cores := t.cores, dies := t.dies } ∧
          ((∀ j, j < n → descOf s (k + j) = none) → t.dies = s.dies) ∧
          (∀ m, { t.die m with sampler := [], rgnx := [], bounds := [] } = { s.die m with sampler := [], rgnx := [], bounds := [] }) ∧
          t.kore = { s.kore with stitch := s.kore.stitch.map (fun q => { q with restartable := false }) } ∧
          (∀ c, c ≠ s.myCore → t.core c = s.core c)
    acts (.amoSwap u f d h a) x ∧ acts (.amoCas u f d h a) (if old = x then y else old) ∧
    acts (.amoAdd u f d h a) ((old + x) % 2 ^ w) ∧ acts (.amoMin u f d h a) (if less old x then old else x) ∧
    acts (.amoMax u f d h a) (if less old x then x else old) ∧ acts (.amoAnd u f d h a) (old &&& x) ∧
    acts (.amoOr u f d h a) (old ||| x)

/-- O42 (R55, R172, R176, R191, R193, R197, R198, R199): band rows, tokens and completion entries. `bfree` empties and cleans
its rows and keeps their content; a take waits for its count and subtracts it, behind the older takes that wait; a give adds up
to 63 and marks an overflow; `cpwait` goes on once WPTR has reached the target; `cqpop` removes the oldest entry, but for those
that older waiting pops are due. What cannot proceed waits, or raises WAIT when LIM is 0. -/
def Obligations.BandTokens : Prop :=
  ∀ (u : Hdr) (b : BitVec 9) (n : BitVec 12) (q : BitVec 3) (m : BitVec 6) (lim : BitVec 12) (ch e : BitVec 2) (a d : BitVec 5)
    (s : State),
    let core (i : Instr) (k : Core) (x : Strand) : Prop := exec i s = .next (after (s.setKore k) x (past i s))
    let t := s.kore.tq q.toNat
    let count := t.count
    let wp := s.kore.wptrOf ch.toNat
    let eng := s.kore.engine e.toNat
    let behind := olderTake s s.myCore q.toNat (ageOf s s.cur) (numOf s.cur)
    let pops := olderPops s e.toNat
    (passes (.bfree u b n) s → b.toNat + n.toNat ≤ 512 → ∃ k : Core, core (.bfree u b n) k s.me ∧
      k = { s.kore with band := k.band, full := k.full } ∧
      (∀ j, k.isFull j = (s.kore.isFull j && !(decide (b.toNat ≤ j) && decide (j < b.toNat + n.toNat)))) ∧
      ∀ j, tget {} k.band j = if b.toNat ≤ j ∧ j < b.toNat + n.toNat then { tget {} s.kore.band j with poison := false }
        else tget {} s.kore.band j) ∧
    (passes (.tokTake u q m lim) s → s.me.pure = false →
      (m.toNat ≤ count → m = 0 ∨ behind = false → core (.tokTake u q m lim) (s.kore.setTq q.toNat { t with count := count - m.toNat }) s.me) ∧
      (count < m.toNat ∨ (m ≠ 0 ∧ behind = true) → waits (.tokTake u q m lim) s (.tok q.toNat m.toNat) lim
        (2 ^ 60 + q.toNat * 2 ^ 56 + count * 2 ^ 28 + m.toNat))) ∧
    (passes (.tokGive u q m) s → core (.tokGive u q m) (s.kore.setTq q.toNat
      { count := min (count + m.toNat) 63, ovf := t.ovf || decide (63 < count + m.toNat) }) s.me) ∧
    (passes (.cpwait u ch a lim) s →
      ((wp - s.sget a).msb = false → completes (.cpwait u ch a lim) s s.me) ∧
      ((wp - s.sget a).msb = true → waits (.cpwait u ch a lim) s (.cpwait ch.toNat (s.sget a)) lim
        (2 * 2 ^ 60 + ch.toNat * 2 ^ 56 + wp.toNat % 2 ^ 28 * 2 ^ 28 + (s.sget a).toNat % 2 ^ 28))) ∧
    (s.me.pure = false → writes (.rdwptr u d ch) s d wp) ∧
    (passes (.cqpop u d e lim) s →
      (∀ v, eng.comp[pops]? = some v →
        core (.cqpop u d e lim) (s.kore.setEngine e.toNat { eng with comp := eng.comp.eraseIdx pops }) (s.me.sset d v)) ∧
      (eng.comp.length ≤ pops → waits (.cqpop u d e lim) s (.cqpop e.toNat) lim
        (5 * 2 ^ 60 + e.toNat * 2 ^ 56 + queuedFor s s.myCore e.toNat)))

/-- O43 (R179, R187, R190, R196, R240): an engine command is captured, with its parcels, its scalar, its handle and the
engine's next sequence number, into the queue of its engine; the strand moves on, and nothing else changes. A full queue makes
the strand wait, under WLIM, and an older command that waits for a place goes first; a scatter-accumulate through a handle of
the host window raises PERM (R326). That of several strands which wait for a place in a queue the oldest goes first (log entry
32), and that a scatter-accumulate through a handle of another format is captured (log entry 63), is the model's reading. -/
def Obligations.EngineCommands : Prop :=
  ∀ (u : Hdr) (ch : BitVec 2) (b bi : BitVec 9) (h : BitVec 4) (a : BitVec 5) (w p : Option (BitVec 3)) (ty : SaccTy) (s : State),
    let hb := s.me.hget h
    let captures (i : Instr) (e : Nat) : Prop :=
      let x := s.kore.engine e
      (x.queue.length < 16 → olderCmds s e = 0 → exec i s = .next (after (s.setKore (s.kore.setEngine e { x with
        nextSeq := x.nextSeq + 1
        queue := x.queue ++ [{ parcels := parcelsWord i, scalar := s.sget a, handle := hb, strand := s.cur, seq := x.nextSeq, issued := s.cycle }] }))
        s.me (past i s))) ∧
      (16 ≤ x.queue.length → s.me.wlim ≠ 0 → s.me.wait = none → exec i s = .next (s.setMe { s.me with
        wait := some ⟨.cmdq e, s.cycle, some s.me.wlim⟩ }).tick) ∧
      (x.queue.length + olderCmds s e < 16 → olderCmds s e ≠ 0 → s.me.wait = none → exec i s = .next (s.setMe { s.me with
        wait := some ⟨.cmdq e, s.cycle, none⟩ }).tick)
    let sacc (i : Instr) : Prop :=
      passes i s → owns s .w → hLegal hb = true → reservedDie (hBase hb) = false →
        (vaDie (hBase hb) = 31 → traps i s { cause := 0x0C, tval := (hBase hb).setWidth 64 }) ∧
        (vaDie (hBase hb) ≠ 31 → (s.me.pure = true → isOutput s h = true) → captures i 2)
    (passes (.cpin u ch b h a w p) s → owns s .m → hLegal hb = true → (s.me.pure = true → hSpace hb = .fixed ∧ hDv hb = true) →
      captures (.cpin u ch b h a w p) 0) ∧
    (passes (.cpout u ch b h a w p) s → owns s .w → hLegal hb = true → (s.me.pure = true → isOutput s h = true) →
      captures (.cpout u ch b h a w p) 0) ∧
    sacc (.saccAdd u ty h bi b a) ∧ sacc (.saccMin u ty h bi b a) ∧ sacc (.saccMax u ty h bi b a) ∧
    sacc (.saccAnd u ty h bi b a) ∧ sacc (.saccOr u ty h bi b a) ∧ sacc (.saccXor u ty h bi b a)

/-- O44 (R204, R209, R210, R225, R227-R236, R238): a matrix command is captured when its core holds the lease, and uses a unit
of a command budget; an illegal handle raises ILL, and then want of the lease, or of a unit of a command budget, LEASE. `lease`
asks and waits, and goes on once its request has been granted; `unlease` ends the lease when nothing is queued or running, and
otherwise lets it end after that. The place of a panel in the vault is the model's choice (log entry 9), what is illegal is
found before the lease and the combination (log entry 23), and LEASE after a spent cycle budget is its reading (log entry 51).
That a command of a resumed stitch waits for the grant of the lease it comes back with is its choice (log entry 79). -/
def Obligations.MatrixCommands : Prop :=
  ∀ (u : Hdr) (x : MScale) (ta tb : MTy) (tc st sp res drop wh : Bool) (n : BitVec 5) (h : BitVec 4) (asrc : ASrc) (f : OutFmt)
    (b : Option (BitVec 9)) (budget : BitVec 22) (s : State) (l : Lease),
    let hb := s.me.hget h
    let hs := s.me.hget (hScale hb)
    let cl := s.cluster s.myCluster
    let eng := s.kore.engine 1
    let captures (i : Instr) (c : Cmd) : Prop :=
      passes i s → owns s .t → cl.queue.length < 16 → olderCmds s 1 = 0 →
      exec i s = .next (after ((s.setKore (s.kore.setEngine 1 { eng with nextSeq := eng.nextSeq + 1 })).setCluster s.myCluster
        { cl with
          queue := cl.queue ++ [{ c with parcels := parcelsWord i, seq := eng.nextSeq, strand := s.cur, issued := s.cycle }]
          lease := some (if l.byCycles then l else { l with left := l.left - 1 }) }) s.me (past i s))
    let panel (v : HBits) (g : Nat) : Prop :=
      let k := (projected cl).1.toNat
      (hSpace v = .fixed ∨ hSpace v = .loose) ∧ reservedDie (hBase v) = false ∧
        rgnBase s s.myDie (hRegion v) ≤ vaOff (hBase v) ∧ inArea s s.myCluster v ((k + n.toNat) / g * 16384 + 16384) = true ∧
        tagCheck s s.myCluster v (k / g * 16384) ((k + n.toNat) / g * 16384 + 16384) = .ok () ∧
        (s.me.pure = true → hSpace v = .fixed ∧ hDv v = true)
    let mma : Instr := .mma u x ta tb tc st sp n h asrc
    let drain : Instr := .mdrain u f res drop wh h b
    let denied (i : Instr) : Prop :=
      passes i s → owns s .t → cl.requests = [] →
        (∀ l', cl.lease = some l' → l'.core ≠ s.myCore ∨ (l'.byCycles = false ∧ l'.left = 0)) → traps i s { cause := 0x0F }
    let illegal (i : Instr) : Prop := passes i s → owns s .t → traps i s { cause := 0x01, tval := parcelsWord i }
    let asks (i : Instr) (byCycles : Bool) : Prop :=
      passes i s → owns s .t →
        (s.me.wait = none → (∀ l', cl.lease = some l' → l'.core ≠ s.myCore) → (∀ r ∈ cl.requests, r.core ≠ s.myCore) →
          exec i s = .next ((s.setCluster s.myCluster { cl with requests := cl.requests ++
            [{ core := s.myCore, strand := s.cur, byCycles := byCycles, budget := budget.toNat, at_ := s.cycle }] }).setMe
            { s.me with wait := some ⟨.lease, s.cycle, none⟩ }).tick) ∧
        (∀ c v, s.me.wait = some ⟨.lease, c, v⟩ → (∀ r ∈ cl.requests, r.strand ≠ s.cur) → completes i s s.me) ∧
        (s.me.wait = none → cl.lease = some l → l.core = s.myCore → traps i s { cause := 0x0F })
    (leased s l → captures (.mzero u) {}) ∧
    (leased s l → hLegal hb = true → (x ≠ .none → hLegal hs = true) → (∀ c ∈ pendingCmds cl, c.opc = 0x386 → c.done = true) →
      comboOk ta tb tc x sp = true → ((projected cl).1 ≠ 0 → (projected cl).2 = tc) →
      (x = .s128 → (n.toNat + 1) % 4 = 0 ∧ (projected cl).1.toNat % 4 = 0) → panel hb (stepsPerGranule tb) →
      (x ≠ .none → panel hs 64) → captures mma { handle := hb, handle2 := hs, lx := s.me.lx }) ∧
    (leased s l → (res = true ∨ wh = true → hLegal hb = true ∧ ∃ g, hFmt hb = some g ∧ drainFmtOk g = true) →
      (res = true → s.me.pure = false) → (wh = true → s.me.pure = true → isOutput s h = true) →
      captures drain { handle := hb, s1 := (s.sget 1).setWidth 32, s2 := (s.sget 2).setWidth 32 }) ∧
    (leased s l → hLegal hb = true → (s.me.pure = true → isOutput s h = true) → captures (.msave u h) { handle := hb }) ∧
    (leased s l → hLegal hb = true → s.me.pure = false → captures (.mrestore u h) { handle := hb }) ∧
    denied (.mzero u) ∧
    (hLegal hb = true → (x ≠ .none → hLegal hs = true) → denied mma) ∧ (hLegal hb = false ∨ (x ≠ .none ∧ hLegal hs = false) → illegal mma) ∧
    ((res = true ∨ wh = true → hLegal hb = true) → denied drain) ∧ (res = true ∨ wh = true → hLegal hb = false → illegal drain) ∧
    (hLegal hb = true → denied (.msave u h) ∧ denied (.mrestore u h)) ∧
    (hLegal hb = false → illegal (.msave u h) ∧ illegal (.mrestore u h)) ∧
    asks (.lease u budget) false ∧ asks (.leaseCyc u budget) true ∧
    (passes (.unlease u) s → owns s .t → cl.requests = [] →
      ((∀ l', cl.lease = some l' → l'.core ≠ s.myCore) → completes (.unlease u) s s.me) ∧
      (cl.lease = some l → l.core = s.myCore → l.expired = false → l.reload = none →
        (cl.running = none → cl.queue = [] → exec (.unlease u) s = .next (after (s.setCluster s.myCluster { cl with lease := none })
          s.me (past (.unlease u) s))) ∧
        (cl.running ≠ none ∨ cl.queue ≠ [] → exec (.unlease u) s = .next (after (s.setCluster s.myCluster
          { cl with lease := some { l with ending := true } }) s.me (past (.unlease u) s)))))

/-- O45 (R223, R242, R243): the barrier and the end of a strand. The E-th arrival completes the phase: the count is 0 again,
the phase advances, and every waiting arrival of the record returns at once, past its unit; an earlier arrival is counted and
waits; with no stitch there is no barrier to wait for (the model's choice, log entry 20). `stitch.end` stops the strand where it
is, with its status word. -/
def Obligations.StitchBarrier : Prop :=
  ∀ (u : Hdr) (lim : BitVec 12) (a : BitVec 5) (s : State) (st : Stitch),
    let i : Instr := .cbar u lim
    let x := s.recx st.id.die st.id.record
    (passes (.stitchEnd u a) s →
      transfers (.stitchEnd u a) s { s.me with phase := .ended, endWord := some (s.sget a) } s.me.pc) ∧
    (passes i s → s.kore.stitch = none → completes i s s.me) ∧
    (passes i s → s.kore.stitch = some st → s.me.wait = none → s.me.arrived = false →
      (x.barSize ≤ x.barCount + 1 → ∃ t, yields i s t ∧
        t.recx st.id.die st.id.record = { x with barCount := 0, barPhase := x.barPhase + 1 } ∧
        t = { s with strands := t.strands, dies := t.dies } ∧ (∀ d, d ≠ st.id.die → t.die d = s.die d) ∧
        ∀ n, t.strand n = if (s.strand n).arrived && (s.core (coreOf n)).stitch.any (fun y => y.id == st.id) then
            { (s.strand n).goes ((s.strand n).pc + 8) with arrived := false }
          else s.strand n) ∧
      (x.barCount + 1 < x.barSize → lim ≠ 0 → exec i s = .next
        ((s.setRecx st.id.die st.id.record { x with barCount := x.barCount + 1 }).setMe
          { s.me with arrived := true, wait := some ⟨.cbar, s.cycle, some (16 * lim.toNat)⟩ }).tick) ∧
      (x.barCount + 1 < x.barSize → lim = 0 → exec i s = .next
        (deliverTrap (s.setRecx st.id.die st.id.record { x with barCount := x.barCount }) s.cur
          { cause := 0x09, tval := BitVec.ofNat 64 (5 * 2 ^ 60 + x.barCount % 2 ^ 56) }).tick)) ∧
    (∀ c l, passes i s → s.kore.stitch = some st → s.me.wait = some ⟨.cbar, c, l⟩ → s.me.arrived = false → completes i s s.me)

/-- O46 (R257, R260, R261, R264, R293, R294, R295): parties, arrivals and the wait of a recast. `rgn.parties` is posted to the
region's home; a counted arrival records what it asks for and adds one to ARRIVED, and begins the recast when the party count
read at the first arrival is reached; SPACE of its handle becomes the new role. When no recast is pending over its extent and
its runs have one generation, `recast.wait` brings GEN, DV, FMT and PS of its handle up to date (PS for a later recast of the
bolts under its extent that poisoned a block); while one is pending it waits; runs of different generations raise ROLE with
sub-code 6. PERM for a handle of no live region and the poison of PS are the model's reading (log entry 35). That an arrival for
other bolts of a region whose recast is in progress is refused is the model's choice (log entry 68), and so are what a count of
BOLTS names (log entry 81) and the TVAL of a refused arrival (log entry 82). -/
def Obligations.Recasts : Prop :=
  ∀ (u : Hdr) (role : Space) (dig conv : Bool) (h : BitVec 4) (a c : BitVec 5) (n lim : BitVec 12) (s : State),
    let hb := s.me.hget h
    let d := homeOf (hBase hb)
    let r := hRegion hb
    let mine := s.kore.stitch
    let st := rgnState s d r
    let legal : Prop := hLegal hb = true ∧ reservedDie (hBase hb) = false
    let x := s.rgnx d r
    (passes (.rgnParties u h n) s → owns s .w → legal → s.me.pure = false → ∃ t,
      exec (.rgnParties u h n) s = .next (after t s.me (past (.rgnParties u h n) s)) ∧ t = { s with dies := t.dies } ∧
        (t.die d).parties = (s.die d).parties ++ [⟨s.myLaunch, s.myTenant, hb, n⟩] ∧
        (let id := s.myLaunch
         let y := s.recx id.die id.record
         t.recx id.die id.record = if y.launch = id.launch then { y with pendParties := y.pendParties + 1 } else y)) ∧
    (let i : Instr := .recastArrive u role dig conv h a c
     let first := (s.sget a).toNat
     let count := (s.sget c).toNat
     let q : Ask := ⟨role, dig, conv, first, if count = 0 then rgnBolts s d r else count⟩
     let p := pendingAsk s d r
     let need := if arrivedOf s d r = 0 then bits (s.rgnWord d r 8) 48 12 else x.need
     passes i s → owns s .w → legal → s.me.pure = false → (s.die d).parties = [] →
      (∀ k ∈ s.clusters, ∀ e ∈ k.2.window ++ k.2.staging, ¬ (e.id = s.myLaunch ∧ hRegion e.handle = r ∧ homeOf e.va = d)) →
      (st = 2 → q.first + q.count ≤ p.first ∨ p.first + p.count ≤ q.first) →
      (let refused (sub : Nat) : Prop := ∃ t, exec i s = .next (trapped t
          { cause := 0x0A, sub := BitVec.ofNat 8 sub, tval := askTval s s.myTenant hb d r first }) ∧
          t = { s with cores := t.cores } ∧ (∀ c, c ≠ s.myCore → t.core c = s.core c) ∧
          t.kore = { s.kore with stitch := mine.map (fun y => { y with restartable := false }) }
       (askAllowed s s.myTenant hb d r q = false → refused 0) ∧
       (∀ sub, askAllowed s s.myTenant hb d r q = true → askRefused s d r q first count = sub → sub ≠ 0 → refused sub)) ∧
      (askAllowed s s.myTenant hb d r q = true → askRefused s d r q first count = 0 → arrivedOf s d r < 4095 → ∃ t v,
        exec i s = .next (after t (s.me.hset h v) (past i s)) ∧
          v = (hb &&& ~~~3#256) ||| BitVec.ofNat 256 (spaceCode role) ∧
          arrivedOf t d r = arrivedOf s d r + 1 ∧ pendingAsk t d r = q ∧
          rgnState t d r = (if need ≤ arrivedOf s d r + 1 then 2 else st) ∧ (t.rgnx d r).need = need ∧
          (∀ j, (j < rgnKey s d r ∨ rgnKey s d r + 8 ≤ j) → (j < rgnKey s d r + 0x10 ∨ rgnKey s d r + 0x18 ≤ j) →
            t.byte j = s.byte j) ∧
          t.poison = s.poison ∧ t.clusters = s.clusters ∧ (∀ m, m ≠ d → t.die m = s.die m) ∧
          t.kore.stitch = mine.map (fun y => { y with restartable := false }))) ∧
    (let i : Instr := .recastWait u h lim
     passes i s → owns s .m → legal → r ≠ 0 → st = 1 ∨ st = 2 → bits (s.rgnWord d r 0x18) 24 7 = s.myTenant →
      vaDie (hBase hb) = rgnDie d r → rgnBase s d r ≤ vaOff (hBase hb) → extentEnd hb < rgnBase s d r + 65536 * rgnBolts s d r →
      (∀ e more, waitingRuns s hb = e :: more → waits i s (.recast h hb) lim (4 * 2 ^ 60 + h.toNat * 2 ^ 56 + e.2.2 * 2 ^ 28 + hGen hb)) ∧
      (∀ e rest, waitingRuns s hb = [] → extentRuns s hb = e :: rest →
        ((∀ f ∈ rest, f.2.2 = e.2.2) → ∃ v, completes i s (s.me.hset h v) ∧ hGen v = e.2.2 ∧
          v.getLsbD 255 = bit (s.rgnWord d r 0x18) 31 ∧
          v.getLsbD 253 = (hb.getLsbD 253 || x.poisoned.any (fun p => decide (hGen hb < p.1) &&
            decide (p.2.1 < (extentEnd hb - rgnBase s d r) / 65536 + 1) && decide ((vaOff (hBase hb) - rgnBase s d r) / 65536 < p.2.2))) ∧
          (hGen hb < x.convGen.toNat → hFmtCode v = 8 ∧ hAflsb v = 0) ∧
          (x.convGen.toNat ≤ hGen hb → hFmtCode v = hFmtCode hb ∧ hAflsb v = hAflsb hb) ∧
          ∀ b, b < 2 ∨ (18 ≤ b ∧ b < 92) ∨ (98 ≤ b ∧ b < 230) ∨ (242 ≤ b ∧ b < 253) ∨ b = 254 → v.getLsbD b = hb.getLsbD b) ∧
        (∀ f ∈ rest, f.2.2 ≠ e.2.2 →
          traps i s { cause := 0x0A, sub := 6, tval := roleTval hb (spaceCode e.2.1) e.2.2 })))

/-- O47 (R298-R303, R305, R307, R308, R322): launch records, jobs and the Sampler. A patch writes its field, makes the record
Patched, and from Done or Failed clears STATUS, REUSED and the override bits; an arm of an Armed record takes one from WAITC,
and out of Idle, Patched, Done or Failed it counts in the record's job and makes the record Armed; with WAITC at 0 the record is
Ready. An arm whose pricking lies on a page that moves waits (R328). Arms and patches of a record that runs or waits to run,
names that are no record and records of another tenant raise PERM with their sub-codes. `lrec.wait` and `job.count` read,
`job.wait` goes on at 0, `sinval` drops the tenant's entries of the die's Sampler. That a patch's state comes before its value
(log entry 85) and that a job's count wraps (log entry 86) is the model's choice. That an arm waits while the pricking's page
moves is the model's reading (log entry 71). -/
def Obligations.Records : Prop :=
  ∀ (u : Hdr) (d a f b : BitVec 5) (lim : BitVec 12) (s : State),
    let w := s.sget a
    let v := (s.sget b).toNat
    let die := nameDie w
    let n := nameNum w
    let st := s.recState die n
    let word (t : State) (off : Nat) : Nat := t.recWord die n off
    let key := recKey s die n
    let named : Prop := w.toNat < 2 ^ 17 ∧ die ≤ 23
    let perm (sub : Nat) : TrapInfo := { cause := 0x0C, sub := BitVec.ofNat 8 sub, tval := w }
    let patch : Instr := .lrecPatch u a f b
    let arm : Instr := .lrecArm u a
    let opens (i : Instr) (tenant : Nat) : Prop :=
      (¬ named → traps i s (perm 1)) ∧ (named → tenant ≠ s.myTenant → traps i s (perm 2))
    let kept (t : State) : Prop := ∀ j, j < key ∨ key + 256 ≤ j → t.byte j = s.byte j
    let field : Nat := if f.toNat = 0 then 8 else if f.toNat = 1 then 0 else if f.toNat < 4 then 0x10 else if f.toNat = 4 then 0x18
      else if f.toNat = 5 then 0x10 else if f.toNat = 6 then 0x20 else 0x40 + 8 * (f.toNat - 8)
    s.me.pure = false →
    (passes patch s → owns s .w → opens patch (s.recTenant die n) ∧
      (named → s.recTenant die n = s.myTenant →
        (∀ sub, patchRefused s die n f.toNat v = some sub → traps patch s (perm sub)) ∧
        (patchRefused s die n f.toNat v = none → patchLimited s die s.myTenant f.toNat v = false → ∃ t,
          exec patch s = .next (after t s.me (past patch s)) ∧ t = { s with mem := t.mem, dies := t.dies } ∧ kept t ∧
          t.recState die n = 1 ∧ t.recTenant die n = s.recTenant die n ∧
          (∀ k, k < 32 → 8 * k ≠ 0 → 8 * k ≠ 0x28 → 8 * k ≠ field → word t (8 * k) = word s (8 * k)) ∧
          (st = 5 ∨ st = 6 → bits (word t 0) 32 32 = 0 ∧ bits (word t 0) 9 1 = 0) ∧
          (f.toNat < 8 → word t 0x28 = if st = 5 ∨ st = 6 then word s 0x28 / 2 ^ 16 * 2 ^ 16 else word s 0x28) ∧
          (f.toNat = 0 → word t 8 = v) ∧ (f.toNat = 1 → bits (word t 0) 16 6 = v ∧ bits (word t 0) 10 6 = v) ∧
          (f.toNat = 2 → bits (word t 0x10) 0 16 = v) ∧ (f.toNat = 3 → bits (word t 0x10) 16 16 = v) ∧
          (f.toNat = 4 → word t 0x18 = v ∧ (t.die die).matching = if bit v 63 then (s.die die).matching ++
            [{ tag := BitVec.ofNat 32 v, expect := bits v 32 24, count := 0, record := n, tenant := s.recTenant die n }]
            else (s.die die).matching) ∧
          (f.toNat = 5 → bits (word t 0x10) 32 17 = v) ∧ (f.toNat = 6 → word t 0x20 = v) ∧
          (8 ≤ f.toNat → word t field = v ∧ bit (word t 0x28) (f.toNat - 8) = true ∧
            ∀ j, j < 16 → j ≠ f.toNat - 8 → bit (word t 0x28) j = (bit (word s 0x28) j && !decide (st = 5 ∨ st = 6)))))) ∧
    (passes arm s → owns s .w → opens arm (s.recTenant die n) ∧
      (named → s.recTenant die n = s.myTenant →
        (st = 3 ∨ st = 4 ∨ st = 7 → traps arm s (perm 3)) ∧
        (st = 2 → ∃ t, exec arm s = .next (after t s.me (past arm s)) ∧ kept t ∧
          bits (word t 0x10) 16 16 = (bits (word s 0x10) 16 16 - 1) ∧
          t.recState die n = if bits (word s 0x10) 16 16 ≤ 1 then 3 else 2) ∧
        (st = 0 ∨ st = 1 ∨ st = 5 ∨ st = 6 →
          let jd := (s.recJob die n).1
          let j := (s.recJob die n).2
          (((s.job jd j).tenant.toNat ≠ s.myTenant → traps arm s (perm 2)) ∧
           ((s.job jd j).tenant.toNat = s.myTenant → (s.job jd j).count = BitVec.allOnes 32 → traps arm s (perm 4)) ∧
           ((s.job jd j).tenant.toNat = s.myTenant → (s.job jd j).count ≠ BitVec.allOnes 32 → s.me.wait = none →
            migHolds s (BitVec.ofNat 56 (word s 8)) = true → exec arm s = .next (s.setMe { s.me with wait := some ⟨.held, s.cycle, none⟩ }).tick) ∧
           ((s.job jd j).tenant.toNat = s.myTenant → (s.job jd j).count ≠ BitVec.allOnes 32 →
            migHolds s (BitVec.ofNat 56 (word s 8)) = false → ∃ t, exec arm s = .next (after t s.me (past arm s)) ∧ kept t ∧ (t.job jd j).count = (s.job jd j).count + 1 ∧
            bits (word t 0) 32 32 = 0 ∧ bits (word t 0) 9 1 = 0 ∧
            t.recState die n = if bits (word s 0x10) 16 16 = 0 then 3 else 2))))) ∧
    (passes (.lrecWait u d a lim) s → opens (.lrecWait u d a lim) (s.recTenant die n) ∧
      (named → s.recTenant die n = s.myTenant →
        (st = 5 ∨ st = 6 → completes (.lrecWait u d a lim) s (s.me.sset d
          (BitVec.ofNat 64 (st + bits (word s 0) 9 1 * 8 + bits (word s 0) 32 32 * 2 ^ 32)))) ∧
        (st ≠ 5 → st ≠ 6 → waits (.lrecWait u d a lim) s (.lrec w) lim (5 * 2 ^ 60 + w.toNat % 2 ^ 56)))) ∧
    (passes (.jobCount u d a) s → opens (.jobCount u d a) (s.job die n).tenant.toNat ∧
      (named → (s.job die n).tenant.toNat = s.myTenant →
        completes (.jobCount u d a) s (s.me.sset d ((s.job die n).count.setWidth 64)))) ∧
    (passes (.jobWait u a lim) s → opens (.jobWait u a lim) (s.job die n).tenant.toNat ∧
      (named → (s.job die n).tenant.toNat = s.myTenant →
        ((s.job die n).count = 0 → completes (.jobWait u a lim) s s.me) ∧
        ((s.job die n).count ≠ 0 → waits (.jobWait u a lim) s (.job w) lim (5 * 2 ^ 60 + (s.job die n).count.toNat)))) ∧
    (passes (.sinval u) s → exec (.sinval u) s = .next (after (s.setDie s.myDie { s.die s.myDie with
      sampler := (s.die s.myDie).sampler.filter (fun e => e.tenant != s.myTenant) }) s.me (past (.sinval u) s)))

/-- O48 (R180, R350, R354, R357, R358, R359): a collective is captured from its descriptor and starts, at once unless its core
is frozen, its engine holds an entry or its completion queue is full, in which case its command waits in the engine's queue: the
register takes its number and die, the die's next number advances, and the collective waits for what each member contributes,
its tiles to be sent or, with triggers, one tracker for each. A descriptor that is not accepted completes, poisoned, with ILL as
its recorded word, when it starts. `cwait` reads the recorded word, or waits. Which descriptors are accepted, and that a
collective waits while engine 3 holds an entry, follows the model's reading (log entry 37). -/
def Obligations.Collectives : Prop :=
  ∀ (u : Hdr) (d a : BitVec 5) (h : BitVec 4) (lim : BitVec 12) (s : State) (k : BitVec 56 → Nat),
    let i : Instr := .reshard u d h
    let hb := s.me.hget h
    let x := s.die s.myDie
    let num := x.collNext
    let some' (lo n : Nat) : List Byte := (List.range n).map (fun j => s.byte (k (hBase hb + BitVec.ofNat 56 (lo + j))))
    let bad (lo n : Nat) : Bool := (List.range n).any (fun j => s.blockPoison (k (hBase hb + BitVec.ofNat 56 (lo + j))))
    let head := some' 0 0x100
    let table : Bool := lpM head == lpMembers head
    let size := if table then 4 * lpM head else 0
    let desc := head ++ some' 0x100 size
    let ok : Bool := table && lpAccepted desc (x.module_.toNat, s.myDie)
    let seq := (s.kore.engine 3).nextSeq
    let queue := (s.kore.engine 3).queue
    let held := (s.kore.engine 3).blocked || s.frozen s.myCore
    (passes i s → owns s .w → fits hb .loose (hWidth hb) → s.me.pure = false → s.me.taken = none → s.me.absent = [] →
      reaches s hb .loose { rd := true } false 8 (descElems hb 0 0x100) k →
      reaches s hb .loose { rd := true } false 8 (descElems hb 0x100 size) k → x.colls.length < 64 →
      queue.length < 16 → olderCmds s 3 = 0 → held = true ∨ queue = [] → (∀ q ∈ x.colls, q.num ≠ num) →
      (ok = true → lpTrk desc = true → x.tracks.length + tileCount desc ≤ 256) →
      ∃ t, yields i s t ∧ t = { s with strands := t.strands, cores := t.cores, dies := t.dies } ∧
        (∀ r, t.sget r = if r = d ∧ d ≠ 0 then BitVec.ofNat 64 (num.toNat + s.myDie * 2 ^ 16) else s.sget r) ∧
        (∀ g, t.me.hget g = if g = h ∧ (bad 0 0x100 || bad 0x100 size) = true then hb ||| (1#256 <<< 253) else s.me.hget g) ∧
        (t.die s.myDie).collNext = num + 1 ∧ (∀ m, m ≠ s.myDie → t.die m = s.die m) ∧
        (t.kore.engine 3).nextSeq = seq + 1 ∧
        (t.kore.engine 3).queue = (if held then queue ++ [{ parcels := parcelsWord i, handle := hb, strand := s.cur, seq := seq
                                                            issued := s.cycle, coll := some (s.myDie, num.toNat) }] else []) ∧
        (ok = false → held = true → ∃ c : Coll, (t.die s.myDie).colls = x.colls ++ [c] ∧ c.num = num ∧ c.started = false ∧
          c.status = 1 ∧ c.poison = true ∧ (t.die s.myDie).tracks = x.tracks) ∧
        (ok = false → held = false → (∀ q ∈ x.tracks, q.num ≠ num) →
          (t.die s.myDie).colls = x.colls ∧ (t.die s.myDie).tracks = x.tracks ∧
          (t.die s.myDie).collWords.find? (fun e => e.1 == num.toNat) =
            some (num.toNat, BitVec.ofNat 64 (seq.toNat * 2 ^ 48 + 1 * 2 ^ 40 + 2 ^ 39 + 3 * 2 ^ 36))) ∧
        (ok = true → ∃ c : Coll, (t.die s.myDie).colls = x.colls ++ [c] ∧ c.num = num ∧ c.desc = desc ∧ c.seq = seq ∧
          c.core = s.myCore ∧ c.id = s.myLaunch ∧ c.tenant = s.myTenant ∧ c.src = lpSrcH desc ∧ c.dst = lpDstH desc ∧
          c.unsent = 0 ∧ c.wrote = 0 ∧ c.status = 0 ∧ c.srcFail = 0 ∧ c.dstFail = 0 ∧ c.poison = false ∧ c.started = !held ∧
          c.tiles = (if lpTrk desc then [] else List.range (tileCount desc)) ∧
          (t.die s.myDie).tracks = x.tracks ++ (if lpTrk desc then newTracks desc num else []))) ∧
    (passes (.cwait u d a lim) s → s.me.pure = false →
      let w := s.sget a
      (∀ v, collWord s w = some v → completes (.cwait u d a lim) s (s.me.sset d v)) ∧
      (collWord s w = none → waits (.cwait u d a lim) s (.cwait w) lim (5 * 2 ^ 60 + 3 * 2 ^ 56 + w.toNat % 2 ^ 56)))

/-! ### Events -/

/-- O49 (R55, R113, R175, R179, R193, R197, R199, R235, R242, R284, R295, R305, R308, R354, R357, R359): a wait that has
reached its limit, while what it waits for still fails, raises WAIT with the fields of its kind; an arrival at the barrier is
withdrawn first. Nothing happens when no wait of the strand has reached its limit. That the older strands which wait for a place
in a queue count before this one is the model's reading (log entry 32). -/
def Obligations.WaitExpiry : Prop :=
  ∀ (s : State) (n : Nat),
    let c := coreOf n
    let k := s.core c
    let x := s.strand n
    let gone (i : Instr) (tval : Nat) : Prop := performs i s (deliverTrap s n { cause := 0x09, tval := BitVec.ofNat 64 tval })
    let five := 5 * 2 ^ 60
    (x.wait = none → ∀ i ∈ [Instr.bandWaitExpiry n, .cmdqWaitExpiry n, .tokTakeExpiry n, .cpwaitExpiry n, .cqpopExpiry n,
      .mrestoreWaitExpiry n, .cbarExpiry n, .recastWaitExpiry n, .ringWaitExpiry n, .lrecWaitExpiry n, .jobWaitExpiry n,
      .cwaitExpiry n, .reshardWaitExpiry n], performs i s s) ∧
    ∀ (w : Wait) (l : Nat), x.wait = some w → w.lim = some l → x.phase = .running → s.frozen c = false →
      l ≤ (s.cycle - w.since).toNat →
      (∀ st : Stitch, w.kind = .cbar → x.arrived = true → k.stitch = some st →
        let r := s.recx st.id.die st.id.record
        performs (.cbarExpiry n) s (deliverTrap ((s.setStrand n { x with arrived := false }).setRecx st.id.die st.id.record
          { r with barCount := r.barCount - 1 }) n { cause := 0x09, tval := BitVec.ofNat 64 (five + (r.barCount - 1) % 2 ^ 56) })) ∧
      (x.arrived = false →
        (∀ r, w.kind = .bandFull r → k.isFull r = false → gone (.bandWaitExpiry n) (r + 2 ^ 10)) ∧
        (∀ r, w.kind = .bandEmpty r → canTake s n r = false →
          gone (.bandWaitExpiry n) (r + (if k.isFull r then 2 ^ 9 else 0))) ∧
        (∀ e, w.kind = .cmdq e → 16 ≤ (if e = 1 then (s.cluster (clusterOf c)).queue.length else (k.engine e).queue.length) +
            olderCmds { s with cur := n } e →
          gone (.cmdqWaitExpiry n) (five + e * 2 ^ 56 + 16)) ∧
        (∀ q m, w.kind = .tok q m → (k.tq q).count < m ∨ (m ≠ 0 ∧ olderTake s c q (ageOf s n) (numOf n) = true) →
          gone (.tokTakeExpiry n) (2 ^ 60 + q * 2 ^ 56 + (k.tq q).count * 2 ^ 28 + m)) ∧
        (∀ ch t, w.kind = .cpwait ch t → (k.wptrOf ch - t).msb = true →
          gone (.cpwaitExpiry n) (2 * 2 ^ 60 + ch * 2 ^ 56 + (k.wptrOf ch).toNat % 2 ^ 28 * 2 ^ 28 + t.toNat % 2 ^ 28)) ∧
        (∀ e, w.kind = .cqpop e → (k.engine e).comp.length ≤ olderPops { s with cur := n } e → gone (.cqpopExpiry n) (five + e * 2 ^ 56 + queuedFor s c e)) ∧
        (∀ q, w.kind = .mrestore → q ∈ pendingCmds (s.cluster (clusterOf c)) → q.opc = 0x386 → q.done = false →
          gone (.mrestoreWaitExpiry n) (five + 2 ^ 56 + queuedFor s c 1)) ∧
        (∀ h hb, w.kind = .recast h hb → recastPending s hb = true →
          ∃ e rest, waitingRuns s hb = e :: rest ∧ gone (.recastWaitExpiry n) (4 * 2 ^ 60 + h.toNat * 2 ^ 56 + e.2.2 * 2 ^ 28 + hGen hb)) ∧
        (∀ h hb, w.kind = .sts h hb →
          let d := homeOf (hBase hb)
          let r := hRegion hb
          ringN s d r ≤ ringPtr s d r 0 - ringPtr s d r 2 → gone (.ringWaitExpiry n)
            (3 * 2 ^ 60 + h.toNat * 2 ^ 56 + ringPtr s d r 0 % 2 ^ 28 * 2 ^ 28 + ringPtr s d r 2 % 2 ^ 28)) ∧
        (∀ h hb, w.kind = .lds h hb →
          let d := homeOf (hBase hb)
          let r := hRegion hb
          ringPtr s d r 0 ≤ ringPtr s d r 1 → gone (.ringWaitExpiry n)
            (3 * 2 ^ 60 + h.toNat * 2 ^ 56 + ringPtr s d r 0 % 2 ^ 28 * 2 ^ 28 + ringPtr s d r 1 % 2 ^ 28)) ∧
        (∀ v, w.kind = .lrec v → s.recState (nameDie v) (nameNum v) ≠ 5 → s.recState (nameDie v) (nameNum v) ≠ 6 →
          gone (.lrecWaitExpiry n) (five + v.toNat % 2 ^ 56)) ∧
        (∀ v, w.kind = .job v → (s.job (nameDie v) (nameNum v)).count ≠ 0 →
          gone (.jobWaitExpiry n) (five + (s.job (nameDie v) (nameNum v)).count.toNat)) ∧
        (∀ v, w.kind = .cwait v → collWord { s with cur := n } v = none →
          gone (.cwaitExpiry n) (five + 3 * 2 ^ 56 + v.toNat % 2 ^ 56)) ∧
        (w.kind = .collectives → 64 ≤ (s.die (dieOfStrand n)).colls.length →
          gone (.reshardWaitExpiry n) (five + 3 * 2 ^ 56 + 64)) ∧
        (∀ m, w.kind = .trackers m → 256 < (s.die (dieOfStrand n)).tracks.length + m →
          gone (.reshardWaitExpiry n) (five + 3 * 2 ^ 56 + (s.die (dieOfStrand n)).tracks.length)))

/-- O50 (R171, R172, R179-R184, R195, R196, R199, R221, R241): the engines of a core. A copy channel starts its next command
once its wait token is there and no older take waits for it; it delivers a row into an empty band row, or from a full one, and
WPTR advances by 256; a row whose handle fails is zero and poisoned, with the cause kept as the command's status; a take that
finds no token waits from then on; the scatter-accumulate engine takes the commands of its cluster's cores in turn; one of more
than 8,192 updates fails, and one whose rows are full sends its updates into the merge window; a finished command places its
completion entry and its token, or holds both while the queue is full; of the strands that need one bank, the oldest wins, and
each other one is counted as a loss and reads anew. The order of a copy's causes is the model's choice (log entry 77). That a
misaligned BASE fails a copy-in's rows with ALIGN, the cycle from which a command waits for its token, and that a copy-out row
which has failed does not wait for its band row are the model's reading (log entry 32); that the read cycles of two units meet
is an event of the model's (log entry 6), sacc POISON counts the block of the element (log entry 50), and its handle's format is
not looked at (log entry 63). -/
def Obligations.EngineEvents : Prop :=
  ∀ (s : State) (core chan bank e : Nat) (c : Cmd) (rest before : List Cmd) (at' : BitVec 56 → Nat),
    let k := s.core core
    let x := k.engine 0
    let y := k.engine 2
    let h := c.handle
    let w := hWidth h
    let start : Instr := .engineCommandStart core 0 chan
    let scatter : Instr := .engineCommandStart core 2 chan
    let row : Instr := .copyRowDelivery core chan
    let tooFar : Bool := decide (512 < c.band + min c.scalar.toNat (tileRows h))
    let valid := if tooFar then 0 else min c.scalar.toNat (tileRows h)
    let b := c.band + c.rows
    let els := tileRowElems h c.rows
    let own : State := { s with cur := c.strand }
    let copy (va : BitVec 56) : Option Replica := if hSpace h = .fixed then replicaOf own h va else none
    let next (t : State) (status : BitVec 8) (bad : Bool) : Prop :=
      ((t.core core).engine 0).running.find? (fun q => q.chan == chan) =
        some { c with rows := c.rows + 1, done := decide (valid ≤ c.rows + 1), status := status,
                      poison := c.poison || bad, blocked := [], taken := none } ∧
      ((t.core core).engine 0).queue = x.queue ∧ ((t.core core).engine 0).comp = x.comp ∧
      (∀ j, (t.core core).wptrOf j = if j = chan then k.wptrOf chan + 256 else k.wptrOf j) ∧
      (t.core core).vfile = k.vfile ∧ (t.core core).tok = k.tok ∧ (t.core core).stitch = k.stitch ∧
      (∀ n, t.strand n = s.strand n) ∧ t.clusters = s.clusters ∧ t.cycle = s.cycle ∧ (∀ j, j ≠ core → t.core j = s.core j)
    let bandIs (t : State) (v : Option PRow) : Prop :=
      ∀ j, ((t.core core).isFull j = match v with
          | some _ => k.isFull j || (decide (j = b) && decide (b < 512))
          | none => k.isFull j) ∧
        tget {} (t.core core).band j = match v with
          | some r => if j = b then r else tget {} k.band j
          | none => tget {} k.band j
    let needers : List Nat := ((List.range 3).map (3 * core + ·)).filter (needsBank s bank)
    (needers.length < 2 → performs (.bankReplay core bank) s s) ∧
    (2 ≤ needers.length → ∃ t, ∃ n ∈ needers, performs (.bankReplay core bank) s t ∧
      (∀ m ∈ needers, m ≠ n → ageOf s n < ageOf s m ∨ (ageOf s n = ageOf s m ∧ n < m)) ∧
      t = { s with strands := t.strands, cores := t.cores } ∧ (∀ j, j ≠ core → t.core j = s.core j) ∧
      (t.core core) = { k with bankloss := (t.core core).bankloss } ∧
      (∀ j, (tget 0 (t.core core).bankloss j).toNat = if j = bank then min ((tget 0 k.bankloss j).toNat + (needers.length - 1)) (2 ^ 32 - 1)
        else (tget 0 k.bankloss j).toNat) ∧
      ∀ m, t.strand m = if m ∈ needers then { s.strand m with
          age := some (ageOf s m), got := if m = n then bank :: (s.strand m).got else [] }
        else s.strand m) ∧
    (x.heldEntries = [] → x.comp.length < 32 → s.frozen core = false → (∀ q ∈ x.running, q.chan ≠ chan) → x.queue = before ++ c :: rest →
      (∀ q ∈ before, q.chan ≠ chan) → c.chan = chan →
      let since := c.tokSince.getD s.cycle
      (∀ k' : Core, (k' = k ∧ (c.waitQ = none ∨ c.tokenTaken = true)) ∨ (∃ q, c.waitQ = some q ∧ c.tokenTaken = false ∧
          olderTake s core q since (3 + chan) = false ∧ 0 < (k.tq q).count ∧ k' = k.setTq q { k.tq q with count := (k.tq q).count - 1 }) →
        performs start s (s.setCore core (k'.setEngine 0 { x with
          queue := before ++ rest
          running := x.running ++ [{ c with
            started := true, tokenTaken := c.waitQ.isSome, tokSince := none, status := if tooFar then 0x01 else c.status
            poison := c.poison || tooFar, done := decide (valid ≤ c.rows) }] }))) ∧
      (∀ q, c.waitQ = some q → c.tokenTaken = false → (k.tq q).count = 0 ∨ olderTake s core q since (3 + chan) = true →
        performs start s (s.setCore core (k.setEngine 0 { x with queue := before ++ { c with tokSince := some since } :: rest })))) ∧
    (y.running = [] → scatterNext s (clusterOf core) ≠ some core → performs scatter s s) ∧
    (y.running = [] → y.queue = c :: rest → scatterNext s (clusterOf core) = some core →
      (∀ j, j < 8 → ∀ q ∈ ((s.core (8 * (core / 8) + j)).engine 2).running, q.done = true) →
      let v := s.setCluster (clusterOf core) { s.cluster (clusterOf core) with turn := (core + 1) % 8 }
      (8192 < c.scalar.toNat → performs scatter s (v.setCore core (k.setEngine 2 { y with
        queue := rest, running := [{ c with started := true, status := 0x01, poison := true, done := true }] }))) ∧
      (c.scalar = 0 → performs scatter s (v.setCore core (k.setEngine 2 { y with
        queue := rest, running := [{ c with started := true, done := true }] }))) ∧
      (c.rows = 0 → 0 < c.scalar.toNat → c.scalar.toNat ≤ 8192 → k.isFull (c.band % 512) = false ∨ k.isFull (c.valueBand % 512) = false →
        performs scatter s (v.setCore core (k.setEngine 2 { y with queue := rest, running := [{ c with started := true }] }))) ∧
      (c.rows = 0 → 0 < c.scalar.toNat → c.scalar.toNat ≤ 2048 / c.saccW → k.isFull (c.band % 512) = true →
        k.isFull (c.valueBand % 512) = true → hSpace h = .accrue →
        let irow := tget {} k.band (c.band % 512)
        let vrow := tget {} k.band (c.valueBand % 512)
        let index (j : Nat) : Nat := elem 32 irow.bits j
        let bad := irow.poison || vrow.poison
        let va (j : Nat) : BitVec 56 := hBase h + BitVec.ofNat 56 (index j * (if c.saccTy = 2 then 16 else c.saccW / 8))
        let update (u : State) (j : Nat) : State := accrue u (clusterOf core) (newEntry u core h (va j)
          (saccUpdate c (elem c.saccW vrow.bits j)) bad)
        let u := (List.range c.scalar.toNat).foldl update v
        let stays := (List.range c.scalar.toNat).any (fun j => poisonAt s .accrue (va j))
        c.scalar.toNat ≤ 64 → (∀ j, j < c.scalar.toNat → index j < hCount h) →
        ∃ t, performs scatter s t ∧ t.clusters = u.clusters ∧ t.dies = u.dies ∧ (t.core core).stitch = (u.core core).stitch ∧
          t.mem = s.mem ∧ t.strands = s.strands ∧
          (t.core core).engine 2 = { y with queue := rest, running := [{ c with
            started := true, rows := 1, count := c.count + c.scalar.toNat, poison := c.poison || stays || bad, done := true }] })) ∧
    (runningCmd x 0 chan = some c → s.frozen core = false → c.done = false → c.status = 0 →
      (copyCause c = none → c.isOut = false → bandFree s core b c.issued = true →
        reaches own h (hSpace h) { rd := true } false w (els.filter (fun q => (copy q.va).isNone)) at' → ∃ t, performs row s t ∧
          (let bad := els.any (fun q => match copy q.va with
            | some y => (y.elem q.va w q.hi).2
            | none => s.blockPoison (at' q.va))
           next t 0 bad ∧ ∃ r : PRow, bandIs t (some r) ∧ r.poison = bad ∧
            ∀ j, j < 2048 / w → elem w r.bits j = match els.find? (fun q => q.i == j) with
              | some q => (match copy q.va with
                | some y => (y.elem q.va w q.hi).1
                | none => readElem s (at' q.va) w q.hi) % 2 ^ w
              | none => 0) ∧ t.poison = s.poison ∧ (hSpace h = .loose → t.mem = s.mem ∧ t.dies = s.dies) ∧
          (∀ n, { t.die n with replicas := [] } = { s.die n with replicas := [] }) ∧
          ∀ j, (let f := rgnKey s (homeOf (hBase h)) (hRegion h) + 0x18
                f ≤ j ∧ j < f + 8) ∨ t.byte j = s.byte j) ∧
      (copyCause c = none → c.isOut = true → k.isFull b = true →
        reaches own h .loose { wr := true } false w els at' → (∀ q ∈ els, trackFull s q.va = false) →
        let r := tget {} k.band b
        ∃ t, performs row s t ∧ next t 0 (r.poison || els.any (fun q => t.blockPoison (at' q.va))) ∧ bandIs t none ∧
          (∃ order : List Elem, order.Perm els ∧ ∀ j, t.byte j = written (order.flatMap (fun q => elemCells (at' q.va) w q.hi (elem w r.bits q.i))) j (s.byte j)) ∧
          (r.poison = true → ∀ q ∈ els, t.blockPoison (at' q.va) = true) ∧
          ∀ m, { t.die m with tracks := [], sampler := [], rgnx := [], bounds := [] } =
            { s.die m with tracks := [], sampler := [], rgnx := [], bounds := [] }) ∧
      (∀ cause, copyCause c = some cause → (c.isOut = false → bandFree s core b c.issued = true) → ∃ t, performs row s t ∧ next t cause true ∧
        bandIs t (if c.isOut then none else some ⟨0, true⟩) ∧ t.mem = s.mem ∧ t.dies = s.dies)) ∧
    (e = 0 ∨ e = 2 →
      let z := k.engine e
      let ch := if e = 0 then chan else 0
      let count := if e = 0 then 256 * c.rows else c.count
      let entry : Word := BitVec.ofNat 64 (c.seq.toNat * 2 ^ 48 + c.status.toNat * 2 ^ 40 + (if c.poison then 2 ^ 39 else 0)
        + e * 2 ^ 36 + ch * 2 ^ 32 + min count (2 ^ 32 - 1))
      let left := if e = 0 then z.running.filter (fun q => q.chan != chan) else []
      (runningCmd z e chan = some c → c.done = true → z.heldEntries = [] → s.frozen core = false →
        (32 ≤ z.comp.length → performs (.engineCompletion core e chan) s (s.setCore core (k.setEngine e { z with
          running := left, heldEntries := [(entry, if e = 0 then c.postQ.map (BitVec.ofNat 3) else none)] }))) ∧
        (z.comp.length < 32 → (e = 0 → c.postQ = none) → performs (.engineCompletion core e chan) s
          (s.setCore core (k.setEngine e { z with running := left, comp := z.comp ++ [entry] }))) ∧
        (∀ q, z.comp.length < 32 → e = 0 → c.postQ = some q → q < 8 → (k.tq q).count ≤ 63 → performs (.engineCompletion core e chan) s
          (s.setCore core ((k.setEngine e { z with running := left, comp := z.comp ++ [entry] }).setTq q
            { count := min ((k.tq q).count + 1) 63, ovf := (k.tq q).ovf || decide ((k.tq q).count = 63) }))))) ∧
    (∀ v more, let z := k.engine e
      z.heldEntries = (v, none) :: more → z.comp.length < 32 → s.frozen core = false → performs (.heldEntryEnter core e) s
        (s.setCore core (k.setEngine e { z with comp := z.comp ++ [v], heldEntries := more })))

/-- O51 (R203, R209-R211, R225, R229, R230, R236, R237, R239): the array. A grant clears the accumulators, KCUR, TC, AFLAGS and
the poison unless the same stitch held the lease last (a core without a stitch finds them cleared), goes to a request of the
highest priority, ends the requesting unit and is counted; a cycle budget that is used up ends the lease, at once or after the
command in progress, and discards what is queued with one report; `mzero` clears; `mdrain` of an FP32 tile to the band delivers
row m of the accumulators; a finished command frees the array and places its entry. The order of the bits of AFLAGS (log entry
31), that an mdrain's entry reports AFLAGS with what that mdrain raised (log entry 43), and that a clearing grant gives TC the
value 0 (log entry 51) are the model's reading. That a core without a stitch finds the array cleared is the model's choice (log
entry 20). -/
def Obligations.ArrayEvents : Prop :=
  ∀ (s : State) (cl : Nat) (c : Cmd) (rest : List Cmd) (r : LeaseReq) (st : Stitch) (l : Lease),
    let x := s.cluster cl
    let core := coreOf c.strand
    let eng := (s.core core).engine 1
    let start : Instr := .matrixCommandStart cl
    let idle : Prop := (∀ j, j < 8 → ((s.core (8 * cl + j)).engine 1).heldEntries = []) ∧ eng.comp.length < 32 ∧
      s.frozen core = false
    let granted (t : State) : Prop := performs (.leaseGrant cl) s t ∧ t = { s with clusters := t.clusters, strands := t.strands } ∧
      (∀ j, j ≠ cl → t.cluster j = s.cluster j) ∧ (∀ j, j ≠ r.strand → t.strand j = s.strand j) ∧
      t.strand r.strand = { (s.strand r.strand).goes ((s.strand r.strand).pc + 8) with arrived := false } ∧
      (t.cluster cl).lease = some { core := r.core, byCycles := r.byCycles, left := r.budget, granted := coreNow s r.core, ending := r.ending } ∧
      (t.cluster cl).grants = x.grants + 1 ∧ (t.cluster cl).requests = x.requests.filter (fun q => q != r) ∧
      (t.cluster cl).queue = x.queue
    (x.lease = none → bestRequest s x.requests = some r → r.resume = none → (s.core r.core).stitch = some st →
      (∀ q ∈ x.requests, corePrio s q.core ≤ corePrio s r.core) ∧
      ∃ t, granted t ∧ (t.cluster cl).lastGrant = some (r.core, st.id, st.lin) ∧
        (let keep := x.lastGrant = some (r.core, st.id, st.lin)
         (∀ j, tget 0 (t.cluster cl).arr.acc j = if keep then tget 0 x.arr.acc j else 0) ∧
         (t.cluster cl).arr.kcur = (if keep then x.arr.kcur else 0) ∧ (t.cluster cl).arr.aflags = (if keep then x.arr.aflags else 0) ∧
         (t.cluster cl).arr.tc = (decide keep && x.arr.tc) ∧
         (t.cluster cl).arr.poison = (decide keep && x.arr.poison)) ∧
        (t.cluster cl).arr.dkey = st.dkey ∧ (t.cluster cl).arr.dsalt = st.dsalt ∧ (t.cluster cl).arr.dkeep = st.dkeep ∧
        (t.cluster cl).arr.dscale = st.dscale) ∧
    (x.lease = none → bestRequest s x.requests = some r → r.resume = none → (s.core r.core).stitch = none →
      ∃ t, granted t ∧ (t.cluster cl).lastGrant = none ∧
        (t.cluster cl).arr = { x.arr with acc := [], kcur := 0, tc := false, aflags := 0, poison := false }) ∧
    (x.lease = some l → l.byCycles = true → l.left ≤ (s.cycle - l.granted).toNat → s.frozen l.core = false →
      (x.running ≠ none → performs (.leaseCycleExpiry cl) s (s.setCluster cl { x with lease := some { l with expired := true } })) ∧
      (x.running = none → x.queue = [] → l.reload = none → performs (.leaseCycleExpiry cl) s (s.setCluster cl { x with lease := none })) ∧
      (x.running = none → x.queue = c :: rest → l.reload = none → ((s.core l.core).engine 1).heldEntries = [] →
        ((s.core l.core).engine 1).comp.length < 32 → ∃ t,
        performs (.leaseCycleExpiry cl) s t ∧ (t.cluster cl).lease = none ∧ (t.cluster cl).queue = [] ∧
        (t.cluster cl).disc.toNat = min (x.disc.toNat + (rest.length + 1)) 65535 ∧ (t.cluster cl).arr = x.arr ∧
        ((t.core l.core).engine 1).comp = ((s.core l.core).engine 1).comp ++
          [BitVec.ofNat 64 (c.seq.toNat * 2 ^ 48 + 0x0F * 2 ^ 40 + 2 ^ 36 + min (rest.length + 1) (2 ^ 32 - 1))])) ∧
    (x.running = none → x.queue = c :: rest → idle → c.opc = 0x382 → performs start s (s.setCluster cl { x with
      queue := rest, arr := { x.arr with acc := [], kcur := 0, aflags := 0, poison := false }
      running := some { c with started := true, done := true } })) ∧
    (x.running = some c → c.done = false → s.frozen core = false → c.opc = 0x384 → tableWf 0 x.arr.acc = true → x.arr.tc = false →
      c.drainRes = false → c.drainDrop = false → c.drainWh = false → c.rows < 256 →
      c.out = [] →
      ∀ b, c.drainBand = some b → outFmt (bits c.parcels.toNat 60 4) = .fp32 →
      (∀ j, j < 4 → bandFree s core ((b + c.rows * 4 + j) % 512) c.issued = true) → ∃ t, performs start s t ∧
        (∀ j n, j < 4 → n < 64 → elem 32 (tget {} (t.core core).band ((b + c.rows * 4 + j) % 512)).bits n =
          let a := tget 0 x.arr.acc (256 * c.rows + 64 * j + n)
          if (f32Val a.toNat).isNaN then 0x7FC00000 else a.toNat) ∧
        (∀ j, j < 4 → (tget {} (t.core core).band ((b + c.rows * 4 + j) % 512)).poison = x.arr.poison ∧
          (t.core core).isFull ((b + c.rows * 4 + j) % 512) = true) ∧
        (∀ q, (∀ j, j < 4 → q ≠ (b + c.rows * 4 + j) % 512) → tget {} (t.core core).band q = tget {} (s.core core).band q ∧
          (t.core core).isFull q = (s.core core).isFull q) ∧
        (t.cluster cl).running = some { c with rows := c.rows + 1, done := decide (c.rows = 255), poison := c.poison || x.arr.poison
                                               count := 65536, blocked := [], taken := none } ∧
        (t.cluster cl).arr = x.arr ∧ t.mem = s.mem) ∧
    (x.running = some c → c.done = true → eng.heldEntries = [] → s.frozen core = false →
      (∀ l', x.lease = some l' → l'.expired = false ∧ l'.reload = none) → eng.comp.length < 32 →
      let fl := x.arr.aflags
      let count := if c.opc = 0x384 then c.count % 2 ^ 17 + (fl.getLsbD 0).toNat * 2 ^ 31 + (fl.getLsbD 1).toNat * 2 ^ 30 +
          (fl.getLsbD 2).toNat * 2 ^ 29 + (fl.getLsbD 3).toNat * 2 ^ 28 + (fl.getLsbD 4).toNat * 2 ^ 27
        else c.count
      ∃ t, performs (.matrixCommandComplete cl) s t ∧ (t.cluster cl).running = none ∧ (t.cluster cl).queue = x.queue ∧
        (t.cluster cl).arr = x.arr ∧
        (t.cluster cl).lease = (match x.lease with
          | some l' => if x.queue = [] ∧ (l'.ending = true ∨ (l'.byCycles = false ∧ l'.left = 0)) then none else some l'
          | none => none) ∧
        ((t.core core).engine 1).comp = if c.opc = 0x382 then eng.comp else eng.comp ++ [BitVec.ofNat 64
          (c.seq.toNat * 2 ^ 48 + c.status.toNat * 2 ^ 40 + (if c.poison then 2 ^ 39 else 0) + 2 ^ 36
            + min count (2 ^ 32 - 1))])

/-- O52 (R38, R39, R203, R232, R234): one K-step of an unscaled dense `mma`, once its rows are full. Every accumulator takes
the exact sum of its 32 products: an integer tile adds it mod 2^32; a float tile adds, in FP32 and to nearest, the sum rounded
once to FP32. A comes from the band rows, 32 elements for each row of the tile; B from the panel in the vault, 32 for each
column. The place of a panel in the vault is the model's choice (log entry 9). -/
def Obligations.MatrixStep : Prop :=
  ∀ (s : State) (cl : Nat) (c : Cmd) (m n : Nat),
    let x := s.cluster cl
    let k := s.core (coreOf c.strand)
    let o := mmaOf c
    let wa := (mtyFmt o.ta).width
    let wb := (mtyFmt o.tb).width
    let rows := 4 * wa
    let step := (x.arr.kcur.toNat + c.rows) % 2 ^ 32
    let per := 64 / (4 * wb)
    let base := bits (hBase c.handle).toNat 0 26
    let aRow (j : Nat) : PRow := if o.fromLx then c.lx else tget {} k.band ((o.first + c.rows * rows + j) % 512)
    let A (q : Nat) : Nat := elem wa (aRow ((32 * m + q) / (2048 / wa))).bits ((32 * m + q) % (2048 / wa))
    let B (q : Nat) : Nat := s.num (vaultKey cl (base + step / per * 16384 + n * 64 + step % per * (4 * wb))) (4 * wb) /
      2 ^ (wb * q) % 2 ^ wb
    let acc := tget 0 x.arr.acc (256 * m + n)
    let fa := mtyFmt o.ta
    let fb := mtyFmt o.tb
    x.running = some c → c.done = false → s.frozen (coreOf c.strand) = false → c.opc = 0x383 → o.x = .none → o.sp = false →
      comboOk o.ta o.tb o.tc .none false = true → (x.arr.kcur ≠ 0 → x.arr.tc = o.tc) → tableWf 0 x.arr.acc = true →
      (o.fromLx = true ∨ ∀ j, j < rows → k.isFull ((o.first + c.rows * rows + j) % 512) = true) → m < 256 → n < 256 →
      panelPending s c.handle (step / stepsPerGranule o.tb * 16384) = false →
      ∃ t, performs (.matrixCommandStart cl) s t ∧ onlyCluster s t cl ∧
        tget 0 (t.cluster cl).arr.acc (256 * m + n) =
          (if o.tc then acc + BitVec.ofInt 32 (((List.range 32).map (fun q => sext wa (A q) * sext wb (B q))).sum)
          else
            let sum := (roundFloat .fp32 {} (sumVal .rne ((List.range 32).map (fun q =>
              (mulVal (decodeFmt fa (A q)).1 (decodeFmt fb (B q)).1).1))).1).code
            BitVec.ofNat 32 (roundFloat .fp32 {} (sumVal .rne [f32Val acc.toNat, f32Val sum]).1).code) ∧
        ((t.cluster cl).arr.kcur = if o.n ≤ c.rows + 1 then x.arr.kcur + BitVec.ofNat 32 o.n else x.arr.kcur) ∧
        (t.cluster cl).queue = x.queue ∧ (t.cluster cl).lease = x.lease ∧
        ∃ c', (t.cluster cl).running = some c' ∧ c'.rows = c.rows + 1 ∧ c'.done = decide (o.n ≤ c.rows + 1) ∧ c'.parcels = c.parcels

/-- O53 (R81, R82, R102, R111, R117, R186, R188, R217-R220, R243, R247, R298, R300, R309-R311, R313, R381): the queue manager
and the walker. A chosen Ready record that fails a check is Failed with its status and firmware is told; one that passes runs,
and the offered core starts its next position under free placement. A stitch starts with its registers, handles, pc and
predicates as its pricking gives them, an empty band and no tokens; a discarded one starts again at its position; with a bad
PART it fails with WINDOW, sub-code 7, which the strands of its core hold. It retires once every strand has ended and nothing of
it is queued, running or held: its status word enters the record's, and its ring reads are committed: C of each ring that it
consumes takes R (R247). A stitch past its budget fails with STITCH. A stitch that is pre-empted is discarded when it is
restartable, to run again from its start, with R of each ring that it consumes back at C and RROW at 0, and saved otherwise, and
its core is free. A saved one is resumed from its block: band rows with their bits, token counts, WPTR and sequence counters
from the core area, and each strand with a section from its own area, registers and partition rows; it asks for the lease it
held. A header that does not fit fails it with WINDOW, sub-code 8. EPRIO of a record that has been Ready for 2^20 cycles rises
by one, to 47 at most. Which core resumes a saved stitch, and that a core's block holds one save, is the model's choice (log
entry 3); so is what a command record has no place for (log entry 19), what a failed stitch drops (log entry 33) and does not
count (log entry 78), what an unreadable pricking breaks (log entry 34), which participant an offer reaches (log entry 36), that
the end of a stitch waits for the pointer words of its rings (log entry 30), the low bits of a pc (log entry 45), and that the
strands of the core hold WINDOW of a stitch that never issued (log entry 52). When a tenant counts as served is its choice (log
entry 69), and that a frozen core is offered nothing its reading (log entry 72). -/
def Obligations.StitchEvents : Prop :=
  ∀ (s : State) (core n j pos g : Nat) (st : Stitch) (q : Nat),
    let d := dieOfCore core
    let k := s.core core
    let bs := pkOf s d n
    let x := s.recx d n
    let rec' := recKey s d n
    let pricked : Prop := placed s .fixed (BitVec.ofNat 56 (s.recWord d n 8)) { rd := true } q ∧ (q + 512 ≤ rec' ∨ rec' + 256 ≤ q)
    let starts (t : State) (y : Stitch) : Prop :=
      let key := x.key.setWidth 64
      (t.core core).stitch = some y ∧ y.id = ⟨d, n, x.launch⟩ ∧ y.pos = pos ∧ y.part = g ∧ y.tenant = s.recTenant d n ∧
        y.lin = BitVec.ofNat 32 (linearOf bs pos) ∧ y.restartable = true ∧ y.failed = false ∧ y.rings = [] ∧
        (t.core core).part = pkPart bs ∧ (t.core core).portmap = BitVec.ofNat 8 (bits (wordAt bs 0x50) 32 8) ∧
        (∀ b, (t.core core).isFull b = false ∧ (tget {} (t.core core).band b).poison = false) ∧
        (∀ b, (t.core core).tq b = {}) ∧ (∀ b, (t.core core).wptrOf b = 0) ∧ (∀ e, (t.core core).engine e = {}) ∧
        (∀ b, b < 2048 → k.prev ≠ some y.id → (∃ i, i < 3 ∧ partBase (pkPart bs) i ≤ b ∧
          b < partBase (pkPart bs) i + partSize (pkPart bs) i) → tget {} (t.core core).vfile b = {}) ∧
        ∀ i, i < 3 → let z := t.strand (3 * core + i)
          if pkSect bs i = true then
            z.phase = .running ∧
              z.pc = ((pkCode bs).setWidth 64 + BitVec.ofNat 64 (4 * bits (wordAt bs 0x90) (20 * i) 20)) &&& ~~~3 ∧
              (∀ r, r < 6 → z.sget (BitVec.ofNat 5 (r + 1)) = BitVec.ofNat 64 (tileIdx bs pos r)) ∧
              z.sget 7 = y.lin.setWidth 64 ∧
              z.sget 8 = BitVec.ofNat 64 (min (pkTile bs (pkVdim bs))
                (pkBound bs (pkVdim bs) - tileIdx bs pos (pkVdim bs) * pkTile bs (pkVdim bs))) ∧
              (∀ r : BitVec 5, 8 < r.toNat → z.sget r = 0) ∧ (∀ p : BitVec 3, p ≠ 0 → z.pget p = {}) ∧
              (∀ h : BitVec 4, z.hget h = if h.toNat < 8 then slotHandle s d n bs h.toNat else 0) ∧
              z.inh = false ∧ z.mode = false ∧ z.strict = false ∧ z.depth = 0 ∧ z.res = 1 ∧ z.spilld = 0 ∧ z.voff = 0 ∧
              z.stcyc = s.cycle ∧ z.pure = pkPure bs ∧ z.srkey = (if pkPure bs then key else 0) ∧ z.flnv = 0
          else z.phase = .idle
    let broken (t : State) (sub : Nat) : Prop := t.recState d n = 6 ∧ bits (t.recWord d n 0) 32 32 = 8 ∧ ∀ i, i < 3 →
      (t.strand (3 * core + i)).tcause = BitVec.ofNat 16 (256 * sub + 8) ∧ (t.strand (3 * core + i)).tval = BitVec.ofNat 64 sub
    let ready : Prop := wordAt bs 0x40 = 0 ∧ k.partNext = none ∧ k.portNext = none ∧ partLegal bs (pkPart bs) = true ∧
      linearOf bs pos < 2 ^ 32 ∧ (coresOf s d n bs)[g]? = some core ∧ (∀ i, i < g → (coresOf s d n bs)[i]? ≠ some core)
    (winner s core = some (n, .fresh pos) → ready → ∃ t y, performs (.stitchStart core) s t ∧ starts t y ∧
      t.recx d n = (if pkFree bs then { x with next := x.next + 1 } else { x with done := tset 0 x.done g (tget 0 x.done g + 1) }) ∧
      t.mem = s.mem ∧ (t.die d).rrTenant = (s.recTenant d n + 1) % 128) ∧
    (∀ i y, winner s core = some (n, .rerun i) → x.suspended[i]? = some y → y.pos = pos → ready → ∃ t z,
      performs (.stitchStart core) s t ∧ starts t z ∧ t.recx d n = { x with suspended := x.suspended.eraseIdx i } ∧ t.mem = s.mem) ∧
    (winner s core = some (n, .fresh pos) → wordAt bs 0x40 = 0 → k.partNext = none → partLegal bs (pkPart bs) = false →
      bit (s.recWord d n 0x20) 63 = false → ∃ t, performs (.stitchStart core) s t ∧ broken t 7) ∧
    (j < 127 → core = 128 * d + j → (∀ i m, i < j → winner s (128 * d + i) ≠ some (m, .dispatch)) →
      winner s core = some (n, .dispatch) →
      (∀ status sub, dispatchFails s d n bs = some (status, sub) → bit (s.recWord d n 0x20) 63 = false → ∃ t,
        performs (.recordDispatch d) s t ∧ t.recState d n = 6 ∧ bits (t.recWord d n 0) 32 32 = status.toNat ∧
        Notice.dispatch n status sub ∈ (t.die d).notices ∧
        (let w := s.recJob d n
         (t.job w.1 w.2).count = (s.job w.1 w.2).count - 1)) ∧
      (dispatchFails s d n bs = none → pkPure bs = false → pkFree bs = true → pos = x.next → x.next < pkTotal bs →
        x.suspended = [] → ready → pricked → ∃ t y, performs (.recordDispatch d) s t ∧ t.recState d n = 4 ∧ starts t y ∧
          (t.recx d n).next = x.next + 1 ∧ (t.recx d n).total = pkTotal bs ∧
          (t.recx d n).barSize = (coresOf s d n bs).length * (List.range 3).countP (pkSect bs) ∧ (t.recx d n).pure = false ∧
          ∀ b, b < rec' ∨ rec' + 8 ≤ b → t.byte b = s.byte b)) ∧
    (k.stitch = some st → (∀ i, i < 3 → (s.strand (3 * core + i)).phase ≠ .running) → st.failed = false → k.stopReq = false →
      coreBusy s core = false → collBusy s core = false → s.frozen core = false → ringsReach s st = true → ∃ t,
        performs (.stitchRetire core) s (checkDone t st.id.die st.id.record) ∧ (t.core core).stitch = none ∧
        (∀ i, i < 3 → (t.strand (3 * core + i)).phase = .idle) ∧
        (let r := s.recx st.id.die st.id.record
         let w := (List.range 3).foldl (fun (w : BitVec 32) i => w ||| match (s.strand (3 * core + i)).endWord with
          | some e => e.setWidth 32
          | none => 0) 0
         r.launch = st.id.launch → (∀ c ∈ s.clusters, ∀ e ∈ c.2.window ++ c.2.staging, e.id ≠ st.id) →
          t.recx st.id.die st.id.record = { r with retired := r.retired + 1, orWord := r.orWord ||| w }) ∧
        ((∀ l, (s.cluster (clusterOf core)).lease = some l → l.core = core → l.reload = none) →
          (st.rings = [] → t.mem = s.mem) ∧
          ∀ place : Nat → Nat → Nat → Nat, ringsAt s st place →
            (∀ p ∈ st.rings, t.num (place p.1 p.2 2) 8 = s.num (place p.1 p.2 (if consumes s st place p then 1 else 2)) 8) ∧
            ∀ b, (∀ p ∈ st.rings, b < place p.1 p.2 2 ∨ place p.1 p.2 2 + 8 ≤ b) → t.byte b = s.byte b)) ∧
    (k.stitch = some st → (∀ i, i < 3 → (s.strand (3 * core + i)).phase ≠ .running) → st.failed = true ∨ k.stopReq = true → ∃ t,
      performs (.stitchRetire core) s t ∧ (t.core core).stitch = none ∧ (t.core core).engine 0 = {} ∧ t.recx st.id.die st.id.record =
        s.recx st.id.die st.id.record) ∧
    (k.stitch = some st → st.failed = false → s.frozen core = false →
      (if st.budget = 0 then 2 ^ 32 else st.budget) ≤ (s.cycle - (s.strand (3 * core)).stcyc).toNat → ∃ t,
        performs (.stitchBudgetExpiry core) s t ∧ (∃ y, (t.core core).stitch = some y ∧ y.id = st.id ∧ y.failed = true) ∧
        ∀ i, i < 3 → (s.strand (3 * core + i)).phase = .running → let z := t.strand (3 * core + i)
          z.phase = .stopped ∧ z.tcause = 0x12 ∧ z.tpc = (s.strand (3 * core + i)).pc ∧
            z.tval = BitVec.ofNat 64 (if st.budget = 0 then 2 ^ 32 else st.budget)) ∧
    (let id := st.id
     let r := s.recx id.die id.record
     k.stitch = some st → st.failed = false → k.stopReq = false → preemptWaits s core = false → mayPreempt s core = true →
      r.launch = id.launch → s.recState id.die id.record = 4 →
      (∀ l, (s.cluster (clusterOf core)).lease = some l → l.core ≠ core) →
      (∀ i, i < 3 → (s.strand (3 * core + i)).arrived = false) →
      (∀ place : Nat → Nat → Nat → Nat, st.restartable = true → ringsAt s st place → ∃ t,
        performs (.preemptStitch core true) s t ∧ (t.core core).stitch = none ∧
        t.recx id.die id.record = { r with suspended := r.suspended ++ [{ part := st.part, pos := st.pos }] } ∧
        (∀ p ∈ st.rings,
          t.num (place p.1 p.2 1) 8 = s.num (place p.1 p.2 (if consumes s st place p then 2 else 1)) 8 ∧
          t.num (place p.1 p.2 4) 8 = if consumes s st place p then 0 else s.num (place p.1 p.2 4) 8) ∧
        (∀ b, (∀ p ∈ st.rings, ∀ w, w = 1 ∨ w = 4 → b < place p.1 p.2 w ∨ place p.1 p.2 w + 8 ≤ b) → t.byte b = s.byte b) ∧
        (st.rings = [] → t.mem = s.mem)) ∧
      (let base := blockVa s id.die id.record st.part
       let rows : List (BitVec 56) := (List.range 544).map (fun a => base + BitVec.ofNat 56 (256 * a)) ++
        (strandAreas s core base).flatMap (fun a => (List.range (32 + partSize k.part a.1)).map (fun i =>
          a.2 + BitVec.ofNat 56 (256 * i)))
       st.restartable = false → (∀ r ∈ (s.cluster (clusterOf core)).requests, coreOf r.strand = core → r.core = core) →
       (∀ va ∈ rows, pendingPage s .loose (pageAt s .loose va) = false ∧ migHolds s va = false ∧
        ∃ p, placed s .loose va { wr := true } p ∧ (p + 256 ≤ recKey s id.die id.record ∨ recKey s id.die id.record + 256 ≤ p)) →
       ∃ t y, performs (.preemptStitch core false) s t ∧ (t.core core).stitch = none ∧
        t.recx id.die id.record = { r with suspended := r.suspended ++ [y] } ∧ y.saved = true ∧ y.pos = st.pos ∧ y.part = st.part ∧
        y.stitch = st ∧ t.cluster (clusterOf core) = { s.cluster (clusterOf core) with
          requests := (s.cluster (clusterOf core)).requests.filter (fun r => r.core != core) })) ∧
    (∀ i y, winner s core = some (n, .resume i) → x.suspended[i]? = some y →
      (coresOf s d n bs)[g]? = some core → (∀ i, i < g → (coresOf s d n bs)[i]? ≠ some core) →
      let base := blockVa s d n y.part
      let opens (off p : Nat) : Prop :=
        let va := base + BitVec.ofNat 56 off
        pendingPage s .loose (pageAt s .loose va) = false ∧ migHolds s va = false ∧ placed s .loose va { rd := true } p
      ∀ (at' : Nat → Nat) (on : Nat → Nat → Nat),
        let word (off : Nat) : Nat := s.num (at' 0 + off) 8
        let part : BitVec 24 := BitVec.ofNat 24 (word 8)
        let size (j : Nat) : Nat := if pkSect bs j then 0x2000 + 256 * partSize part j else 0
        let rows (j : Nat) : List PRow := (List.range (32 + partSize part j)).map (fun a => s.rowAt (on j a))
        let back (j : Nat) : Strand := restoreStrand (resumedStrand s y bs) (partSize part j) (rows j)
        let fits' : Prop := s.num (at' 0) 1 = 1 ∧ ∀ j, j < 3 → pkSect bs j = true → headerFits (partSize part j) (rows j) = true
        (∀ a, a < 544 → opens (256 * a) (at' a)) →
        (∀ j a, j < 3 → pkSect bs j = true → a < 32 + partSize part j →
          opens (0x22000 + ((List.range j).map size).sum + 256 * a) (on j a)) →
        (fits' → ∃ t, performs (.stitchResume core) s t ∧ t.mem = s.mem ∧
          (t.core core).stitch = some { y.stitch with resumed := true, part := g } ∧ (t.recx d n).suspended = x.suspended.eraseIdx i ∧
          (t.core core).part = part ∧ (t.core core).bankloss = [] ∧
          (∀ b, b < 512 → tget {} (t.core core).band b = ⟨(s.rowAt (at' (32 + b))).bits, (s.num (at' 0 + 0xC0) 64).testBit b⟩ ∧
            (t.core core).isFull b = (s.num (at' 0 + 0x80) 64).testBit b) ∧
          (∀ b, b < 8 → (t.core core).tq b = ⟨bits (word 0x10) (8 * b) 6, bit (word 0x10) (8 * b + 6)⟩) ∧
          (∀ b, b < 4 → (t.core core).wptrOf b = BitVec.ofNat 64 (word (0x18 + 8 * b)) ∧
            ((t.core core).engine b).nextSeq = BitVec.ofNat 16 (bits (word 0x48) (16 * b) 16)) ∧
          (∀ j a, j < 3 → pkSect bs j = true → a < partSize part j →
            tget {} (t.core core).vfile (partBase part j + a) = s.rowAt (on j (32 + a))) ∧
          (∀ j, j < 3 → t.strand (3 * core + j) = if pkSect bs j = true then (match y.ended.find? (fun e => e.1 == j) with
            | some e => { back j with phase := .ended, endWord := some e.2 }
            | none => back j) else { stcyc := y.stcyc }) ∧
          (t.cluster (clusterOf core)).requests = (s.cluster (clusterOf core)).requests ++ (match y.lease with
            | some (src, slot, byC, left) => [{ core := core, strand := 3 * core + 2, byCycles := byC, budget := left
                                                at_ := s.cycle, resume := some (src, slot), kept := y.kept
                                                ending := y.leaseEnding }]
            | none => [])) ∧
        (¬ fits' → y.stitch.id = ⟨d, n, x.launch⟩ → bit (s.recWord d n 0x20) 63 = false → ∃ t,
          performs (.stitchResume core) s t ∧ broken t 8)) ∧
    (performs (.eprioAging d n) s (if s.recState d n = 3 ∧ 2 ^ 20 ≤ (s.cycle - x.readyAt).toNat then
      let p := bits (s.recWord d n 0) 10 6
      (s.setRecx d n { x with readyAt := s.cycle }).setRecBits d n 0 10 6 (if p < 47 then p + 1 else p) else s))

/-- O54 (R257-R263, R269-R274, R293, R314, R368): a home, its skein, its pages and its frozen cores. The home takes its oldest
posted party count; a page that firmware maps has its leaf written; the oldest skein entry whose page is present is performed,
or discarded with PERM; a page declared unmappable loses its entries and fails its held pieces; an invalidation drops
translations. A thawed core goes on, its clock not having counted; in fixed-latency mode a late reply freezes a core, and at
65,536 cycles raises LATE. That a page declared unmappable fails what is held at that moment (log entry 29), and what a frozen
core's failure takes with it (log entry 42), is the model's choice. Which requests wait for a page is its reading (log entry
70), and so is that a late reply freezes a core which runs no stitch (log entry 72). -/
def Obligations.HomeEvents : Prop :=
  ∀ (s : State) (d c cycles : Nat) (sp : Space) (va : BitVec 56) (leaf : Word) (k : Nat),
    let x := s.die d
    let nothing (i : Instr) : Prop := performs i s s
    let up : Prop := s.boot.state = .running
    (x.parties = [] → performs (.homeAccess d) s (checkAllDone s)) ∧
    (∀ p rest, x.parties = p :: rest →
      let r := hRegion p.handle
      let id := p.id
      let y := s.recx id.die id.record
      let live : Prop := r ≠ 0 ∧ (rgnState s d r = 1 ∨ rgnState s d r = 2) ∧ bits (s.rgnWord d r 0x18) 24 7 = p.tenant ∧
        (boltOf s d r (hBase p.handle)).isSome = true
      homeOf (hBase p.handle) = d → ∃ u t, performs (.homeAccess d) s (checkAllDone t) ∧
        (u.die d).parties = rest ∧ u = { s with dies := u.dies } ∧
        u.recx id.die id.record = (if y.launch = id.launch then { y with pendParties := y.pendParties - 1 } else y) ∧
        (live → t = { u with mem := t.mem } ∧ t.rgnWord d r 8 = putBits (s.rgnWord d r 8) 48 12 p.n.toNat ∧
          ∀ b, b < rgnKey s d r + 8 ∨ rgnKey s d r + 16 ≤ b → t.byte b = s.byte b) ∧
        (¬ live → t = failRecord u id 0x0C)) ∧
    (∀ a, up → pageLeaf s sp va = some a → homeOf va = d → ∃ t, performs (.pageMap d sp va leaf) s t ∧ t = { s with mem := t.mem } ∧
      t.num a 8 = leaf.toNat ∧ ∀ b, b < a ∨ a + 8 ≤ b → t.byte b = s.byte b) ∧
    ((∀ e ∈ x.skein, (translate s e.space e.va {}).2 = .absent) → nothing (.skeinReplay d)) ∧
    (∀ before e rest, x.skein = before ++ e :: rest → (∀ q ∈ before, (translate s q.space q.va {}).2 = .absent) →
      let s' := s.setDie d { x with skein := before ++ rest }
      (∀ cells pb clean, e.op = .store cells pb clean → placed s e.space e.va { wr := true } k → ∃ t,
        performs (.skeinReplay d) s t ∧ t = { s' with mem := t.mem, poison := t.poison, dies := t.dies } ∧
        ((∀ q ∈ cells, descOf s (k + q.1) = none) → t.dies = s'.dies) ∧
        (∀ b, t.byte b = written (cells.map (fun q => (k + q.1, q.2))) b (s.byte b)) ∧
        (k % 256 = 0 → ∀ b, (b ∈ pb → t.blockPoison (k + 256 * b) = true) ∧ ((∃ q ∈ cells, q.1 / 256 = b) →
          (b ∉ pb → b ∈ clean ∨ (∀ j, j < 256 → ∃ q ∈ cells, q.1 = 256 * b + j ∧ q.2.2 = .full) →
            t.blockPoison (k + 256 * b) = false) ∧
          (b ∉ pb → b ∉ clean → (∃ j, j < 256 ∧ ∀ q ∈ cells, q.1 ≠ 256 * b + j) →
            t.blockPoison (k + 256 * b) = s.blockPoison (k + 256 * b)))) ∧
        ∀ b, (∀ q ∈ cells, (k + q.1) / 256 ≠ b / 256) → (∀ q ∈ pb, k / 256 + q ≠ b / 256) → t.blockPoison b = s.blockPoison b) ∧
      (∀ m ticket op f a b, e.op = .amo m ticket op f a b → placed s e.space e.va { rd := true, wr := true } k →
        ((s.strand m).amoReply = some (.pending ticket) → performs (.skeinReplay d) s
          ((amoAt s' k op f a b).1.setStrand m { s.strand m with
            amoReply := some (.old (BitVec.ofNat 64 (s.num k (amoWidth f / 8)))) })) ∧
        ((s.strand m).amoReply ≠ some (.pending ticket) → performs (.skeinReplay d) s (amoAt s' k op f a b).1)) ∧
      (∀ a, e.op = .accrue a → placed s e.space e.va { wr := true } k → performs (.skeinReplay d) s (applyUpdate s' a k)) ∧
      (∀ cells pb clean, e.op = .store cells pb clean → translate s e.space e.va { wr := true } = (s, .perm) → performs (.skeinReplay d) s
        (failRecord (s'.setDie d { s'.die d with notices := .discarded e.id e.va 0x0C :: (s'.die d).notices }) e.id 0x0C))) ∧
    (let page := pageAt s sp va
     let mine (e : SkeinEntry) : Prop := e.space = sp ∧ pageAt s sp e.va = page
     up → homeOf va = d → (translate s sp va {}).2 = .absent → ∃ t, performs (.pageUnmappable d sp va) s t ∧
      (∀ e, e ∈ (t.die d).skein ↔ e ∈ x.skein ∧ ¬ mine e) ∧
      (∀ m, let y := s.strand m
        let held (q : HeldReq) : Bool := q.space == sp && q.blocks.any (fun b => pageAt s sp (BitVec.ofNat 56 (65536 * b)) == page)
        (t.strand m).absent = if y.wait.any (fun w => w.kind == .held) && y.taken.any held then (sp, page) :: y.absent else y.absent) ∧
      (∀ e ∈ x.skein, mine e → Notice.discarded e.id e.va 0x0B ∈ (t.die d).notices ∧
        ∀ m ticket op f a b, e.op = .amo m ticket op f a b → (s.strand m).amoReply = some (.pending ticket) →
          (t.strand m).amoReply = some (.failed 0x0B))) ∧
    ((translate s sp va {}).2 ≠ .absent → nothing (.pageUnmappable d sp va)) ∧
    (∀ all, up → ∃ t, performs (if all then .tlbInvalidateAll d sp else .tlbInvalidatePage d sp va) s t ∧ onlyDie s t d ∧
      t.die d = { x with tlb := (t.die d).tlb } ∧
      ∀ e, e ∈ (t.die d).tlb ↔ e ∈ x.tlb ∧ ¬ (e.space = sp ∧ (all = true ∨ e.page = pageOf e.psize.toNat va))) ∧
    (x.frz = [] → ∀ fail, nothing (.coreThaw d fail)) ∧
    (∀ l rest f, up → x.frz = (c, l) :: rest → (s.core c).freeze = some f →
      let dt := s.cycle - f.since
      (∃ t, performs (.coreThaw d false) s t ∧ t.core c = { s.core c with
          freeze := none
          eng := (s.core c).eng.map (fun g => (g.1, { g.2 with
            queue := g.2.queue.map (·.later dt), running := g.2.running.map (·.later dt) })) } ∧
        (∀ m, m ≠ c → t.core m = s.core m) ∧
        t.die d = { x with frz := rest } ∧ t.mem = s.mem ∧
        ∀ m, t.strand m = if coreOf m = c then { s.strand m with
            stcyc := (s.strand m).stcyc + dt, age := (s.strand m).age.map (· + dt), wait := (s.strand m).wait.map (fun w => { w with since := w.since + dt }) }
          else s.strand m) ∧
      (∀ st, (s.core c).stitch = some st → s.recState st.id.die st.id.record = 4 →
        (s.recx st.id.die st.id.record).launch = st.id.launch → bit (s.recWord st.id.die st.id.record 0x20) 63 = false →
        (∀ e ∈ x.released, e.core ≠ c) → ∃ t, performs (.coreThaw d true) s t ∧ (t.core c).freeze = none ∧
          t.recState st.id.die st.id.record = 6 ∧ bits (t.recWord st.id.die st.id.record 0) 32 32 = 0x0C)) ∧
    ((bit (s.die (dieOfCore c)).dmode.toNat 63 = true →
      (s.core c).stitch.isSome = true ∨ (∃ i, i < 3 ∧ (s.strand (3 * c + i)).phase = .running) → s.frozen c = false → 0 < cycles →
      ∃ t, performs (.lateFreeze c cycles) s t ∧ (t.core c).freeze = some { late := cycles, since := s.cycle } ∧
        (∀ i, i < 3 → (t.strand (3 * c + i)).stcyc = (s.strand (3 * c + i)).stcyc + BitVec.ofNat 64 (min cycles 65536)) ∧
        t.mem = s.mem ∧ t.dies = s.dies) ∧
     (bit (s.die (dieOfCore c)).dmode.toNat 63 = false ∨ cycles = 0 → nothing (.lateFreeze c cycles))) ∧
    ((∀ f, (s.core c).freeze = some f → f.limit = 0 → 65536 ≤ f.late → 65536 ≤ (s.cycle - f.since).toNat →
      ∃ t, performs (.lateExpiry c) s t ∧ (t.core c).freeze = none ∧
        (∀ st, (s.core c).stitch = some st → ∃ y, (t.core c).stitch = some y ∧ y.id = st.id ∧ y.failed = true) ∧
        ∀ i, i < 3 → (s.strand (3 * c + i)).phase = .running → (t.strand (3 * c + i)).phase = .stopped ∧
          (t.strand (3 * c + i)).tcause = 0x11 ∧ (t.strand (3 * c + i)).tval = 65536 ∧
          (t.strand (3 * c + i)).tpc = (s.strand (3 * c + i)).pc) ∧
     ((s.core c).freeze = none → nothing (.lateExpiry c)))

/-- O55 (R41, R42, R45, R222, R248, R258, R259, R261): the flip of a recast that neither digests nor converts, and a released
Accrue update. After the flip every bolt of the recast has the new role and a generation one above the region's last, every
other bolt has its role and generation as before, nothing is pending, and what leaves Fixed loses its digest; the descriptor is
all that changes in memory. A flip that is not asked for, or not ready, does nothing. The oldest released update that no recast,
move or frozen core holds is performed: an integer operation on the element, or the addition to an AF128 container and its
bound. Which requests the home has taken (log entry 70) and what a source is (log entry 67) are the model's. -/
def Obligations.RecastFlips : Prop :=
  ∀ (s : State) (d r : Nat) (k : Nat) (e : AccEntry) (rest : List AccEntry),
    let x := s.die d
    let q := pendingAsk s d r
    let old := rgnRunList s d r
    let bolts := rgnBolts s d r
    let gen := bits (s.rgnWord d r 8) 32 16 + 1
    let roles := (runsOver old bolts q.first (q.first + q.count)).map (·.2.1)
    let holds (e : AccEntry) : Prop := s.frozen e.core = true ∨ (e.prior = false ∧ (migHolds s e.va = true ∨
      ∃ b, boltOf s d (hRegion e.handle) e.va = some b ∧ inRecast s d (hRegion e.handle) b = true))
    let within (va : BitVec 56) : Prop := ∃ b, boltOf s d r va = some b ∧ q.first ≤ b ∧ b < q.first + q.count
    (rgnState s d r ≠ 2 ∨ (∃ m ∈ x.skein, ∃ va ∈ m.touches, within va) ∨
        (∃ m ∈ x.released, m.prior = true ∧ hRegion m.handle = r ∧ within m.va) ∨
        (∃ t, homeHolds s t ∧ t.home = d ∧ t.region = r ∧ ∃ b ∈ t.blocks, within (BitVec.ofNat 56 (65536 * b))) →
      performs (.recastFlip d r) s (checkAllDone s)) ∧
    (rgnState s d r = 2 → q.dig = false → q.conv = false → q.role ≠ .stream → Space.stream ∉ roles →
      (∀ m ∈ x.bounds, m.1 / 2 ^ 47 = r → m.2 ≠ 0xFFFFFFFF) → (s.rgnx d r).alone = none →
      (∀ m ∈ x.skein, ∀ va ∈ m.touches, ¬ within va) →
      noneTaken s d (fun t block => t == r && blockInBolts s d r q.first q.count block) = true → old.Pairwise (fun a b => a.1 < b.1) → (old.head?).map (·.1) = some 0 →
      gen < 2 ^ 16 → q.first + q.count ≤ bolts → 0 < q.count → (newRuns old bolts q gen).length ≤ 16 →
      ∃ t, performs (.recastFlip d r) s (checkAllDone t) ∧ rgnState t d r = 1 ∧ arrivedOf t d r = 0 ∧
        bits (t.rgnWord d r 8) 32 16 = gen ∧
        (∀ b, b < bolts → (runAt (rgnRunList t d r) b).map (·.2) =
          if q.first ≤ b ∧ b < q.first + q.count then some (q.role, gen) else (runAt old b).map (·.2)) ∧
        (Space.fixed ∈ roles → bit (t.rgnWord d r 0x18) 31 = false) ∧
        (∀ b, b < rgnKey s d r ∨ rgnKey s d r + 256 ≤ b → t.byte b = s.byte b) ∧
        rgnBase t d r = rgnBase s d r ∧ rgnBolts t d r = bolts ∧ t.poison = s.poison ∧ t.strands = s.strands ∧
        ∀ j, (tget 0 (t.die d).bounds j) = if (Space.accrue ∈ roles ∨ q.role = .accrue) ∧ j / 2 ^ 47 = r ∧
            rgnBase s d r + 65536 * q.first ≤ j % 2 ^ 47 * 16 ∧ j % 2 ^ 47 * 16 < rgnBase s d r + 65536 * (q.first + q.count)
          then 0 else tget 0 x.bounds j) ∧
    ((∀ m ∈ x.released, holds m) → performs (.accrueEntryPerform d) s s) ∧
    (∀ before, x.released = before ++ e :: rest → (∀ m ∈ before, holds m) → ¬ holds e → homeOf e.va = d →
      (homeCheck s e.tenant e.handle e.prior e.op.size [(0, e.va)] = .ok → placed s .accrue e.va { wr := true } k →
        pendingPage s .accrue (pageAt s .accrue e.va) = false →
        let y := s.recx e.id.die e.id.record
        let done (t : State) : Prop := performs (.accrueEntryPerform d) s (checkAllDone t) ∧ (t.die d).released = before ++ rest ∧
          t.recx e.id.die e.id.record = (if y.launch = e.id.launch then { y with pendAcc := y.pendAcc - 1 } else y) ∧
          (∀ b, b < k ∨ k + e.op.size ≤ b → t.byte b = s.byte b) ∧
          ∀ b, t.blockPoison b = (s.blockPoison b || (e.poison && decide (b / 256 = k / 256)))
        (∀ o w v, e.op = .int o w v → w = 32 ∨ w = 64 → ∃ t, done t ∧
          let a := s.num k (w / 8)
          let v := v.toNat % 2 ^ w
          (t.die d).bounds = x.bounds ∧ t.num k (w / 8) = match o with
            | 0 => (a + v) % 2 ^ w
            | 1 => if sext w a ≤ sext w v then a else v
            | 2 => if sext w a ≤ sext w v then v else a
            | 3 => a &&& v
            | 4 => a ||| v
            | _ => a ^^^ v) ∧
        (∀ p inc, e.op = .af p inc → hAflsb e.handle = sext 12 (bits (s.rgnWord d (hRegion e.handle) 0x18) 40 12) →
          let j := hRegion e.handle * 2 ^ 47 + vaOff e.va / 16
          ∃ t, done t ∧ (t.num k 16, (tget 0 (t.die d).bounds j).toNat) = afApply (s.num k 16) (tget 0 x.bounds j).toNat p inc ∧
            ∀ m, m ≠ j → tget 0 (t.die d).bounds m = tget 0 x.bounds m)) ∧
      (∀ lanes, homeCheck s e.tenant e.handle e.prior e.op.size [(0, e.va)] = .perm lanes → performs (.accrueEntryPerform d) s
        (failRecord (entryDone (s.setDie d { x with released := before ++ rest }) e) e.id 0x0C)))

/-- O56 (R180, R184, R325, R349, R350, R353, R354, R357, R358): the fabric. A message for another module leaves the package;
one for this module is written by its collective, or, after a row that failed, fails like it with nothing written, or ends the
collective with ILL when the check words differ; a tile is read and its messages leave; a collective with nothing left to send
or receive completes with its word, and a cancelled one with WAIT, FABCAN keeping its number; a port's link state follows the
link; a retried flit changes nothing. How messages and collectives are kept is the model's choice (log entry 37). That a tile or
message which waits is one its home has taken is its reading (log entry 70). -/
def Obligations.FabricEvents : Prop :=
  ∀ (s : State) (d link port num : Nat) (up : Bool) (m : Message) (c : Coll) (pre post : List Message) (before rest : List Coll)
    (at' : BitVec 56 → Nat),
    let x := s.die m.die
    let sent : Prop := s.messages = pre ++ m :: post ∧ ∀ q ∈ pre, q ≠ { m with poison := q.poison }
    let live : Prop := ∃ st, (s.core c.core).stitch = some st ∧ st.id = c.id ∧ st.lin = c.lin
    let lessUnsent (t : State) : Prop := ∀ c2, (s.die m.sender).colls.find? (fun q => q.num == m.num) = some c2 →
      m.sender ≠ m.die → (t.die m.sender).colls.find? (fun q => q.num == m.num) = some { c2 with unsent := c2.unsent - 1 }
    let word (status : BitVec 8) (c : Coll) : Word := BitVec.ofNat 64 (c.seq.toNat * 2 ^ 48 + status.toNat * 2 ^ 40
      + (if c.poison then 2 ^ 39 else 0) + 3 * 2 ^ 36 + min ((c.wrote + 7) / 8) (2 ^ 32 - 1))
    let fw : Prop := s.boot.state = .running
    let queue := (s.core c.core).engine 3
    let ended (t : State) (d : Nat) (status : BitVec 8) (c : Coll) : Prop :=
      (t.die d).collWords.find? (fun e => e.1 == c.num.toNat) = some (c.num.toNat, word status c) ∧
      (∀ q, q ∈ (t.die d).colls → q.num ≠ c.num) ∧ (∀ q, q ∈ (t.die d).tracks ↔ q ∈ (s.die d).tracks ∧ q.num ≠ c.num) ∧
      (live ∨ ((s.core c.core).stitch = none ∧ c.id = {}) → queue.heldEntries = [] → queue.comp.length < 32 →
        ((t.core c.core).engine 3).comp = queue.comp ++ [word status c]) ∧ t.mem = s.mem
    performs (.flitRetry d link) s s ∧
    (port < 32 → portDie port = d → ∃ t, performs (.portLinkUpChange d port up) s t ∧ onlyDie s t d ∧
      t.die d = { s.die d with portUp := (t.die d).portUp } ∧
      ∀ j, j < 32 → (t.die d).portUp.getLsbD j = if j = port then up else (s.die d).portUp.getLsbD j) ∧
    (portDie port ≠ d → performs (.portLinkUpChange d port up) s s) ∧
    (sent → m.module_ ≠ x.module_.toNat → ∃ t, performs (.messageDelivery m) s t ∧ t.messages = pre ++ post ∧ t.mem = s.mem ∧
      t.strands = s.strands ∧ lessUnsent t) ∧
    (sent → m.module_ = x.module_.toNat → x.colls = before ++ c :: rest →
      (∀ q ∈ before, q.started = true → lpTag q.desc = m.tag → q.check = m.check ∧ tget 0 q.left m.member = 0) →
      c.started = true → lpTag c.desc = m.tag →
      (c.check ≠ m.check → m.sender ≠ m.die → ∃ t, performs (.messageDelivery m) s t ∧ ended t m.die 0x01 c ∧
        t.messages = pre ++ post ∧ lessUnsent t) ∧
      (let h := c.dst
       let w := hWidth h
       let els := m.cells.zipIdx.map (fun e => ((⟨e.2, 0, (elemAddr h w e.1.1).1, (elemAddr h w e.1.1).2⟩ : Elem), e.1.2))
       let got (c' : Coll) : Prop := c'.num = c.num ∧ tget 0 c'.left m.member = tget 0 c.left m.member - m.cells.length
       c.check = m.check → 0 < tget 0 c.left m.member → s.frozen c.core = false →
       (c.dstFail ≠ 0 → ∃ t, performs (.messageDelivery m) s t ∧ t.mem = s.mem ∧ t.poison = s.poison ∧
         (∃ c', c' ∈ (t.die m.die).colls ∧ got c' ∧ c'.wrote = c.wrote ∧ c'.poison = true ∧
           c'.status = if c.status = 0 then c.dstFail else c.status) ∧ t.messages = pre ++ post ∧ lessUnsent t) ∧
       (c.dstFail = 0 → live → (s.strand c.strand).taken = none →
        coreOf c.strand = c.core → lpReduces c.desc = false → hLegal h = true → dieWrong h (some (hSpace h)) = false →
        (hBase h).toNat % elemBytes w = 0 → reaches { s with cur := c.strand } h .loose { wr := true } false w (els.map (·.1)) at' →
        (∀ q ∈ els, trackFull s q.1.va = false) → (∀ q ∈ x.matching, q.tag ≠ m.tag) → ∃ t, performs (.messageDelivery m) s t ∧
          (∃ order : List (Elem × Nat), order.Perm els ∧ ∀ j, t.byte j = written (order.flatMap (fun q => elemCells (at' q.1.va) w q.1.hi q.2)) j (s.byte j)) ∧
          (m.poison = true → ∀ q ∈ els, t.blockPoison (at' q.1.va) = true) ∧
          (∃ c', c' ∈ (t.die m.die).colls ∧ got c' ∧ c'.wrote = c.wrote + m.cells.length * w ∧
            c'.poison = (c.poison || m.poison || els.any (fun q => t.blockPoison (at' q.1.va)))) ∧
          t.messages = pre ++ post ∧ lessUnsent t))) ∧
    (let y := s.die d
     let h := c.src
     let w := hWidth h
     let els (r : List Nat) : List Elem := r.zipIdx.map (fun e => ⟨e.2, 0, (elemAddr h w e.1).1, (elemAddr h w e.1).2⟩)
     let row (r : List Nat) : SentRow := (r.zip ((els r).map (fun e => readElem s (at' e.va) w e.hi)),
       (els r).any (fun e => s.blockPoison (at' e.va)))
     let j := ((List.range (lpM c.desc)).find? (fun k => lpMember c.desc k == (y.module_.toNat, d))).getD 0
     let ready : Prop := ∀ t ∈ y.tracks, t.count < t.size
     (ready → (∀ q ∈ y.colls, q.tiles = []) → performs (.tileTransfer d) s s) ∧
     (∀ i more, ready → y.colls = before ++ c :: rest → (∀ q ∈ before, q.started = false ∨ q.tiles = []) →
      (y.colls.map (·.num)).Nodup → c.started = true → c.tiles = i :: more →
      c.srcFail = 0 → live →
      coreOf c.strand = c.core → (s.strand c.strand).taken = none → dieWrong h (some (hSpace h)) = false →
      (hBase h).toNat % elemBytes w = 0 →
      (hSpace h = .fixed → ∀ r ∈ tileElems c.desc i, ∀ e ∈ els r, replicaOf { s with cur := c.strand } h e.va = none) →
      (∀ r ∈ tileElems c.desc i, reaches { s with cur := c.strand } h (hSpace h) { rd := true } false w (els r) at') →
      let ms := ((tileElems c.desc i).map row).flatMap (rowMessages c.desc c d j ((hFmt h).getD .fp32))
      ∃ t, performs (.tileTransfer d) s t ∧ t.messages = s.messages ++ ms ∧ t.mem = s.mem ∧ t.poison = s.poison ∧
        ∃ c', c' ∈ (t.die d).colls ∧ c'.num = c.num ∧ c'.tiles = c.tiles.filter (fun q => q != i) ∧
          c'.unsent = c.unsent + ms.length ∧ c'.status = c.status ∧
          c'.poison = (c.poison || ((tileElems c.desc i).map row).any (·.2)))) ∧
    ((s.die d).colls.find? (fun q => q.num.toNat == num) = some c →
      (c.started = true → c.tiles = [] → (∀ t ∈ (s.die d).tracks, t.num ≠ c.num) → c.unsent = 0 → c.left = [] →
        ∃ t, performs (.collectiveComplete d num) s t ∧ ended t d c.status c) ∧
      (c.unsent ≠ 0 ∨ c.started = false → performs (.collectiveComplete d num) s s) ∧
      (fw → ∃ t, performs (.collectiveCancel d num) s t ∧ (t.die d).fabCan = c.num ∧ ended t d 0x09 c)) ∧
    ((s.die d).colls.find? (fun q => q.num.toNat == num) = none →
      performs (.collectiveComplete d num) s s ∧ (num < 2 ^ 16 → fw →
        performs (.collectiveCancel d num) s (s.setDie d { s.die d with fabCan := BitVec.ofNat 16 num })))

/-- O57 (R327-R329): migration. A request with GO waits its turn; one whose epoch differs ends at once with MOVED and the
page's epoch, one for a page of another die with REFUSED, as at the flip one for a page that is pinned by then; a register copy
whose request has not ended takes no other, and MIGCMD keeps no bit that R329 does not give (the model's choice, log entry 40).
Once no request to the page waits, and over an open link where host memory is concerned, the flip moves the page's bytes and
poison, rewrites its leaf entry, drops its translations, adds 1 to its epoch and reports DONE. That a page of another die is
refused, as at the flip one that is pinned by then, is the model's reading (log entry 74), and that a busy copy takes no request
its choice (log entry 75). That copy and flip are one action is the model's choice (log entry 38). Which requests wait for the
page is the model's reading (log entry 70). -/
def Obligations.MigrationEvents : Prop :=
  ∀ (s : State) (d : Nat) (host : Bool) (va : BitVec 56) (cmd : Word) (q : MigReq) (k a b : Nat),
    let x := s.die d
    let i : Instr := .migrationRequest d host va cmd
    let copy (y : Die) : MigRegs := if host then y.migHost else y.migFw
    let other (y : Die) : MigRegs := if host then y.migFw else y.migHost
    let word : Word := cmd &&& 0xC6FFFFFFFFFFF0FF
    let new : MigReq := ⟨host, va, word⟩
    let gives (queue : List MigReq) (r : MigRegs) : Prop := ∃ t, performs i s t ∧ onlyDie s t d ∧ copy (t.die d) = r ∧
      t.die d = { x with migFw := (t.die d).migFw, migHost := (t.die d).migHost, migQueue := queue } ∧ other (t.die d) = other x
    ((copy x).cmd.getLsbD 63 = true → performs i s s) ∧
    ((copy x).cmd.getLsbD 63 = false → s.boot.state = .running → (host = true → memOpen s = true) →
      (cmd.getLsbD 63 = false → gives x.migQueue { va := va, cmd := word, res := (copy x).res }) ∧
      (cmd.getLsbD 63 = true → x.migQueue ≠ [] → gives (x.migQueue ++ [new]) { va := va, cmd := word, res := 0 }) ∧
      (cmd.getLsbD 63 = true → x.migQueue = [] → migCheck s d new = none → gives [new] { va := va, cmd := word, res := 0 }) ∧
      (cmd.getLsbD 63 = true → x.migQueue = [] → vaDie va ≠ d →
        gives [] { va := va, cmd := word &&& ~~~(1#64 <<< 63), res := BitVec.ofNat 64 (4 * 2 ^ 61) }) ∧
      (cmd.getLsbD 63 = true → x.migQueue = [] → vaDie va = d → cmd.toNat % 256 ≠ (pageEpoch x (migPage s new)).toNat →
        gives [] { va := va, cmd := word &&& ~~~(1#64 <<< 63), res := BitVec.ofNat 64 (2 * 2 ^ 61 +
          (if migAtHost s new then 2 ^ 60 else 0) + (pageEpoch x (migPage s new)).toNat) })) ∧
    (let page := migPage s q
     let p := migSize s q
     let n := 2 ^ pageBits p
     let w := s.num k 8
     let frame := cmd.toNat / 2 ^ 12 % 2 ^ 44
     let w' := putBits (putBits w 12 44 frame) 3 1 (if cmd.getLsbD 62 then 1 else 0)
     s.Inv → x.migQueue = [q] → q.cmd = cmd → vaDie q.va = d → migPinned s q = false → pageLeaf s q.space q.va = some k →
      (∀ e ∈ x.skein, pageAt s e.space e.va ≠ pageAt s e.space page) →
      noneTaken s d (fun _ block => pageOf p (BitVec.ofNat 56 (65536 * block)) == page) = true → (∀ m ∈ s.dies, m.2.forwards = []) →
      (bit w 3 = true ∨ cmd.getLsbD 62 = true → memOpen s = true) → leafPlace page p w {} = .ok a →
      leafPlace page p w' {} = .ok b → (a + n ≤ b ∨ b + n ≤ a) → ∃ t, performs (.migrationFlip d) s t ∧
        (∀ j, j < n → (b + j < k ∨ k + 8 ≤ b + j) → t.byte (b + j) = s.byte (a + j)) ∧
        (∀ j, j < n → t.blockPoison (b + j) = s.blockPoison (a + j)) ∧ t.num k 8 = w' ∧
        (∀ j, (j < b ∨ b + n ≤ j) → (j < k ∨ k + 8 ≤ j) → t.byte j = s.byte j) ∧
        (t.die d).migQueue = [] ∧ pageEpoch (t.die d) page = pageEpoch x page + 1 ∧
        (∀ e ∈ (t.die d).tlb, pageOf e.psize.toNat page ≠ e.page) ∧
        (let r := if q.host then (t.die d).migHost else (t.die d).migFw
         bits r.res.toNat 61 3 = 1 ∧ bits r.res.toNat 0 8 = (pageEpoch x page + 1).toNat ∧ r.cmd.getLsbD 63 = false)) ∧
    (x.migQueue = [q] → migPinned s q = true → (∀ m ∈ s.dies, m.2.forwards = []) → ∃ t, performs (.migrationFlip d) s t ∧
      t.mem = s.mem ∧ t.poison = s.poison ∧ (t.die d).migQueue = [] ∧ (t.die d).epochs = x.epochs ∧
      (let r := if q.host then (t.die d).migHost else (t.die d).migFw
       bits r.res.toNat 61 3 = 4 ∧ r.cmd.getLsbD 63 = false)) ∧
    (x.migQueue = [] → performs (.migrationFlip d) s s)

/-- O58 (R299, R301, R330-R333): the host's submission rings. A kick inside the window is remembered, one that names handled
slots is not, and any other, or one to a disabled ring, stops the ring with STALEPKT; a poll reads SEQ at the first read and
every 64 cycles after it; one whose SEQ matches applies the packet whole, or records PERM, and goes on to the next slot; one
that would arm a record whose pricking lies on a page that moves waits in its slot; a slot that has not matched after 4,096
cycles stops the ring; clearing HSQERR.VALID restarts it. That STALEPKT stops a ring and PERM does not, and that SEQ is read on
the grid of 64 cycles, is the model's reading (log entry 39). That an arming packet stays in its slot while the pricking's page
moves is its reading (log entry 71). -/
def Obligations.HostRings : Prop :=
  ∀ (s : State) (d n : Nat) (kick : BitVec 32),
    let r := s.ring d n
    let j := (kick - r.next).toNat
    let p := packetKey s d n r.next
    let i : Instr := .hostKick d n kick
    let poll : Instr := .seqPoll d n
    let sets (i : Instr) (r' : HostRing) : Prop := performs i s (s.setRing d n r')
    let stale (reason : Nat) (seq : BitVec 32) (r : HostRing) : HostRing := { r with
      err := BitVec.ofNat 64 (2 ^ 63 + 0x13 * 2 ^ 40 + reason * 2 ^ 32 + seq.toNat), upto := none, firstRead := none }
    let stopsAt (i : Instr) (r' : HostRing) : Prop := ∃ t, performs i s t ∧ t.ring d n = r' ∧ t.boot.irqs = s.boot.irqs + 1 ∧
      t.mem = s.mem
    let name := s.num p 8
    let num := nameNum (BitVec.ofNat 64 name)
    let since := (s.cycle - r.firstRead.getD s.cycle).toNat
    let takes : Prop := r.stopped = false ∧ r.en = true ∧ r.upto ≠ none ∧ since < 4096 ∧ since % 64 = 0
    let linked : Prop := s.boot.state = .running ∧ memOpen s = true
    (linked → r.stopped = true → sets i { r with kick := kick }) ∧
    (linked → r.stopped = false → r.en = false → stopsAt i (stale 3 kick { r with kick := kick })) ∧
    (linked → r.stopped = false → r.en = true →
      (j ≤ 255 → ∃ t, performs i s t ∧ (t.ring d n).kick = kick ∧ (t.ring d n).next = r.next ∧ (t.ring d n).err = r.err ∧
        t.mem = s.mem ∧ (r.upto = none → (t.ring d n).upto = some kick) ∧
        ∀ u, r.upto = some u → (t.ring d n).upto = if (u - r.next).toNat < j then some kick else some u) ∧
      (255 < j → j < 2 ^ 32 - 256 → stopsAt i (stale 2 kick { r with kick := kick })) ∧
      (2 ^ 32 - 256 ≤ j → sets i { r with kick := kick })) ∧
    (r.stopped = true ∨ r.en = false ∨ r.upto = none ∨ since % 64 ≠ 0 ∨ 4096 ≤ since → performs poll s s) ∧
    (takes → s.num (p + 0x78) 4 ≠ r.next.toNat → sets poll { r with firstRead := some (r.firstRead.getD s.cycle) }) ∧
    (takes → s.num (p + 0x78) 4 = r.next.toNat →
      (¬ (name < 2 ^ 17 ∧ name / 2 ^ 12 % 32 = d ∧ d ≤ 23) → ∃ t, performs poll s t ∧ t.mem = s.mem ∧
        (t.ring d n).err = BitVec.ofNat 64 (2 ^ 63 + 0x0C * 2 ^ 40 + 1 * 2 ^ 32 + r.next.toNat) ∧ (t.ring d n).next = r.next + 1) ∧
      (name < 2 ^ 17 → name / 2 ^ 12 % 32 = d → d ≤ 23 →
        (s.recTenant d num ≠ r.tenant.toNat → ∃ t, performs poll s t ∧ t.mem = s.mem ∧
          (t.ring d n).err = BitVec.ofNat 64 (2 ^ 63 + 0x0C * 2 ^ 40 + 2 * 2 ^ 32 + r.next.toNat) ∧ (t.ring d n).next = r.next + 1) ∧
        (s.recTenant d num = r.tenant.toNat → bit (s.num (p + 0x28) 8) 0 = false →
          (∀ f ∈ packetFields s p, patchRefused s d num f.1 f.2 = none) → ∃ t, performs poll s t ∧ t.recState d num = 1 ∧
            t.recWord d num 8 = s.num (p + 8) 8 ∧ bits (t.recWord d num 0) 10 6 = s.num (p + 0x10) 8 % 64 ∧
            bits (t.recWord d num 0x10) 0 16 = bits (s.num (p + 0x10) 8) 16 16 ∧
            bits (t.recWord d num 0x10) 16 16 = bits (s.num (p + 0x10) 8) 32 16 ∧
            bits (t.recWord d num 0x10) 32 17 = s.num (p + 0x18) 8 ∧ t.recWord d num 0x20 = s.num (p + 0x20) 8 ∧
            (∀ b, b < recKey s d num ∨ recKey s d num + 256 ≤ b → t.byte b = s.byte b) ∧
            (t.ring d n).err = r.err ∧ (t.ring d n).next = r.next + 1 ∧ (t.ring d n).firstRead = none ∧
            (t.ring d n).upto = if r.upto = some r.next then none else r.upto) ∧
        (s.recTenant d num = r.tenant.toNat → bit (s.num (p + 0x28) 8) 0 = true →
          (∀ f ∈ packetFields s p, patchRefused s d num f.1 f.2 = none) →
          let j := s.num (p + 0x18) 8
          let job := s.job (bits j 12 5) (bits j 0 12)
          let refused (sub : Nat) : Prop := ∃ t, performs poll s t ∧ t.mem = s.mem ∧
            (t.ring d n).err = BitVec.ofNat 64 (2 ^ 63 + 0x0C * 2 ^ 40 + sub * 2 ^ 32 + r.next.toNat) ∧ (t.ring d n).next = r.next + 1
          (job.tenant ≠ r.tenant → refused 2) ∧ (job.tenant = r.tenant → job.count = BitVec.allOnes 32 → refused 4) ∧
          (job.tenant = r.tenant → job.count ≠ BitVec.allOnes 32 →
            (migHolds s (BitVec.ofNat 56 (s.num (p + 8) 8)) = true → sets poll { r with firstRead := none }) ∧
            (migHolds s (BitVec.ofNat 56 (s.num (p + 8) 8)) = false → ∃ t, performs poll s t ∧
              t.recState d num = (if bits (s.num (p + 0x10) 8) 32 16 = 0 then 3 else 2) ∧
              (t.job (bits j 12 5) (bits j 0 12)).count = job.count + 1 ∧ (t.ring d n).err = r.err ∧ (t.ring d n).next = r.next + 1))))) ∧
    (∀ f, r.firstRead = some f → r.stopped = false → 4096 ≤ (s.cycle - f).toNat →
      stopsAt (.stalepktTimeout d n) (stale 1 r.next r)) ∧
    (r.firstRead = none → performs (.stalepktTimeout d n) s s) ∧
    (linked → ∃ r', sets (.hsqerrClear d n) r' ∧ r' = { r with err := r'.err } ∧ r'.err.getLsbD 63 = false ∧
      ∀ b, b < 63 → r'.err.getLsbD b = r.err.getLsbD b)

/-- O59 (R14, R224, R252, R274, R300, R310, R323, R326, R333, R350, R366, R368, R370, R371, R382): firmware's registers and its
other acts. A write sets the fields of the register at its offset and ignores reserved bits, and an offset that holds no
register changes nothing; a read answers them, the tenant keys as 0; a record takes the STATE written, begins a launch when that
is Ready, and loses a raised EPRIO when it leaves Running; a tenant's Sampler entries go on every die; throttling changes no
result. That firmware leaving Running ends a raised EPRIO, the tenant of a job as a register behind those of the clusters (log
entry 36), and the 15 bits of TLIM.SK (log entry 42) and what the host reads before Running (log entry 40) are the model's
reading; the bases are opaque. -/
def Obligations.FirmwareActs : Prop :=
  ∀ (s : State) (d n off c : Nat) (v : Word) (st : BitVec 3) (tenant : Nat) (host : Bool), s.boot.state = .running →
    let x := s.die d
    let sets (off : Nat) (y : Die) : Prop := performs (.fwRegisterWrite d off v) s (s.setDie d y)
    let keep (lo n : Nat) : Word := BitVec.ofNat 64 (v.toNat / 2 ^ lo % 2 ^ n * 2 ^ lo)
    let entry : Word := keep 63 1 ||| keep 60 2 ||| keep 12 44
    let field (lo n : Nat) : Nat := v.toNat / 2 ^ lo % 2 ^ n
    let y := s.cluster (16 * d + c)
    let cluster (y' : Cluster) : Prop := performs (.fwRegisterWrite d off v) s (s.setCluster (16 * d + c) y')
    let sheds (y' : Boot) : Prop := performs (.fwRegisterWrite 0 off v) s { s with boot := y' }
    let got (off : Nat) : Word := readReg s d off host
    let reads (off lo n w : Nat) : Prop := (got off).toNat / 2 ^ lo % 2 ^ n = w
    (sets 0x1000 { x with rgnBase := keep 16 40 } ∧ sets 0x1018 { x with skThr := v.setWidth 15 } ∧
      sets 0x2000 { x with recBase := keep 20 36 } ∧ sets 0x2008 { x with dmode := keep 63 1 ||| keep 0 48 } ∧
      sets 0x2410 { x with hits := v.setWidth 32 } ∧ sets 0x3000 { x with hsqBase := keep 20 36 } ∧
      sets 0x4000 { x with module_ := v.setWidth 11 } ∧ sets 0x1010 { x with skHigh := BitVec.ofNat 16 (field 32 16) } ∧
      sets 0x1008 { x with tlbInv := keep 63 1 ||| keep 56 2 ||| keep 0 56, tlb := x.tlb.filter (fun e =>
        !(e.space == spaceOf (field 56 2) && (v.getLsbD 63 || e.page == pageOf e.psize.toNat (v.setWidth 56)))) } ∧
      sets 0x2800 { x with migFw := { x.migFw with va := v.setWidth 56 } } ∧
      ((∀ q ∈ x.colls, q.num ≠ v.setWidth 16) → sets 0x4018 { x with fabCan := v.setWidth 16 }) ∧
      ∃ e, sets 0x4008 { x with portEn := e } ∧ ∀ p, p < 32 → e.getLsbD p = (decide (portDie p = d) && v.getLsbD p)) ∧
    (n < 128 → sets (0x1100 + 8 * n) { x with raf := tset 0 x.raf n entry } ∧
      sets (0x2010 + 8 * n) { x with squota := tset 0 x.squota n (min (v.toNat % 2 ^ 14) 8192) } ∧
      sets (0x5000 + 8 * n) { x with
        tlimMt := tset 1024 x.tlimMt n (min (v.toNat / 2 ^ 32 % 2 ^ 11) 1024), tlimSk := tset 16384 x.tlimSk n (v.toNat % 2 ^ 15) }) ∧
    (n < 16 → sets (0x3100 + 8 * n) { x with hostRings := tset {} x.hostRings n { s.ring d n with
      en := v.getLsbD 63, tenant := BitVec.ofNat 7 (v.toNat / 2 ^ 32) } } ∧
      sets (0x3300 + 8 * n) (if v.getLsbD 63 then { x with hostRings := tset {} x.hostRings n { s.ring d n with
        err := (s.ring d n).err &&& ~~~(1#64 <<< 63) } } else x)) ∧
    (n < 128 → (d = 0 → sets (0x1500 + 8 * n) { x with hostRaf := tset 0 x.hostRaf n entry }) ∧
      (d ≠ 0 → performs (.fwRegisterWrite d (0x1500 + 8 * n) v) s s)) ∧
    (n < 512 → ∃ k, sets (0x6000 + 8 * n) { x with tkey := tset 0 x.tkey (n / 4) k } ∧ ∀ b, b < 256 → k.getLsbD b =
      if b / 64 = n % 4 then v.getLsbD (b % 64) else (tget 0 x.tkey (n / 4)).getLsbD b) ∧
    (off = 0x0108 → sheds { s.boot with hdmDrop := s.boot.hdmDrop &&& ~~~(BitVec.ofNat 16 (field 48 16)) }) ∧
    (n < 18 → off = 0x0200 + 8 * n → sheds { s.boot with hdmOpen := tset 0 s.boot.hdmOpen n v }) ∧
    (0x7000 ≤ off →
      (clusterReg off = some (c, 0) → cluster { y with rtop := BitVec.ofNat 6 (min (field 0 6) 43) }) ∧
      (clusterReg off = some (c, 8) → cluster { y with
        disc := y.disc &&& ~~~(BitVec.ofNat 16 (field 20 16)), grants := BitVec.ofNat 16 (field 0 16) }) ∧
      (clusterReg off = some (c, 16) → cluster { y with early := BitVec.ofNat 16 (field 32 16) }) ∧
      (clusterReg off = none → n < 4096 → off = jobsAt + 8 * n →
        performs (.fwRegisterWrite d off v) s (s.setJob d n { s.job d n with tenant := v.setWidth 7 }))) ∧
    (off ∈ [0x0000, 0x0100, 0x0110, 0x0290, 0x1020, 0x1900, 0x2418, 0x2810, 0x3180, 0x3280, 0x3380, 0x4010, 0x5400, 0x5800, 0x7000] →
      clusterReg off = none → regIdx off jobsAt 8 4096 = none → performs (.fwRegisterWrite d off v) s s) ∧
    let answered : Prop := host = true → memOpen s = true
    (answered → got 0x1000 = x.rgnBase ∧ got 0x1008 = x.tlbInv ∧ got 0x2000 = x.recBase ∧ got 0x2008 = x.dmode ∧ got 0x3000 = x.hsqBase ∧
      got 0x4018 = x.fabCan.setWidth 64 ∧ reads 0x1010 63 1 (if 16384 ≤ x.skein.length then 1 else 0) ∧
      reads 0x1010 32 16 x.skHigh.toNat ∧ reads 0x1010 0 15 (x.skein.length % 2 ^ 15) ∧
      reads 0x4010 32 9 (x.tracks.length % 2 ^ 9) ∧ reads 0x4010 0 7 (x.colls.length % 2 ^ 7) ∧
      (x.frz = [] → got 0x5800 = 0) ∧ (∀ k l rest, x.frz = (k, l) :: rest →
        reads 0x5800 63 1 1 ∧ reads 0x5800 8 8 (l % 2 ^ 8) ∧ reads 0x5800 0 7 (k % 2 ^ 7)) ∧
      (d = 0 → reads 0x0100 0 3 s.boot.state.code ∧ reads 0x0100 8 8 s.boot.err.toNat ∧
        reads 0x0100 32 8 (s.boot.svn.toNat % 256) ∧ reads 0x0100 40 24 s.boot.rej.toNat ∧ got 0x0110 = s.boot.svn.setWidth 64 ∧
        reads 0x0108 48 16 s.boot.hdmDrop.toNat ∧ (n < 18 → got (0x0200 + 8 * n) = tget 0 s.boot.hdmOpen n)) ∧
      (n < 512 → got (0x6000 + 8 * n) = 0) ∧ (n < 128 → got (0x1100 + 8 * n) = tget 0 x.raf n)) ∧
    (answered → 0x7000 ≤ off → clusterReg off = some (c, 8) → reads off 20 16 y.disc.toNat ∧ reads off 0 16 y.grants.toNat ∧
      (y.lease = none → reads off 36 28 0) ∧
      ∀ l, y.lease = some l → reads off 63 1 1 ∧ reads off 60 3 (l.core % 8) ∧ reads off 54 6 (corePrio s l.core % 64) ∧
        (l.byCycles = false → reads off 53 1 0 ∧ reads off 36 17 (l.left % 2 ^ 17)) ∧
        (l.byCycles = true → s.frozen l.core = false →
          reads off 53 1 1 ∧ reads off 36 17 ((l.left - (s.cycle - l.granted).toNat) % 2 ^ 17))) ∧
    (let i : Instr := .firmwareWritesState d n st
     ∃ t, performs i s t ∧ t.recState d n = st.toNat ∧
      (∀ b, b < recKey s d n ∨ recKey s d n + 8 ≤ b → t.byte b = s.byte b) ∧
      bits (t.recWord d n 0) 10 6 = (if s.recState d n = 4 ∧ st ≠ 4 then bits (s.recWord d n 0) 16 6
        else bits (s.recWord d n 0) 10 6) ∧
      bits (t.recWord d n 0) 16 48 = bits (s.recWord d n 0) 16 48 ∧
      t.recx d n = if st = 3 then { launch := (s.recx d n).launch + 1, order := x.readySeq, readyAt := s.cycle } else s.recx d n) ∧
    (∃ t, performs (.tenantSamplerRemoval tenant) s t ∧ t = { s with dies := t.dies } ∧
      ∀ j, t.die j = { s.die j with sampler := (s.die j).sampler.filter (fun q => q.tenant != tenant) }) ∧
    performs (.powerThrottle d) s (s.setDie d { x with throttled := true }) ∧
    performs (.diePowerWithinCap d) s (s.setDie d { x with throttled := false })

/-- O60 (R361-R366, R369, R371, R372, R376): the host edge and bring-up. A read of open granules answers their bytes, one of a
closed granule poisoned data, and a write to a closed granule is dropped and counted. A reset leaves the module Dark and the
host's memory as it was. Transfer parts, their end and their abort move BOOTST as its table says, and answer Busy while the
image is verified. The last report makes the module Running, with the payload in every die's memory and firmware on every
steward, when every die accepts the image it has, and else Rejected with the lowest ERR and a bit for each rejecting die. A
status read answers BOOTST, in Running with the telemetry and the feature words; an attestation in Running what it signs, the
signature, the public identity key and its certificate. What unwritten memory reads as, what firmware needs to start, and the
opaque numbers of the signature are the model's choices (log entries 2, 8 and 10); so are the low bits of firmware's entry (log
entry 45), the forwarded image (log entry 53), and what survives a reset, the fate of ERR, the link rate that Running needs, the
data that a closed granule answers and what the host reads before Running (log entry 40). -/
def Obligations.BootEvents : Prop :=
  ∀ (s : State) (addr len rate width die : Nat) (data : List Byte) (nonce : BitVec 256),
    let b := s.boot
    let sets (i : Instr) (b' : Boot) : Prop := performs i s { s with boot := b' }
    let host : Prop := b.state = .running ∧ b.linkWidth ≠ 0 ∧ 64 ≤ b.linkRate
    let linked : Prop := b.linkWidth ≠ 0
    let place (a : Nat) : Nat := a / (48 * 2 ^ 30) * 2 ^ 36 + a % (48 * 2 ^ 30)
    let opened (a : Nat) : Prop := (tget 0 b.hdmOpen (a / 2 ^ 30 / 64)).getLsbD (a / 2 ^ 30 % 64) = true
    (host → (∀ j, j < len → opened (addr + j)) → sets (.hostHdmRead addr len) { b with
      hostRead := (List.range len).map (fun j => s.byte (place (addr + j)))
      hostReadPoison := (List.range len).any (fun j => s.blockPoison (place (addr + j))) }) ∧
    (host → (∃ j, j < len ∧ ¬ opened (addr + j)) → sets (.hostHdmRead addr len) { b with hostRead := [], hostReadPoison := true }) ∧
    (host → (∃ j, j < data.length ∧ ¬ opened (addr + j)) → sets (.hostHdmWrite addr data) { b with
      hdmDrop := if b.hdmDrop = BitVec.allOnes 16 then b.hdmDrop else b.hdmDrop + 1 }) ∧
    (host → (∀ j, j < data.length → opened (addr + j)) → ∃ t, performs (.hostHdmWrite addr data) s t ∧
      t = { s with mem := t.mem, poison := t.poison, dies := t.dies } ∧
      ((∀ j, j < data.length → descOf s (place (addr + j)) = none) → t.dies = s.dies) ∧ (∀ j, j < data.length → t.byte (place (addr + j)) = data.getD j 0) ∧
      ∀ k, (∀ j, j < data.length → k ≠ place (addr + j)) → t.byte k = s.byte k) ∧
    (let read : Word := readReg s die addr true
     let edge : Prop := die = 0 ∧ (addr = 0x0100 ∨ addr = 0x0108 ∨ addr = 0x0110 ∨ ∃ j, j < 18 ∧ addr = 0x0200 + 8 * j)
     (¬ linked ∨ (¬ host ∧ ¬ edge) → read = 0) ∧
     (linked → die = 0 → addr = 0x0100 → bits read.toNat 0 3 = b.state.code ∧ bits read.toNat 8 8 = b.err.toNat ∧
      bits read.toNat 40 24 = b.rej.toNat)) ∧
    (¬ host → performs (.hostHdmRead addr len) s s ∧ performs (.hostHdmWrite addr data) s s) ∧
    (∀ i ∈ [Instr.powerOnReset, .thermalReset die], ∃ t, performs i s t ∧ t.boot = {} ∧ t.strands = [] ∧ t.cores = [] ∧
      t.clusters = [] ∧ t.dies = [] ∧ t.messages = [] ∧ t.cycle = 0 ∧ (∀ k, t.byte k = if 2 ^ 57 ≤ k then s.byte k else 0)) ∧
    (width = 16 ∨ width = 8 ∨ width = 4 → sets (.linkTrain rate width) { b with
      linkRate := min rate 64, linkWidth := width, err := if rate < 64 then 5 else if b.err = 5 then 0 else b.err }) ∧
    (linked →
      (b.state = .receiving →
        sets (.transferPart data) { b with image := b.image ++ data, mailboxCode := .success } ∧
        sets .transferEnd { b with state := .verifying, reports := [], sentAt := s.cycle, mailboxCode := .success } ∧
        sets .transferAbort { b with state := .dark, image := [], mailboxCode := .success }) ∧
      (b.state = .verifying → ∀ i ∈ [Instr.transferPart data, .transferEnd, .transferAbort, .getAttestation nonce],
        sets i { b with mailboxCode := .busy }) ∧
      (b.state = .running → sets (.transferPart data) { b with mailboxCode := .unsupported } ∧
        (let m := attestMessage s nonce
         let signed := m ++ ecdsaSign identityKey (scalarOf (Config.signNumber m)) (sha384 m)
         sets (.getAttestation nonce) { b with
           mailbox := signed ++ b.identity ++ Config.certificate b.identity, mailboxCode := .success })) ∧
      (b.state = .dark ∨ b.state = .rejected → sets (.transferPart data) { b with
        state := .receiving, image := data, reports := [], rej := 0, err := if b.linkRate < 64 then 5 else 0, mailboxCode := .success }) ∧
      (∃ t, performs .statusRead s t ∧ t = { s with boot := t.boot, freeCtr := t.freeCtr } ∧
        t.boot = { b with mailboxCode := .success, mailbox := bytesOf 8 (b.rej.toNat * 2 ^ 40 + b.svn.toNat % 256 * 2 ^ 32 +
          b.err.toNat * 2 ^ 8 + (match b.state with
            | .dark => 0
            | .receiving => 1
            | .verifying => 2
            | .running => 3
            | .rejected => 4)) ++ (if b.state = .running then telemetry s ++ featureReport else []) })) ∧
    (b.state = .verifying → die < 24 → (∀ e ∈ b.reports, e.1 ≠ die) →
      let img := imageAt b die
      let e := imageErr img die
      let loaded := (List.range 24).foldl (fun (u : State) j => loadFirmware u j (imageAt b j)) s
      let reports := b.reports ++ [(die, e)]
      (b.reports.length < 23 → sets (.imageVerify die) { b with reports := reports }) ∧
      (b.reports.length = 23 → (∀ r ∈ reports, r.2 = 0) → ∃ t, performs (.imageVerify die) s t ∧ t.boot.state = .running ∧
        t.boot.image = [] ∧ t.boot.imageDigest = sha384 b.image ∧ t.boot.identity = identityPublic ∧
        t.boot.svn = BitVec.ofNat 32 (natOfBytes ((b.image.drop 0x10).take 4)) ∧
        (∀ j, j < 24 → let x := t.strand (3 * (128 * j + 127))
          x.phase = .running ∧ x.mode = true ∧ x.pc = (Config.firmwareEntry j).setWidth 64 &&& ~~~3) ∧
        t.mem = loaded.mem ∧ t.dies = loaded.dies) ∧
      (b.reports.length = 23 → (reports.map (·.1)).Nodup → (∀ r ∈ reports, r.1 < 24) → (∃ r ∈ reports, r.2 ≠ 0) →
        ∃ err rej, sets (.imageVerify die) { b with reports := reports, state := .rejected, err := err, image := [], rej := rej } ∧
          (∃ r ∈ reports, r.2 = err) ∧ err ≠ 0 ∧ (∀ r ∈ reports, r.2 ≠ 0 → err.toNat ≤ r.2.toNat) ∧
          ∀ r ∈ reports, rej.getLsbD r.1 = (r.2 != 0)) ∧
      (e = 0 ↔ let l := natOfBytes ((img.drop 8).take 8)
        let key := (img.drop 0x40).take 97
        natOfBytes (img.take 4) = 0x4B534657 ∧ natOfBytes ((img.drop 4).take 1) = 1 ∧ l % 4096 = 0 ∧ l ≤ 64 * 2 ^ 20 ∧
          img.length = l ∧ sha384 key = Config.fusedKeyDigest die ∧
          (Config.fusedSvn die).toNat ≤ natOfBytes ((img.drop 0x10).take 4) ∧
          ecdsaVerify key ((img.drop 0x100).take 96) (sha384 (img.take 0x100 ++ img.drop 0x200)) = true))
end

