-- ==== Sys2Proof/Laws/Table.lean ====
section
/-! SUPPORT. Tables: what is read after a write, and the canonical form every write keeps. -/

namespace Sys2Proof.Machine
open Sys2Proof

variable {α : Type}

/-- Removing a key leaves the default there and every other key alone. -/
theorem tget_tdel (d : α) (t : List (Nat × α)) (k j : Nat) : tget d (tdel t k) j = if j = k then d else tget d t j := by
  induction t with
  | nil => simp [tdel, tget]
  | cons e r ih =>
    obtain ⟨i, v⟩ := e
    by_cases hik : i = k
    · subst hik
      rw [tdel, if_pos rfl, ih]
      by_cases hj : j = i
      · simp [hj]
      · have : i ≠ j := fun h => hj h.symm
        simp [hj, tget, this]
    · rw [tdel, if_neg hik, tget, ih]
      by_cases hij : i = j
      · subst hij
        simp [hik, tget]
      · simp [hij, tget]

/-- An inserted key reads as its value, when the table did not hold it. -/
theorem tget_tput (d : α) (t : List (Nat × α)) (k : Nat) (v : α) (j : Nat) (h : ∀ e ∈ t, e.1 ≠ k) :
    tget d (tput t k v) j = if j = k then v else tget d t j := by
  induction t with
  | nil =>
    by_cases hj : j = k
    · simp [tput, tget, hj]
    · have : k ≠ j := fun h => hj h.symm
      simp [tput, tget, hj, this]
  | cons e r ih =>
    obtain ⟨i, w⟩ := e
    have hi : i ≠ k := h (i, w) (by simp)
    have hr : ∀ e ∈ r, e.1 ≠ k := fun e he => h e (by simp [he])
    rw [tput]
    split
    · by_cases hj : j = k
      · simp [tget, hj]
      · have : k ≠ j := fun h => hj h.symm
        rw [tget, if_neg this, if_neg hj]
    · rw [tget, ih hr]
      by_cases hij : i = j
      · subst hij; simp [hi, tget]
      · simp [hij, tget]

/-- A key is gone after its removal. -/
theorem tdel_ne (t : List (Nat × α)) (k : Nat) : ∀ e ∈ tdel t k, e.1 ≠ k := by
  induction t with
  | nil => simp [tdel]
  | cons e r ih =>
    obtain ⟨i, v⟩ := e
    rw [tdel]
    split
    · exact ih
    · intro x hx
      rcases List.mem_cons.1 hx with h | h
      · subst h; assumption
      · exact ih x h

/-- Read after write. -/
@[simp] theorem tget_tset [DecidableEq α] (d : α) (t : List (Nat × α)) (k : Nat) (v : α) (j : Nat) :
    tget d (tset d t k v) j = if j = k then v else tget d t j := by
  rw [tset]
  split
  · rename_i h; rw [tget_tdel, h]
  · rw [tget_tput _ _ _ _ _ (tdel_ne t k), tget_tdel]
    split <;> rfl

/-- Read of the key written. -/
theorem tget_tset_same [DecidableEq α] (d : α) (t : List (Nat × α)) (k : Nat) (v : α) : tget d (tset d t k v) k = v := by simp

/-- The canonical form, spelled out: no default entry, keys strictly rising. -/
theorem tableWf_iff [DecidableEq α] (d : α) (t : List (Nat × α)) :
    tableWf d t = true ↔ (∀ e ∈ t, e.2 ≠ d) ∧ t.Pairwise (fun a b => a.1 < b.1) := by
  induction t with
  | nil => simp [tableWf]
  | cons e r ih =>
    obtain ⟨j, v⟩ := e
    cases r with
    | nil => simp [tableWf]
    | cons f u =>
      obtain ⟨k, w⟩ := f
      rw [tableWf, Bool.and_eq_true, Bool.and_eq_true, ih]
      simp only [decide_eq_true_eq, List.mem_cons, List.pairwise_cons, forall_eq_or_imp]
      constructor
      · rintro ⟨⟨hv, hjk⟩, ⟨hw, hu⟩, hk, hp⟩
        exact ⟨⟨hv, hw, hu⟩, ⟨hjk, fun a ha => Nat.lt_trans hjk (hk a ha)⟩, hk, hp⟩
      · rintro ⟨⟨hv, hw, hu⟩, ⟨hjk, _⟩, hk, hp⟩
        exact ⟨⟨hv, hjk⟩, ⟨hw, hu⟩, hk, hp⟩

/-- Removal gives a part of the table, in order. -/
theorem tdel_sublist (t : List (Nat × α)) (k : Nat) : (tdel t k).Sublist t := by
  induction t with
  | nil => simp [tdel]
  | cons e r ih =>
    obtain ⟨i, v⟩ := e
    rw [tdel]
    split
    · exact ih.trans (List.sublist_cons_self _ _)
    · exact ih.cons_cons _

/-- A part of a canonical table, in order, is canonical. -/
theorem tableWf_sublist [DecidableEq α] (d : α) {t u : List (Nat × α)} (h : u.Sublist t) (ht : tableWf d t = true) :
    tableWf d u = true := by
  rw [tableWf_iff] at ht ⊢
  exact ⟨fun e he => ht.1 e (h.subset he), ht.2.sublist h⟩

/-- What an insertion holds. -/
theorem mem_tput (t : List (Nat × α)) (k : Nat) (v : α) (e : Nat × α) : e ∈ tput t k v ↔ e = (k, v) ∨ e ∈ t := by
  induction t with
  | nil => simp [tput]
  | cons f r ih =>
    obtain ⟨j, w⟩ := f
    rw [tput]
    split
    · simp
    · simp only [List.mem_cons, ih]; exact or_left_comm

/-- An insertion of a missing key keeps the order. -/
theorem pairwise_tput (t : List (Nat × α)) (k : Nat) (v : α) (h : ∀ e ∈ t, e.1 ≠ k) (hp : t.Pairwise (fun a b => a.1 < b.1)) :
    (tput t k v).Pairwise (fun a b => a.1 < b.1) := by
  induction t with
  | nil => simp [tput]
  | cons f r ih =>
    obtain ⟨j, w⟩ := f
    rw [List.pairwise_cons] at hp
    have hj : j ≠ k := h (j, w) (by simp)
    rw [tput]
    split
    · rename_i hk
      rw [List.pairwise_cons]
      refine ⟨?_, by rw [List.pairwise_cons]; exact hp⟩
      intro a ha
      rcases List.mem_cons.1 ha with rfl | ha
      · exact hk
      · exact Nat.lt_trans hk (hp.1 a ha)
    · rename_i hk
      rw [List.pairwise_cons]
      refine ⟨?_, ih (fun e he => h e (by simp [he])) hp.2⟩
      intro a ha
      rcases (mem_tput _ _ _ _).1 ha with rfl | ha
      · simp only; omega
      · exact hp.1 a ha

/-- Every write keeps the canonical form. -/
theorem tableWf_tset [DecidableEq α] (d : α) (t : List (Nat × α)) (k : Nat) (v : α) (h : tableWf d t = true) :
    tableWf d (tset d t k v) = true := by
  have hd := tableWf_sublist d (tdel_sublist t k) h
  rw [tset]
  split
  · exact hd
  · rename_i hv
    rw [tableWf_iff] at hd ⊢
    refine ⟨?_, pairwise_tput _ _ _ (tdel_ne t k) hd.2⟩
    intro e he
    rcases (mem_tput _ _ _ _).1 he with rfl | he
    · exact hv
    · exact hd.1 e he

/-- A second removal of a key finds nothing. -/
theorem tdel_tdel (t : List (Nat × α)) (k : Nat) : tdel (tdel t k) k = tdel t k := by
  induction t with
  | nil => rfl
  | cons e r ih =>
    obtain ⟨i, v⟩ := e
    by_cases h : i = k
    · simp [tdel, h, ih]
    · simp [tdel, h, ih]

/-- Removing what was inserted. -/
theorem tdel_tput (t : List (Nat × α)) (k : Nat) (v : α) : tdel (tput t k v) k = tdel t k := by
  induction t with
  | nil => simp [tput, tdel]
  | cons e r ih =>
    obtain ⟨i, w⟩ := e
    rw [tput]
    split
    · simp [tdel]
    · by_cases h : i = k
      · simp [tdel, h, ih]
      · simp [tdel, h, ih]

/-- The last of two writes to a key counts. -/
theorem tset_tset [DecidableEq α] (d : α) (t : List (Nat × α)) (k : Nat) (v w : α) : tset d (tset d t k v) k w = tset d t k w := by
  have h : tdel (tset d t k v) k = tdel t k := by
    rw [tset]
    split
    · exact tdel_tdel t k
    · rw [tdel_tput, tdel_tdel]
  simp only [tset] at h ⊢
  rw [h]

/-- Keeping some entries keeps the canonical form. -/
theorem tableWf_filter [DecidableEq α] (d : α) (t : List (Nat × α)) (p : Nat × α → Bool) (h : tableWf d t = true) :
    tableWf d (t.filter p) = true := tableWf_sublist d (List.filter_sublist) h

end Sys2Proof.Machine
end

