-- ==== Sys2Proof/Laws/Memory.lean ====
section
/-! SUPPORT. Memory: the bytes after a write, and that every memory operation keeps the canonical form of memory and of the
poison bits. -/

namespace Sys2Proof.Machine
open Sys2Proof

/-- Memory right after reset lists nothing. -/
theorem reset_mem_wf : Memory.wf State.reset.mem = true := rfl

/-! ### One byte and one block -/

@[simp] theorem setByte_poison (s : State) (k : Nat) (b : Byte) : (s.setByte k b).poison = s.poison := rfl
@[simp] theorem setByte_strands (s : State) (k : Nat) (b : Byte) : (s.setByte k b).strands = s.strands := rfl
@[simp] theorem setByte_cores (s : State) (k : Nat) (b : Byte) : (s.setByte k b).cores = s.cores := rfl
@[simp] theorem setByte_clusters (s : State) (k : Nat) (b : Byte) : (s.setByte k b).clusters = s.clusters := rfl
@[simp] theorem setByte_dies (s : State) (k : Nat) (b : Byte) : (s.setByte k b).dies = s.dies := rfl
@[simp] theorem setBlockPoison_mem (s : State) (k : Nat) (p : Bool) : (s.setBlockPoison k p).mem = s.mem := rfl
@[simp] theorem setBlockPoison_byte (s : State) (k j : Nat) (p : Bool) : (s.setBlockPoison k p).byte j = s.byte j := rfl
@[simp] theorem setByte_blockPoison (s : State) (k j : Nat) (b : Byte) : (s.setByte k b).blockPoison j = s.blockPoison j := rfl

/-- A byte after a write of a byte. -/
@[simp] theorem byte_setByte (s : State) (k j : Nat) (b : Byte) : (s.setByte k b).byte j = if j = k then b else s.byte j := by
  simp [State.byte, State.setByte]

/-- A block's poison after a write of a block's poison. -/
@[simp] theorem blockPoison_setBlockPoison (s : State) (k j : Nat) (p : Bool) :
    (s.setBlockPoison k p).blockPoison j = if j / 256 = k / 256 then p else s.blockPoison j := by
  simp [State.blockPoison, State.setBlockPoison]

theorem setByte_inv {s : State} (k : Nat) (b : Byte) (h : s.Inv) : (s.setByte k b).Inv :=
  ⟨tableWf_tset 0 s.mem k b h.1, h.2⟩

theorem setBlockPoison_inv {s : State} (k : Nat) (p : Bool) (h : s.Inv) : (s.setBlockPoison k p).Inv :=
  ⟨h.1, tableWf_tset false s.poison (k / 256) p h.2⟩

/-! ### Runs of bytes -/

/-- A byte after a write of a run of bytes. -/
theorem byte_setBytes (s : State) (k j : Nat) (bs : List Byte) :
    (s.setBytes k bs).byte j = if k ≤ j ∧ j < k + bs.length then bs.getD (j - k) 0 else s.byte j := by
  induction bs generalizing s k with
  | nil => simp only [State.setBytes, List.length_nil]; rw [if_neg (by omega)]
  | cons b bs ih =>
    rw [State.setBytes, ih, List.length_cons]
    by_cases h : j = k
    · subst h; rw [if_neg (by omega), if_pos (by omega)]; simp
    · by_cases g : k ≤ j ∧ j < k + (bs.length + 1)
      · obtain ⟨m, rfl⟩ : ∃ m, j = k + 1 + m := ⟨j - (k + 1), by omega⟩
        rw [if_pos (by omega), if_pos g, show k + 1 + m - (k + 1) = m by omega, show k + 1 + m - k = m + 1 by omega]; rfl
      · rw [if_neg (by omega), if_neg g, byte_setByte, if_neg h]

/-- A write of a run of bytes leaves every other byte. -/
theorem byte_setBytes_outside (s : State) (k j : Nat) (bs : List Byte) (h : j < k ∨ k + bs.length ≤ j) :
    (s.setBytes k bs).byte j = s.byte j := by
  rw [byte_setBytes, if_neg (by omega)]

/-- A run of bytes read back where it was written. -/
theorem bytes_setBytes_same (s : State) (k : Nat) (bs : List Byte) : (s.setBytes k bs).bytes k bs.length = bs := by
  have read (t : State) (cs : List Byte) : ∀ m, (∀ i, i < cs.length → t.byte (m + i) = cs.getD i 0) → t.bytes m cs.length = cs := by
    induction cs with
    | nil => intro m _; rfl
    | cons c cs ih =>
      intro m h
      have h0 := h 0 (by simp)
      rw [List.length_cons, State.bytes, ih (m + 1) (fun i hi => by
        rw [Nat.add_right_comm]; simpa [Nat.add_assoc] using h (i + 1) (by simpa using hi))]
      simpa using h0
  refine read _ bs k (fun i hi => ?_)
  rw [byte_setBytes, if_pos (by omega), Nat.add_sub_cancel_left]

theorem setBytes_inv {s : State} (k : Nat) (bs : List Byte) (h : s.Inv) : (s.setBytes k bs).Inv := by
  induction bs generalizing s k with
  | nil => exact h
  | cons b bs ih => exact ih (k + 1) (setByte_inv k b h)

/-- A write of a run of bytes changes nothing but memory. -/
theorem setBytes_frame (s : State) (k : Nat) (bs : List Byte) : s.setBytes k bs = { s with mem := (s.setBytes k bs).mem } := by
  induction bs generalizing s k with
  | nil => rfl
  | cons b bs ih => rw [State.setBytes, ih]; rfl

/-! ### Numbers and rows -/

@[simp] theorem splitElems_length (w n x : Nat) : (splitElems w n x).length = n := by
  induction n generalizing x with
  | zero => rfl
  | succ n ih => simp [splitElems, ih]

@[simp] theorem bytesOf_length (n x : Nat) : (bytesOf n x).length = n := by simp [bytesOf]

/-- A write of a number leaves every other byte. -/
theorem byte_setNum_outside (s : State) (k n v j : Nat) (h : j < k ∨ k + n ≤ j) : (s.setNum k n v).byte j = s.byte j :=
  byte_setBytes_outside s k j _ (by simpa using h)

/-- The bytes of a number of n bytes give the number mod 2^(8n). -/
theorem natOfBytes_bytesOf (n x : Nat) : natOfBytes (bytesOf n x) = x % 2 ^ (8 * n) := by
  induction n generalizing x with
  | zero => simp [bytesOf, splitElems, natOfBytes, Nat.mod_one]
  | succ n ih =>
    have h : bytesOf (n + 1) x = BitVec.ofNat 8 (x % 2 ^ 8) :: bytesOf n (x / 2 ^ 8) := by simp [bytesOf, splitElems]
    rw [h, natOfBytes, ih, BitVec.toNat_ofNat, Nat.mod_mod, show 8 * (n + 1) = 8 + 8 * n by omega, Nat.pow_add, Nat.mod_mul]

/-- A number read back where it was written. -/
theorem num_setNum_same (s : State) (k n v : Nat) : (s.setNum k n v).num k n = v % 2 ^ (8 * n) := by
  have h := bytes_setBytes_same s k (bytesOf n v)
  rw [bytesOf_length] at h
  rw [State.num, State.setNum, h, natOfBytes_bytesOf]

theorem bytes_congr {s t : State} (n : Nat) : ∀ k, (∀ j, k ≤ j → j < k + n → s.byte j = t.byte j) → s.bytes k n = t.bytes k n := by
  induction n with
  | zero => intro k _; rfl
  | succ n ih =>
    intro k h
    rw [State.bytes, State.bytes, h k (Nat.le_refl k) (by omega), ih (k + 1) (fun j h1 h2 => h j (by omega) (by omega))]

/-- A number elsewhere is as it was. -/
theorem num_setNum_outside (s : State) (k n v j m : Nat) (h : j + m ≤ k ∨ k + n ≤ j) : (s.setNum k n v).num j m = s.num j m := by
  unfold State.num
  rw [bytes_congr m j (fun i h1 h2 => byte_setNum_outside s k n v i (by omega))]

theorem setNum_inv {s : State} (k n v : Nat) (h : s.Inv) : (s.setNum k n v).Inv := setBytes_inv k _ h

theorem setNum_frame (s : State) (k n v : Nat) : s.setNum k n v = { s with mem := (s.setNum k n v).mem } := setBytes_frame s k _

theorem setRowAt_inv {s : State} (k : Nat) (r : PRow) (h : s.Inv) : (s.setRowAt k r).Inv :=
  setBlockPoison_inv k r.poison (setNum_inv k 256 _ h)

/-! ### Cells, moves and resets -/

/-- A run of entries written one after another keeps the canonical form. -/
theorem tableWf_foldl_tset {α β : Type} [DecidableEq α] (d : α) (f : β → Nat) (g : β → α) (l : List β) :
    ∀ t : List (Nat × α), tableWf d t = true → tableWf d (l.foldl (fun t e => tset d t (f e) (g e)) t) = true := by
  induction l with
  | nil => exact fun t h => h
  | cons e l ih => exact fun t h => ih _ (tableWf_tset d t (f e) (g e) h)

theorem moveBytes_inv {s : State} (src dst n : Nat) (h : s.Inv) : (moveBytes s src dst n).Inv :=
  ⟨tableWf_foldl_tset 0 _ _ _ _ (tableWf_filter 0 _ _ h.1), tableWf_foldl_tset false _ _ _ _ (tableWf_filter false _ _ h.2)⟩

theorem resetState_mem {s : State} (h : s.Inv) : Memory.wf (resetState s).mem = true := tableWf_filter 0 _ _ h.1

end Sys2Proof.Machine
end

