-- ==== Sys2Proof/Laws/State.lean ====
section
/-! SUPPORT. Reading the state after one of its updates: one lemma for each field and update. -/

namespace Sys2Proof.Machine
open Sys2Proof

@[simp] theorem State.setStrand_cycle (s : State) (n : Nat) (x : Strand) : (s.setStrand n x).cycle = s.cycle := rfl
@[simp] theorem State.setStrand_cur (s : State) (n : Nat) (x : Strand) : (s.setStrand n x).cur = s.cur := rfl
@[simp] theorem State.setStrand_agenda (s : State) (n : Nat) (x : Strand) : (s.setStrand n x).agenda = s.agenda := rfl
@[simp] theorem State.setStrand_freeCtr (s : State) (n : Nat) (x : Strand) : (s.setStrand n x).freeCtr = s.freeCtr := rfl
@[simp] theorem State.setStrand_boot (s : State) (n : Nat) (x : Strand) : (s.setStrand n x).boot = s.boot := rfl
@[simp] theorem State.setStrand_mem (s : State) (n : Nat) (x : Strand) : (s.setStrand n x).mem = s.mem := rfl
@[simp] theorem State.setStrand_poison (s : State) (n : Nat) (x : Strand) : (s.setStrand n x).poison = s.poison := rfl
@[simp] theorem State.setStrand_cores (s : State) (n : Nat) (x : Strand) : (s.setStrand n x).cores = s.cores := rfl
@[simp] theorem State.setStrand_clusters (s : State) (n : Nat) (x : Strand) : (s.setStrand n x).clusters = s.clusters := rfl
@[simp] theorem State.setStrand_dies (s : State) (n : Nat) (x : Strand) : (s.setStrand n x).dies = s.dies := rfl
@[simp] theorem State.setStrand_messages (s : State) (n : Nat) (x : Strand) : (s.setStrand n x).messages = s.messages := rfl

@[simp] theorem State.setCore_cycle (s : State) (n : Nat) (x : Core) : (s.setCore n x).cycle = s.cycle := rfl
@[simp] theorem State.setCore_cur (s : State) (n : Nat) (x : Core) : (s.setCore n x).cur = s.cur := rfl
@[simp] theorem State.setCore_agenda (s : State) (n : Nat) (x : Core) : (s.setCore n x).agenda = s.agenda := rfl
@[simp] theorem State.setCore_freeCtr (s : State) (n : Nat) (x : Core) : (s.setCore n x).freeCtr = s.freeCtr := rfl
@[simp] theorem State.setCore_boot (s : State) (n : Nat) (x : Core) : (s.setCore n x).boot = s.boot := rfl
@[simp] theorem State.setCore_mem (s : State) (n : Nat) (x : Core) : (s.setCore n x).mem = s.mem := rfl
@[simp] theorem State.setCore_poison (s : State) (n : Nat) (x : Core) : (s.setCore n x).poison = s.poison := rfl
@[simp] theorem State.setCore_strands (s : State) (n : Nat) (x : Core) : (s.setCore n x).strands = s.strands := rfl
@[simp] theorem State.setCore_clusters (s : State) (n : Nat) (x : Core) : (s.setCore n x).clusters = s.clusters := rfl
@[simp] theorem State.setCore_dies (s : State) (n : Nat) (x : Core) : (s.setCore n x).dies = s.dies := rfl
@[simp] theorem State.setCore_messages (s : State) (n : Nat) (x : Core) : (s.setCore n x).messages = s.messages := rfl

@[simp] theorem State.setCluster_cycle (s : State) (n : Nat) (x : Cluster) : (s.setCluster n x).cycle = s.cycle := rfl
@[simp] theorem State.setCluster_cur (s : State) (n : Nat) (x : Cluster) : (s.setCluster n x).cur = s.cur := rfl
@[simp] theorem State.setCluster_agenda (s : State) (n : Nat) (x : Cluster) : (s.setCluster n x).agenda = s.agenda := rfl
@[simp] theorem State.setCluster_freeCtr (s : State) (n : Nat) (x : Cluster) : (s.setCluster n x).freeCtr = s.freeCtr := rfl
@[simp] theorem State.setCluster_boot (s : State) (n : Nat) (x : Cluster) : (s.setCluster n x).boot = s.boot := rfl
@[simp] theorem State.setCluster_mem (s : State) (n : Nat) (x : Cluster) : (s.setCluster n x).mem = s.mem := rfl
@[simp] theorem State.setCluster_poison (s : State) (n : Nat) (x : Cluster) : (s.setCluster n x).poison = s.poison := rfl
@[simp] theorem State.setCluster_strands (s : State) (n : Nat) (x : Cluster) : (s.setCluster n x).strands = s.strands := rfl
@[simp] theorem State.setCluster_cores (s : State) (n : Nat) (x : Cluster) : (s.setCluster n x).cores = s.cores := rfl
@[simp] theorem State.setCluster_dies (s : State) (n : Nat) (x : Cluster) : (s.setCluster n x).dies = s.dies := rfl
@[simp] theorem State.setCluster_messages (s : State) (n : Nat) (x : Cluster) : (s.setCluster n x).messages = s.messages := rfl

@[simp] theorem State.setDie_cycle (s : State) (n : Nat) (x : Die) : (s.setDie n x).cycle = s.cycle := rfl
@[simp] theorem State.setDie_cur (s : State) (n : Nat) (x : Die) : (s.setDie n x).cur = s.cur := rfl
@[simp] theorem State.setDie_agenda (s : State) (n : Nat) (x : Die) : (s.setDie n x).agenda = s.agenda := rfl
@[simp] theorem State.setDie_freeCtr (s : State) (n : Nat) (x : Die) : (s.setDie n x).freeCtr = s.freeCtr := rfl
@[simp] theorem State.setDie_boot (s : State) (n : Nat) (x : Die) : (s.setDie n x).boot = s.boot := rfl
@[simp] theorem State.setDie_mem (s : State) (n : Nat) (x : Die) : (s.setDie n x).mem = s.mem := rfl
@[simp] theorem State.setDie_poison (s : State) (n : Nat) (x : Die) : (s.setDie n x).poison = s.poison := rfl
@[simp] theorem State.setDie_strands (s : State) (n : Nat) (x : Die) : (s.setDie n x).strands = s.strands := rfl
@[simp] theorem State.setDie_cores (s : State) (n : Nat) (x : Die) : (s.setDie n x).cores = s.cores := rfl
@[simp] theorem State.setDie_clusters (s : State) (n : Nat) (x : Die) : (s.setDie n x).clusters = s.clusters := rfl
@[simp] theorem State.setDie_messages (s : State) (n : Nat) (x : Die) : (s.setDie n x).messages = s.messages := rfl

@[simp] theorem State.setMe_cycle (s : State) (x : Strand) : (s.setMe x).cycle = s.cycle := rfl
@[simp] theorem State.setMe_cur (s : State) (x : Strand) : (s.setMe x).cur = s.cur := rfl
@[simp] theorem State.setMe_agenda (s : State) (x : Strand) : (s.setMe x).agenda = s.agenda := rfl
@[simp] theorem State.setMe_freeCtr (s : State) (x : Strand) : (s.setMe x).freeCtr = s.freeCtr := rfl
@[simp] theorem State.setMe_boot (s : State) (x : Strand) : (s.setMe x).boot = s.boot := rfl
@[simp] theorem State.setMe_mem (s : State) (x : Strand) : (s.setMe x).mem = s.mem := rfl
@[simp] theorem State.setMe_poison (s : State) (x : Strand) : (s.setMe x).poison = s.poison := rfl
@[simp] theorem State.setMe_cores (s : State) (x : Strand) : (s.setMe x).cores = s.cores := rfl
@[simp] theorem State.setMe_clusters (s : State) (x : Strand) : (s.setMe x).clusters = s.clusters := rfl
@[simp] theorem State.setMe_dies (s : State) (x : Strand) : (s.setMe x).dies = s.dies := rfl
@[simp] theorem State.setMe_messages (s : State) (x : Strand) : (s.setMe x).messages = s.messages := rfl

@[simp] theorem State.setKore_cycle (s : State) (x : Core) : (s.setKore x).cycle = s.cycle := rfl
@[simp] theorem State.setKore_cur (s : State) (x : Core) : (s.setKore x).cur = s.cur := rfl
@[simp] theorem State.setKore_agenda (s : State) (x : Core) : (s.setKore x).agenda = s.agenda := rfl
@[simp] theorem State.setKore_freeCtr (s : State) (x : Core) : (s.setKore x).freeCtr = s.freeCtr := rfl
@[simp] theorem State.setKore_boot (s : State) (x : Core) : (s.setKore x).boot = s.boot := rfl
@[simp] theorem State.setKore_mem (s : State) (x : Core) : (s.setKore x).mem = s.mem := rfl
@[simp] theorem State.setKore_poison (s : State) (x : Core) : (s.setKore x).poison = s.poison := rfl
@[simp] theorem State.setKore_strands (s : State) (x : Core) : (s.setKore x).strands = s.strands := rfl
@[simp] theorem State.setKore_clusters (s : State) (x : Core) : (s.setKore x).clusters = s.clusters := rfl
@[simp] theorem State.setKore_dies (s : State) (x : Core) : (s.setKore x).dies = s.dies := rfl
@[simp] theorem State.setKore_messages (s : State) (x : Core) : (s.setKore x).messages = s.messages := rfl

@[simp] theorem State.setByte_cycle (s : State) (k : Nat) (b : Byte) : (s.setByte k b).cycle = s.cycle := rfl
@[simp] theorem State.setByte_cur (s : State) (k : Nat) (b : Byte) : (s.setByte k b).cur = s.cur := rfl
@[simp] theorem State.setByte_agenda (s : State) (k : Nat) (b : Byte) : (s.setByte k b).agenda = s.agenda := rfl
@[simp] theorem State.setByte_freeCtr (s : State) (k : Nat) (b : Byte) : (s.setByte k b).freeCtr = s.freeCtr := rfl
@[simp] theorem State.setByte_boot (s : State) (k : Nat) (b : Byte) : (s.setByte k b).boot = s.boot := rfl
@[simp] theorem State.setByte_poison (s : State) (k : Nat) (b : Byte) : (s.setByte k b).poison = s.poison := rfl
@[simp] theorem State.setByte_strands (s : State) (k : Nat) (b : Byte) : (s.setByte k b).strands = s.strands := rfl
@[simp] theorem State.setByte_cores (s : State) (k : Nat) (b : Byte) : (s.setByte k b).cores = s.cores := rfl
@[simp] theorem State.setByte_clusters (s : State) (k : Nat) (b : Byte) : (s.setByte k b).clusters = s.clusters := rfl
@[simp] theorem State.setByte_dies (s : State) (k : Nat) (b : Byte) : (s.setByte k b).dies = s.dies := rfl
@[simp] theorem State.setByte_messages (s : State) (k : Nat) (b : Byte) : (s.setByte k b).messages = s.messages := rfl

@[simp] theorem State.setBlockPoison_cycle (s : State) (k : Nat) (p : Bool) : (s.setBlockPoison k p).cycle = s.cycle := rfl
@[simp] theorem State.setBlockPoison_cur (s : State) (k : Nat) (p : Bool) : (s.setBlockPoison k p).cur = s.cur := rfl
@[simp] theorem State.setBlockPoison_agenda (s : State) (k : Nat) (p : Bool) : (s.setBlockPoison k p).agenda = s.agenda := rfl
@[simp] theorem State.setBlockPoison_freeCtr (s : State) (k : Nat) (p : Bool) : (s.setBlockPoison k p).freeCtr = s.freeCtr := rfl
@[simp] theorem State.setBlockPoison_boot (s : State) (k : Nat) (p : Bool) : (s.setBlockPoison k p).boot = s.boot := rfl
@[simp] theorem State.setBlockPoison_mem (s : State) (k : Nat) (p : Bool) : (s.setBlockPoison k p).mem = s.mem := rfl
@[simp] theorem State.setBlockPoison_strands (s : State) (k : Nat) (p : Bool) : (s.setBlockPoison k p).strands = s.strands := rfl
@[simp] theorem State.setBlockPoison_cores (s : State) (k : Nat) (p : Bool) : (s.setBlockPoison k p).cores = s.cores := rfl
@[simp] theorem State.setBlockPoison_clusters (s : State) (k : Nat) (p : Bool) : (s.setBlockPoison k p).clusters = s.clusters := rfl
@[simp] theorem State.setBlockPoison_dies (s : State) (k : Nat) (p : Bool) : (s.setBlockPoison k p).dies = s.dies := rfl
@[simp] theorem State.setBlockPoison_messages (s : State) (k : Nat) (p : Bool) : (s.setBlockPoison k p).messages = s.messages := rfl

@[simp] theorem State.tick_cur (s : State) : (s.tick).cur = s.cur := rfl
@[simp] theorem State.tick_agenda (s : State) : (s.tick).agenda = s.agenda := rfl
@[simp] theorem State.tick_freeCtr (s : State) : (s.tick).freeCtr = s.freeCtr := rfl
@[simp] theorem State.tick_boot (s : State) : (s.tick).boot = s.boot := rfl
@[simp] theorem State.tick_mem (s : State) : (s.tick).mem = s.mem := rfl
@[simp] theorem State.tick_poison (s : State) : (s.tick).poison = s.poison := rfl
@[simp] theorem State.tick_strands (s : State) : (s.tick).strands = s.strands := rfl
@[simp] theorem State.tick_cores (s : State) : (s.tick).cores = s.cores := rfl
@[simp] theorem State.tick_clusters (s : State) : (s.tick).clusters = s.clusters := rfl
@[simp] theorem State.tick_dies (s : State) : (s.tick).dies = s.dies := rfl
@[simp] theorem State.tick_messages (s : State) : (s.tick).messages = s.messages := rfl

@[simp] theorem State.free_cycle (s : State) : (s.free).cycle = s.cycle := rfl
@[simp] theorem State.free_cur (s : State) : (s.free).cur = s.cur := rfl
@[simp] theorem State.free_agenda (s : State) : (s.free).agenda = s.agenda := rfl
@[simp] theorem State.free_boot (s : State) : (s.free).boot = s.boot := rfl
@[simp] theorem State.free_mem (s : State) : (s.free).mem = s.mem := rfl
@[simp] theorem State.free_poison (s : State) : (s.free).poison = s.poison := rfl
@[simp] theorem State.free_strands (s : State) : (s.free).strands = s.strands := rfl
@[simp] theorem State.free_cores (s : State) : (s.free).cores = s.cores := rfl
@[simp] theorem State.free_clusters (s : State) : (s.free).clusters = s.clusters := rfl
@[simp] theorem State.free_dies (s : State) : (s.free).dies = s.dies := rfl
@[simp] theorem State.free_messages (s : State) : (s.free).messages = s.messages := rfl

@[simp] theorem State.sset_cycle (s : State) (r : BitVec 5) (w : Word) : (s.sset r w).cycle = s.cycle := rfl
@[simp] theorem State.sset_cur (s : State) (r : BitVec 5) (w : Word) : (s.sset r w).cur = s.cur := rfl
@[simp] theorem State.sset_agenda (s : State) (r : BitVec 5) (w : Word) : (s.sset r w).agenda = s.agenda := rfl
@[simp] theorem State.sset_freeCtr (s : State) (r : BitVec 5) (w : Word) : (s.sset r w).freeCtr = s.freeCtr := rfl
@[simp] theorem State.sset_boot (s : State) (r : BitVec 5) (w : Word) : (s.sset r w).boot = s.boot := rfl
@[simp] theorem State.sset_mem (s : State) (r : BitVec 5) (w : Word) : (s.sset r w).mem = s.mem := rfl
@[simp] theorem State.sset_poison (s : State) (r : BitVec 5) (w : Word) : (s.sset r w).poison = s.poison := rfl
@[simp] theorem State.sset_cores (s : State) (r : BitVec 5) (w : Word) : (s.sset r w).cores = s.cores := rfl
@[simp] theorem State.sset_clusters (s : State) (r : BitVec 5) (w : Word) : (s.sset r w).clusters = s.clusters := rfl
@[simp] theorem State.sset_dies (s : State) (r : BitVec 5) (w : Word) : (s.sset r w).dies = s.dies := rfl
@[simp] theorem State.sset_messages (s : State) (r : BitVec 5) (w : Word) : (s.sset r w).messages = s.messages := rfl

@[simp] theorem State.setStrand_strand (s : State) (n : Nat) (x : Strand) (m : Nat) : (s.setStrand n x).strand m = if m = n then x else s.strand m := by
  simp [State.setStrand, State.strand]
@[simp] theorem State.setStrand_core (s : State) (n : Nat) (x : Strand) (m : Nat) : (s.setStrand n x).core m = s.core m := rfl
@[simp] theorem State.setStrand_cluster (s : State) (n : Nat) (x : Strand) (m : Nat) : (s.setStrand n x).cluster m = s.cluster m := rfl
@[simp] theorem State.setStrand_die (s : State) (n : Nat) (x : Strand) (m : Nat) : (s.setStrand n x).die m = s.die m := rfl
@[simp] theorem State.setStrand_byte (s : State) (n : Nat) (x : Strand) (j : Nat) : (s.setStrand n x).byte j = s.byte j := rfl

@[simp] theorem State.setCore_strand (s : State) (n : Nat) (x : Core) (m : Nat) : (s.setCore n x).strand m = s.strand m := rfl
@[simp] theorem State.setCore_core (s : State) (n : Nat) (x : Core) (m : Nat) : (s.setCore n x).core m = if m = n then x else s.core m := by
  simp [State.setCore, State.core]
@[simp] theorem State.setCore_cluster (s : State) (n : Nat) (x : Core) (m : Nat) : (s.setCore n x).cluster m = s.cluster m := rfl
@[simp] theorem State.setCore_die (s : State) (n : Nat) (x : Core) (m : Nat) : (s.setCore n x).die m = s.die m := rfl
@[simp] theorem State.setCore_byte (s : State) (n : Nat) (x : Core) (j : Nat) : (s.setCore n x).byte j = s.byte j := rfl

@[simp] theorem State.setCluster_strand (s : State) (n : Nat) (x : Cluster) (m : Nat) : (s.setCluster n x).strand m = s.strand m := rfl
@[simp] theorem State.setCluster_core (s : State) (n : Nat) (x : Cluster) (m : Nat) : (s.setCluster n x).core m = s.core m := rfl
@[simp] theorem State.setCluster_cluster (s : State) (n : Nat) (x : Cluster) (m : Nat) : (s.setCluster n x).cluster m = if m = n then x else s.cluster m := by
  simp [State.setCluster, State.cluster]
@[simp] theorem State.setCluster_die (s : State) (n : Nat) (x : Cluster) (m : Nat) : (s.setCluster n x).die m = s.die m := rfl
@[simp] theorem State.setCluster_byte (s : State) (n : Nat) (x : Cluster) (j : Nat) : (s.setCluster n x).byte j = s.byte j := rfl

@[simp] theorem State.setDie_strand (s : State) (n : Nat) (x : Die) (m : Nat) : (s.setDie n x).strand m = s.strand m := rfl
@[simp] theorem State.setDie_core (s : State) (n : Nat) (x : Die) (m : Nat) : (s.setDie n x).core m = s.core m := rfl
@[simp] theorem State.setDie_cluster (s : State) (n : Nat) (x : Die) (m : Nat) : (s.setDie n x).cluster m = s.cluster m := rfl
@[simp] theorem State.setDie_die (s : State) (n : Nat) (x : Die) (m : Nat) : (s.setDie n x).die m = if m = n then x else s.die m := by
  simp [State.setDie, State.die]
@[simp] theorem State.setDie_byte (s : State) (n : Nat) (x : Die) (j : Nat) : (s.setDie n x).byte j = s.byte j := rfl

@[simp] theorem State.setMe_strand (s : State) (x : Strand) (m : Nat) : (s.setMe x).strand m = if m = s.cur then x else s.strand m := by
  simp [State.setMe]
@[simp] theorem State.setMe_core (s : State) (x : Strand) (m : Nat) : (s.setMe x).core m = s.core m := rfl
@[simp] theorem State.setMe_cluster (s : State) (x : Strand) (m : Nat) : (s.setMe x).cluster m = s.cluster m := rfl
@[simp] theorem State.setMe_die (s : State) (x : Strand) (m : Nat) : (s.setMe x).die m = s.die m := rfl
@[simp] theorem State.setMe_byte (s : State) (x : Strand) (j : Nat) : (s.setMe x).byte j = s.byte j := rfl

@[simp] theorem State.setKore_strand (s : State) (x : Core) (m : Nat) : (s.setKore x).strand m = s.strand m := rfl
@[simp] theorem State.setKore_core (s : State) (x : Core) (m : Nat) : (s.setKore x).core m = if m = s.myCore then x else s.core m := by
  simp [State.setKore]
@[simp] theorem State.setKore_cluster (s : State) (x : Core) (m : Nat) : (s.setKore x).cluster m = s.cluster m := rfl
@[simp] theorem State.setKore_die (s : State) (x : Core) (m : Nat) : (s.setKore x).die m = s.die m := rfl
@[simp] theorem State.setKore_byte (s : State) (x : Core) (j : Nat) : (s.setKore x).byte j = s.byte j := rfl

@[simp] theorem State.setByte_strand (s : State) (k : Nat) (b : Byte) (m : Nat) : (s.setByte k b).strand m = s.strand m := rfl
@[simp] theorem State.setByte_core (s : State) (k : Nat) (b : Byte) (m : Nat) : (s.setByte k b).core m = s.core m := rfl
@[simp] theorem State.setByte_cluster (s : State) (k : Nat) (b : Byte) (m : Nat) : (s.setByte k b).cluster m = s.cluster m := rfl
@[simp] theorem State.setByte_die (s : State) (k : Nat) (b : Byte) (m : Nat) : (s.setByte k b).die m = s.die m := rfl
@[simp] theorem State.setByte_byte (s : State) (k : Nat) (b : Byte) (j : Nat) : (s.setByte k b).byte j = if j = k then b else s.byte j := by
  simp [State.setByte, State.byte]

@[simp] theorem State.setBlockPoison_strand (s : State) (k : Nat) (p : Bool) (m : Nat) : (s.setBlockPoison k p).strand m = s.strand m := rfl
@[simp] theorem State.setBlockPoison_core (s : State) (k : Nat) (p : Bool) (m : Nat) : (s.setBlockPoison k p).core m = s.core m := rfl
@[simp] theorem State.setBlockPoison_cluster (s : State) (k : Nat) (p : Bool) (m : Nat) : (s.setBlockPoison k p).cluster m = s.cluster m := rfl
@[simp] theorem State.setBlockPoison_die (s : State) (k : Nat) (p : Bool) (m : Nat) : (s.setBlockPoison k p).die m = s.die m := rfl
@[simp] theorem State.setBlockPoison_byte (s : State) (k : Nat) (p : Bool) (j : Nat) : (s.setBlockPoison k p).byte j = s.byte j := rfl

@[simp] theorem State.tick_strand (s : State) (m : Nat) : (s.tick).strand m = s.strand m := rfl
@[simp] theorem State.tick_core (s : State) (m : Nat) : (s.tick).core m = s.core m := rfl
@[simp] theorem State.tick_cluster (s : State) (m : Nat) : (s.tick).cluster m = s.cluster m := rfl
@[simp] theorem State.tick_die (s : State) (m : Nat) : (s.tick).die m = s.die m := rfl
@[simp] theorem State.tick_byte (s : State) (j : Nat) : (s.tick).byte j = s.byte j := rfl

@[simp] theorem State.free_strand (s : State) (m : Nat) : (s.free).strand m = s.strand m := rfl
@[simp] theorem State.free_core (s : State) (m : Nat) : (s.free).core m = s.core m := rfl
@[simp] theorem State.free_cluster (s : State) (m : Nat) : (s.free).cluster m = s.cluster m := rfl
@[simp] theorem State.free_die (s : State) (m : Nat) : (s.free).die m = s.die m := rfl
@[simp] theorem State.free_byte (s : State) (j : Nat) : (s.free).byte j = s.byte j := rfl

@[simp] theorem State.sset_strand (s : State) (r : BitVec 5) (w : Word) (m : Nat) : (s.sset r w).strand m = if m = s.cur then s.me.sset r w else s.strand m := by
  simp [State.sset]
@[simp] theorem State.sset_core (s : State) (r : BitVec 5) (w : Word) (m : Nat) : (s.sset r w).core m = s.core m := rfl
@[simp] theorem State.sset_cluster (s : State) (r : BitVec 5) (w : Word) (m : Nat) : (s.sset r w).cluster m = s.cluster m := rfl
@[simp] theorem State.sset_die (s : State) (r : BitVec 5) (w : Word) (m : Nat) : (s.sset r w).die m = s.die m := rfl
@[simp] theorem State.sset_byte (s : State) (r : BitVec 5) (w : Word) (j : Nat) : (s.sset r w).byte j = s.byte j := rfl

/-! The running strand and its core. -/

@[simp] theorem State.setMe_me (s : State) (x : Strand) : (s.setMe x).me = x := by
  show (s.setMe x).strand s.cur = x
  simp
@[simp] theorem State.setKore_kore (s : State) (x : Core) : (s.setKore x).kore = x := by
  show (s.setKore x).core s.myCore = x
  simp
@[simp] theorem State.setKore_me (s : State) (x : Core) : (s.setKore x).me = s.me := rfl
@[simp] theorem State.setMe_kore (s : State) (x : Strand) : (s.setMe x).kore = s.kore := rfl
@[simp] theorem State.setDie_me (s : State) (n : Nat) (x : Die) : (s.setDie n x).me = s.me := rfl
@[simp] theorem State.setCluster_me (s : State) (n : Nat) (x : Cluster) : (s.setCluster n x).me = s.me := rfl
@[simp] theorem State.setByte_me (s : State) (k : Nat) (b : Byte) : (s.setByte k b).me = s.me := rfl
@[simp] theorem State.tick_me (s : State) : s.tick.me = s.me := rfl
@[simp] theorem State.tick_kore (s : State) : s.tick.kore = s.kore := rfl
@[simp] theorem State.setMe_setMe (s : State) (x y : Strand) : (s.setMe x).setMe y = s.setMe y := by
  simp [State.setMe, State.setStrand, tset_tset]

/-! Registers of a strand. -/

@[simp] theorem Strand.sget_zero (x : Strand) : x.sget 0#5 = 0 := rfl
@[simp] theorem Strand.sset_zero (x : Strand) (w : Word) : x.sset 0#5 w = x := rfl

/-- A scalar register after a write: s0 keeps reading as zero (R98). -/
theorem Strand.sget_sset (x : Strand) (d r : BitVec 5) (w : Word) : (x.sset d w).sget r = if r = d ∧ d ≠ 0 then w else x.sget r := by
  have hk : ∀ a b : BitVec 5, sregKey x.swb a = sregKey x.swb b → a = b := by
    intro a b h
    apply BitVec.eq_of_toNat_eq
    have ha := a.isLt
    have hb := b.isLt
    unfold sregKey at h
    split at h <;> split at h <;> omega
  by_cases hd : d = 0
  · rw [if_neg (fun h => h.2 hd)]
    show Strand.sget (if d = 0 then x else _) r = _
    rw [if_pos hd]
  · have hs : x.sset d w = { x with sregs := tset 0 x.sregs (sregKey x.swb d) w } := if_neg hd
    rw [hs]
    by_cases hr : r = 0
    · rw [if_neg (fun (h : r = d ∧ d ≠ 0) => hd (h.1 ▸ hr)), Strand.sget, Strand.sget, if_pos hr, if_pos hr]
    · rw [Strand.sget, if_neg hr, tget_tset]
      by_cases hrd : r = d
      · rw [if_pos (by rw [hrd]), if_pos ⟨hrd, hd⟩]
      · rw [if_neg (fun h => hrd (hk _ _ h)), if_neg (fun h => hrd h.1), Strand.sget, if_neg hr]
@[simp] theorem Strand.sset_phase (x : Strand) (d : BitVec 5) (w : Word) : (x.sset d w).phase = x.phase := by
  unfold Strand.sset; split <;> rfl
@[simp] theorem Strand.sset_sect (x : Strand) (d : BitVec 5) (w : Word) : (x.sset d w).sect = x.sect := by
  unfold Strand.sset; split <;> rfl
@[simp] theorem Strand.sset_pc (x : Strand) (d : BitVec 5) (w : Word) : (x.sset d w).pc = x.pc := by
  unfold Strand.sset; split <;> rfl
@[simp] theorem Strand.sset_codeBase (x : Strand) (d : BitVec 5) (w : Word) : (x.sset d w).codeBase = x.codeBase := by
  unfold Strand.sset; split <;> rfl
@[simp] theorem Strand.sset_codeLen (x : Strand) (d : BitVec 5) (w : Word) : (x.sset d w).codeLen = x.codeLen := by
  unfold Strand.sset; split <;> rfl
@[simp] theorem Strand.sset_preds (x : Strand) (d : BitVec 5) (w : Word) : (x.sset d w).preds = x.preds := by
  unfold Strand.sset; split <;> rfl
@[simp] theorem Strand.sset_orows (x : Strand) (d : BitVec 5) (w : Word) : (x.sset d w).orows = x.orows := by
  unfold Strand.sset; split <;> rfl
@[simp] theorem Strand.sset_lx (x : Strand) (d : BitVec 5) (w : Word) : (x.sset d w).lx = x.lx := by
  unfold Strand.sset; split <;> rfl
@[simp] theorem Strand.sset_handles (x : Strand) (d : BitVec 5) (w : Word) : (x.sset d w).handles = x.handles := by
  unfold Strand.sset; split <;> rfl
@[simp] theorem Strand.sset_strict (x : Strand) (d : BitVec 5) (w : Word) : (x.sset d w).strict = x.strict := by
  unfold Strand.sset; split <;> rfl
@[simp] theorem Strand.sset_inh (x : Strand) (d : BitVec 5) (w : Word) : (x.sset d w).inh = x.inh := by
  unfold Strand.sset; split <;> rfl
@[simp] theorem Strand.sset_mode (x : Strand) (d : BitVec 5) (w : Word) : (x.sset d w).mode = x.mode := by
  unfold Strand.sset; split <;> rfl
@[simp] theorem Strand.sset_pure (x : Strand) (d : BitVec 5) (w : Word) : (x.sset d w).pure = x.pure := by
  unfold Strand.sset; split <;> rfl
@[simp] theorem Strand.sset_plive (x : Strand) (d : BitVec 5) (w : Word) : (x.sset d w).plive = x.plive := by
  unfold Strand.sset; split <;> rfl
@[simp] theorem Strand.sset_voff (x : Strand) (d : BitVec 5) (w : Word) : (x.sset d w).voff = x.voff := by
  unfold Strand.sset; split <;> rfl
@[simp] theorem Strand.sset_rb (x : Strand) (d : BitVec 5) (w : Word) : (x.sset d w).rb = x.rb := by
  unfold Strand.sset; split <;> rfl
@[simp] theorem Strand.sset_swb (x : Strand) (d : BitVec 5) (w : Word) : (x.sset d w).swb = x.swb := by
  unfold Strand.sset; split <;> rfl
@[simp] theorem Strand.sset_depth (x : Strand) (d : BitVec 5) (w : Word) : (x.sset d w).depth = x.depth := by
  unfold Strand.sset; split <;> rfl
@[simp] theorem Strand.sset_res (x : Strand) (d : BitVec 5) (w : Word) : (x.sset d w).res = x.res := by
  unfold Strand.sset; split <;> rfl
@[simp] theorem Strand.sset_spilld (x : Strand) (d : BitVec 5) (w : Word) : (x.sset d w).spilld = x.spilld := by
  unfold Strand.sset; split <;> rfl
@[simp] theorem Strand.sset_wlim (x : Strand) (d : BitVec 5) (w : Word) : (x.sset d w).wlim = x.wlim := by
  unfold Strand.sset; split <;> rfl
@[simp] theorem Strand.sset_spillSize (x : Strand) (d : BitVec 5) (w : Word) : (x.sset d w).spillSize = x.spillSize := by
  unfold Strand.sset; split <;> rfl
@[simp] theorem Strand.sset_spillBase (x : Strand) (d : BitVec 5) (w : Word) : (x.sset d w).spillBase = x.spillBase := by
  unfold Strand.sset; split <;> rfl
@[simp] theorem Strand.sset_thnd (x : Strand) (d : BitVec 5) (w : Word) : (x.sset d w).thnd = x.thnd := by
  unfold Strand.sset; split <;> rfl
@[simp] theorem Strand.sset_tcause (x : Strand) (d : BitVec 5) (w : Word) : (x.sset d w).tcause = x.tcause := by
  unfold Strand.sset; split <;> rfl
@[simp] theorem Strand.sset_tpc (x : Strand) (d : BitVec 5) (w : Word) : (x.sset d w).tpc = x.tpc := by
  unfold Strand.sset; split <;> rfl
@[simp] theorem Strand.sset_tval (x : Strand) (d : BitVec 5) (w : Word) : (x.sset d w).tval = x.tval := by
  unfold Strand.sset; split <;> rfl
@[simp] theorem Strand.sset_tlanes (x : Strand) (d : BitVec 5) (w : Word) : (x.sset d w).tlanes = x.tlanes := by
  unfold Strand.sset; split <;> rfl
@[simp] theorem Strand.sset_srkey (x : Strand) (d : BitVec 5) (w : Word) : (x.sset d w).srkey = x.srkey := by
  unfold Strand.sset; split <;> rfl
@[simp] theorem Strand.sset_flnv (x : Strand) (d : BitVec 5) (w : Word) : (x.sset d w).flnv = x.flnv := by
  unfold Strand.sset; split <;> rfl
@[simp] theorem Strand.sset_fldz (x : Strand) (d : BitVec 5) (w : Word) : (x.sset d w).fldz = x.fldz := by
  unfold Strand.sset; split <;> rfl
@[simp] theorem Strand.sset_flof (x : Strand) (d : BitVec 5) (w : Word) : (x.sset d w).flof = x.flof := by
  unfold Strand.sset; split <;> rfl
@[simp] theorem Strand.sset_fluf (x : Strand) (d : BitVec 5) (w : Word) : (x.sset d w).fluf = x.fluf := by
  unfold Strand.sset; split <;> rfl
@[simp] theorem Strand.sset_flnx (x : Strand) (d : BitVec 5) (w : Word) : (x.sset d w).flnx = x.flnx := by
  unfold Strand.sset; split <;> rfl
@[simp] theorem Strand.sset_stcyc (x : Strand) (d : BitVec 5) (w : Word) : (x.sset d w).stcyc = x.stcyc := by
  unfold Strand.sset; split <;> rfl
@[simp] theorem Strand.sset_stitchNum (x : Strand) (d : BitVec 5) (w : Word) : (x.sset d w).stitchNum = x.stitchNum := by
  unfold Strand.sset; split <;> rfl
@[simp] theorem Strand.sset_held (x : Strand) (d : BitVec 5) (w : Word) : (x.sset d w).held = x.held := by
  unfold Strand.sset; split <;> rfl
@[simp] theorem Strand.sset_wait (x : Strand) (d : BitVec 5) (w : Word) : (x.sset d w).wait = x.wait := by
  unfold Strand.sset; split <;> rfl
@[simp] theorem Strand.sset_arrived (x : Strand) (d : BitVec 5) (w : Word) : (x.sset d w).arrived = x.arrived := by
  unfold Strand.sset; split <;> rfl
@[simp] theorem Strand.sset_absent (x : Strand) (d : BitVec 5) (w : Word) : (x.sset d w).absent = x.absent := by
  unfold Strand.sset; split <;> rfl
@[simp] theorem Strand.sset_taken (x : Strand) (d : BitVec 5) (w : Word) : (x.sset d w).taken = x.taken := by
  unfold Strand.sset; split <;> rfl
@[simp] theorem Strand.sset_amoReply (x : Strand) (d : BitVec 5) (w : Word) : (x.sset d w).amoReply = x.amoReply := by
  unfold Strand.sset; split <;> rfl
@[simp] theorem Strand.sset_endWord (x : Strand) (d : BitVec 5) (w : Word) : (x.sset d w).endWord = x.endWord := by
  unfold Strand.sset; split <;> rfl

end Sys2Proof.Machine
end

