-- ==== Sys2Proof/Laws/Ops.lean ====
section
/-! SUPPORT. What the shared operations of a unit can do: how a meaning's answer settles, when a unit issues, what a trap
leaves. The statements about instructions cite these and never unfold the operations. -/

namespace Sys2Proof.Machine
open Sys2Proof

/-! ### How an answer settles -/

@[simp] theorem settle_ok (i : Instr) (s0 s : State) (g : Go) : settle i s0 (.ok (s, g)) = .next (completeUnit i s g).tick := rfl

@[simp] theorem settle_trap (i : Instr) (s0 s : State) (t : TrapInfo) :
    settle i s0 (.error (.trap s t)) = .next (deliverTrap s s0.cur t).tick := rfl

@[simp] theorem settle_stop (i : Instr) (s0 : State) (f : Fault) : settle i s0 (.error (.stop f)) = .fault f := rfl

/-- A wait with a limit of 0 expires at once (R55). -/
theorem settle_wait_zero (i : Instr) (s0 s : State) (k : WaitKind) :
    settle i s0 (.error (.wait s k (some 0))) = .next (expireWait s s0.cur k).tick := rfl

/-- Any other wait begins. -/
theorem settle_wait (i : Instr) (s0 s : State) (k : WaitKind) (lim : Option Nat) (h : lim ≠ some 0) :
    settle i s0 (.error (.wait s k lim)) = .next (beginWait s k lim).tick := by simp [settle, h]

/-- A settled answer is never a refusal. -/
theorem settle_not_refused (i : Instr) (s0 : State) (r : Body) (x : Refusal) : settle i s0 r ≠ .refused x := by
  unfold settle
  split <;> (try split) <;> simp

/-- Everything a settled answer can be. -/
theorem settle_cases {i : Instr} {s0 s' : State} {r : Body} (h : settle i s0 r = .next s') :
    (∃ s g, r = .ok (s, g) ∧ s' = (completeUnit i s g).tick) ∨
    (∃ s t, r = .error (.trap s t) ∧ s' = (deliverTrap s s0.cur t).tick) ∨
    (∃ s k, r = .error (.wait s k (some 0)) ∧ s' = (expireWait s s0.cur k).tick) ∨
    (∃ s k lim, r = .error (.wait s k lim) ∧ lim ≠ some 0 ∧ s' = (beginWait s k lim).tick) := by
  unfold settle at h
  split at h
  · injection h with h; exact .inl ⟨_, _, rfl, h.symm⟩
  · injection h with h; exact .inr (.inl ⟨_, _, rfl, h.symm⟩)
  · split at h
    · rename_i hl; injection h with h; subst hl; exact .inr (.inr (.inl ⟨_, _, rfl, h.symm⟩))
    · rename_i hl; injection h with h; exact .inr (.inr (.inr ⟨_, _, _, rfl, hl, h.symm⟩))
  · cases h

/-- A unit that falls through is `after` at the address past it. -/
theorem completeUnit_fall (i : Instr) (s : State) : (completeUnit i s .fall).tick = after s s.me (past i s) := rfl

/-- A unit that jumps is `after` at its target. -/
theorem completeUnit_jump (i : Instr) (s : State) (t : Word) : (completeUnit i s (.jump t)).tick = after s s.me t := rfl

/-- A unit whose meaning moved the strand is `after` at the pc it chose. -/
theorem completeUnit_stay (i : Instr) (s : State) : (completeUnit i s .stay).tick = after s s.me s.me.pc := rfl

/-- Replacing the running strand twice. -/
theorem after_setMe (s : State) (x y : Strand) (pc : Word) : after (s.setMe x) y pc = after s y pc := by
  simp [after, State.setMe, State.setStrand, tset_tset]

/-- The address past a unit is that of the strand's pc. -/
theorem past_setMe (i : Instr) (s : State) (x : Strand) (h : x.pc = s.me.pc) : past i (s.setMe x) = past i s := by
  simp [past, h]

/-- A body that only changes the running strand, and falls through, completes with that strand. -/
theorem completes_of_setMe {i : Instr} {s : State} {x : Strand} (h : exec i s = settle i s (.ok (s.setMe x, .fall)))
    (hpc : x.pc = s.me.pc) : completes i s x := by
  rw [completes, h, settle_ok, completeUnit_fall, after_setMe, past_setMe _ _ _ hpc, State.setMe_me]

/-- A scalar register write leaves the pc. -/
@[simp] theorem sset_pc (x : Strand) (d : BitVec 5) (w : Word) : (x.sset d w).pc = x.pc := by
  unfold Strand.sset; split <;> rfl

/-! ### When a unit issues -/

/-- A uniform instruction whose guard passes runs its meaning. -/
theorem uniformOr_pass {i : Instr} {pre : State → Option TrapInfo} {off : State → State} {body : State → Body} {s : State}
    (hp : pre s = none) (hg : passes i s) : uniformOr i pre off body s = settle i s (body s) := by
  unfold passes at hg
  simp only [uniformOr, hp]
  rw [if_pos hg]

/-- A uniform instruction whose guard fails does what `off` says. -/
theorem uniformOr_off {i : Instr} {pre : State → Option TrapInfo} {off : State → State} {body : State → Body} {s : State}
    (hp : pre s = none) (hg : ¬ passes i s) : uniformOr i pre off body s = settle i s (.ok (off s, .fall)) := by
  unfold passes at hg
  simp only [uniformOr, hp]
  rw [if_neg hg]

/-- A check that ignores the guard traps first (R67). -/
theorem uniformOr_trap {i : Instr} {pre : State → Option TrapInfo} {off : State → State} {body : State → Body} {s : State}
    {t : TrapInfo} (hp : pre s = some t) : uniformOr i pre off body s = .next (trapped s t) := by
  simp [uniformOr, hp, trapped]

/-- See `uniformOr_pass`. -/
theorem uniform_pass {i : Instr} {pre : State → Option TrapInfo} {body : State → Body} {s : State}
    (hp : pre s = none) (hg : passes i s) : uniform i pre body s = settle i s (body s) := uniformOr_pass hp hg

/-- A uniform instruction whose guard fails only moves on (R103). -/
theorem uniform_off {i : Instr} {pre : State → Option TrapInfo} {body : State → Body} {s : State}
    (hp : pre s = none) (hg : ¬ passes i s) : uniform i pre body s = .next (after s s.me (past i s)) :=
  uniformOr_off hp hg

/-- See `uniformOr_trap`. -/
theorem uniform_trap {i : Instr} {pre : State → Option TrapInfo} {body : State → Body} {s : State} {t : TrapInfo}
    (hp : pre s = some t) : uniform i pre body s = .next (trapped s t) := uniformOr_trap hp

/-- A uniform instruction is never refused. -/
theorem uniformOr_not_refused (i : Instr) (pre : State → Option TrapInfo) (off : State → State) (body : State → Body) (s : State)
    (x : Refusal) : uniformOr i pre off body s ≠ .refused x := by
  unfold uniformOr
  split
  · exact settle_not_refused _ _ _ _
  · split <;> exact settle_not_refused _ _ _ _

/-- A per-lane instruction with an enabled lane runs its meaning. -/
theorem perLane_pass {i : Instr} {pre : State → Option TrapInfo} {body : Word → State → Body} {s : State}
    (hp : pre s = none) (hl : lanesOf i s ≠ 0) : perLane i pre body s = settle i s (body (lanesOf i s) s) := by
  unfold lanesOf at *
  simp only [perLane, hp]
  rw [if_neg hl]

/-- A per-lane instruction with no enabled lane only moves on (R104). -/
theorem perLane_off {i : Instr} {pre : State → Option TrapInfo} {body : Word → State → Body} {s : State}
    (hp : pre s = none) (hl : lanesOf i s = 0) : perLane i pre body s = .next (after s s.me (past i s)) := by
  unfold lanesOf at *
  simp only [perLane, hp]
  rw [if_pos hl]
  rfl

/-- A check that ignores the guard traps first (R67). -/
theorem perLane_trap {i : Instr} {pre : State → Option TrapInfo} {body : Word → State → Body} {s : State} {t : TrapInfo}
    (hp : pre s = some t) : perLane i pre body s = .next (trapped s t) := by
  simp [perLane, hp, trapped]

/-- A per-lane instruction is never refused. -/
theorem perLane_not_refused (i : Instr) (pre : State → Option TrapInfo) (body : Word → State → Body) (s : State)
    (x : Refusal) : perLane i pre body s ≠ .refused x := by
  unfold perLane
  split
  · exact settle_not_refused _ _ _ _
  · dsimp only; split <;> exact settle_not_refused _ _ _ _

/-! ### The checks before the guard -/

@[simp] theorem noCheck_none (s : State) : noCheck s = none := rfl

/-- PORT is passed by the owner. -/
theorem portCheck_owner {p : Port} {i : Instr} {s : State} (h : owns s p) : portCheck p i s = none := by
  unfold owns at h; simp [portCheck, h]

/-- What a strand that does not own the port raises: the ILL that the instruction meets, else PORT. -/
theorem portCheck_other {p : Port} {i : Instr} {s : State} (h : ¬ owns s p) :
    portCheck p i s = some (if issuesIll i s.me then { cause := cILL, tval := parcelsWord i }
      else { cause := cPORT, tval := BitVec.ofNat 64 (p.num + 2 ^ 32 * (encodeCore i).headD 0) }) := by
  unfold owns at h; rw [portCheck, if_neg h]; split <;> rfl

/-- PRIV is passed in the privileged mode. -/
theorem privCheck_mode {i : Instr} {s : State} (h : s.me.mode = true) : privCheck i s = none := by simp [privCheck, h]

/-- PRIV in user mode. -/
theorem privCheck_user {i : Instr} {s : State} (h : s.me.mode = false) :
    privCheck i s = some { cause := cPRIV, tval := parcelsWord i } := by simp [privCheck, h]

/-! ### Traps -/

/-- An abandoned unit leaves its strand with no wait. -/
theorem abandonUnit_strand (s : State) (n m : Nat) :
    (abandonUnit s n).strand m =
      if m = n then (s.strand n).unitOver
      else s.strand m := by
  have h : (abandonUnit s n).strands = (s.setStrand n (s.strand n).unitOver).strands := by
    unfold abandonUnit; dsimp only; split <;> rfl
  rw [State.strand, h, State.setStrand, tget_tset]
  split <;> rfl

/-- What an abandoned unit leaves alone. -/
theorem abandonUnit_frame (s : State) (n : Nat) :
    (abandonUnit s n).mem = s.mem ∧ (abandonUnit s n).poison = s.poison ∧ (abandonUnit s n).dies = s.dies ∧
      (abandonUnit s n).cycle = s.cycle ∧ (abandonUnit s n).cur = s.cur := by
  unfold abandonUnit
  dsimp only
  split <;> exact ⟨rfl, rfl, rfl, rfl, rfl⟩

/-- A user-class trap that a handler takes. -/
theorem deliverTrap_handler {s : State} {n : Nat} {t : TrapInfo} (hc : systemClass t.cause = false) (hh : handles (s.strand n)) :
    deliverTrap s n t = (abandonUnit s n).setStrand n ((s.strand n).entered t) := by
  obtain ⟨h1, h2⟩ := hh
  unfold deliverTrap
  dsimp only
  rw [abandonUnit_strand, if_pos rfl]
  have h3 : ((s.strand n).thnd != 0) = true := by simpa using h1
  have h4 : (!systemClass t.cause && (s.strand n).thnd != 0 && !(s.strand n).inh) = true := by rw [hc, h2, h3]; rfl
  simp only [Strand.setTrap]
  exact if_pos h4

/-! ### The order of elements (R281, R282) -/

/-- Placing an element keeps the elements. -/
theorem placeElem_perm (place : Nat → Nat) (x : Elem × Nat) (xs : List (Elem × Nat)) :
    (placeElem place x xs).Perm (x :: xs) := by
  induction xs with
  | nil => exact .refl _
  | cons y ys ih =>
    unfold placeElem
    split
    · exact .refl _
    · exact (List.Perm.cons y ih).trans (.swap x y ys)

/-- So does ordering them. -/
theorem byPlace_perm (place : Nat → Nat) (xs : List (Elem × Nat)) : (byPlace place xs).Perm xs := by
  induction xs with
  | nil => exact .refl _
  | cons x xs ih => exact (placeElem_perm place x _).trans (.cons x ih)

/-- The order left open is an order of the same elements. -/
theorem anyOrder_perm (s : State) (els : List (Elem × Nat)) : (anyOrder s els).Perm els := by
  unfold anyOrder
  split
  · exact .refl _
  · exact byPlace_perm _ els

/-- Elements at rising locations keep their order. -/
theorem anyOrder_rising {s : State} {els : List (Elem × Nat)} (h : rising els = true) : anyOrder s els = els := by
  simp [anyOrder, h]

/-! ### AFLAGS and counted rows -/

/-- Conditions ORed into AFLAGS change nothing else of the array (R212). -/
theorem orTileFlags_arr (s : State) (cl : Nat) (fl : Flags) :
    ((orTileFlags s cl fl).cluster cl).arr = { (s.cluster cl).arr with aflags := orAflags (s.cluster cl).arr.aflags fl } := by
  simp [orTileFlags, setArr]

/-- A counted row changes the running strand's count alone (R145, R285). -/
theorem rowSaved_me (s : State) : (rowSaved s).me = { s.me with saved := s.me.saved + 1 } := by
  simp [rowSaved]

/-! ### What a home has taken -/

/-- That no taken request waits says that every released update a home took and every request a home holds leaves the blocks alone
(R261, R328). -/
theorem noneTaken_iff (s : State) (d : Nat) (meets : Nat → Nat → Bool) :
    noneTaken s d meets = true ↔
      (∀ e ∈ (s.die d).released, e.prior = true → meets (hRegion e.handle) (e.va.toNat / 65536) = false) ∧
        ∀ t, homeHolds s t → t.touches d meets = false := by
  have free (o : Option HeldReq) : (!o.any (·.touches d meets)) = true ↔ ∀ t, o = some t → t.touches d meets = false := by
    cases o <;> simp
  simp only [noneTaken, homeHolds, Bool.and_eq_true, List.all_eq_true, free]
  constructor
  · rintro ⟨⟨⟨⟨h1, h2⟩, h3⟩, h4⟩, h5⟩
    refine ⟨fun e he hp => by simpa [hp] using h1 e he, ?_⟩
    rintro t (⟨m, hm, h⟩ | ⟨m, hm, g, hg, c, hc, h⟩ | ⟨m, hm, c, hc, h⟩ | ⟨m, hm, c, hc, ⟨e, he, rfl⟩ | ⟨e, he, rfl⟩⟩)
    · exact h2 m hm t h
    · exact h3 m hm g hg c hc t h
    · have := h4 m hm
      simp [hc] at this
      exact (free _).1 (by simpa using this) t h
    · simpa using (h5 m hm c hc).1 e he
    · simpa using (h5 m hm c hc).2 e he
  · rintro ⟨h1, h2⟩
    refine ⟨⟨⟨⟨fun e he => ?_, fun m hm t h => h2 t (.inl ⟨m, hm, h⟩)⟩, fun m hm g hg c hc t h => h2 t (.inr (.inl ⟨m, hm, g, hg, c, hc, h⟩))⟩,
      fun m hm => ?_⟩, fun m hm c hc => ⟨fun e he t h => ?_, fun e he t h => ?_⟩⟩
    · have := h1 e he
      cases hp : e.prior <;> simp_all
    · cases hc : m.2.running with
      | none => simp
      | some c =>
        simp only [Option.all_some]
        exact (free _).2 (fun t h => h2 t (.inr (.inr (.inl ⟨m, hm, c, hc, h⟩))))
    · exact h2 t (.inr (.inr (.inr ⟨m, hm, c, hc, .inl ⟨e, he, by simpa using h⟩⟩)))
    · exact h2 t (.inr (.inr (.inr ⟨m, hm, c, hc, .inr ⟨e, he, by simpa using h⟩⟩)))

end Sys2Proof.Machine
end

