-- ==== Sys2Proof/Laws/Transcend.lean ====
section
/-! SUPPORT. The fixed-point enclosures of `vexp2` and `vlog2` (R154) hold the exact function value. -/

namespace Sys2Proof.Machine
open Sys2Proof


/-- A floor of a quotient lies within 1 below it. -/
theorem natDiv_bounds (a b : Nat) (hb : 0 < b) : (a : ℝ) / b - 1 ≤ ((a / b : Nat) : ℝ) ∧ ((a / b : Nat) : ℝ) ≤ (a : ℝ) / b := by
  have hb' : (0 : ℝ) < b := by exact_mod_cast hb
  constructor
  · have h : a < b * (a / b + 1) := by
      have := Nat.div_add_mod a b
      have := Nat.mod_lt a hb
      nlinarith
    have h' : (a : ℝ) < b * ((a / b : Nat) + 1) := by exact_mod_cast h
    rw [sub_le_iff_le_add, div_le_iff₀ hb']
    linarith
  · exact Nat.cast_div_le

/-- The first 75 terms of the series of ln 2 reach floor(ln 2 × 2^224). -/
theorem ln2_sum_low : (ln2Fix : ℚ) / 2 ^ 224 ≤ 2 * ∑ i ∈ Finset.range 75, (1 / 3 : ℚ) ^ (2 * i + 1) / (2 * i + 1) := by
  decide +kernel

/-- … and with the rest of the series stay below the next integer. -/
theorem ln2_sum_high : 2 * (∑ i ∈ Finset.range 75, (1 / 3 : ℚ) ^ (2 * i + 1) / (2 * i + 1) + (1 / 3 : ℚ) ^ 151 / (1 - (1 / 3) ^ 2)) ≤
    (ln2Fix + 1 : ℚ) / 2 ^ 224 := by
  decide +kernel

/-- ln 2 to the last of its bits. -/
theorem ln2Fix_bounds : (ln2Fix : ℝ) ≤ 2 ^ 224 * Real.log 2 ∧ 2 ^ 224 * Real.log 2 ≤ ln2Fix + 1 := by
  have e : 1 / 2 * Real.log ((1 + 1 / 3) / (1 - 1 / 3)) = 1 / 2 * Real.log 2 := by norm_num
  have l := Real.sum_range_le_log_div (x := 1 / 3) (by norm_num) (by norm_num) 75
  have h := Real.log_div_le_sum_range_add (x := 1 / 3) (by norm_num) (by norm_num) 75
  have lq := (Rat.cast_le (K := ℝ)).2 ln2_sum_low
  have hq := (Rat.cast_le (K := ℝ)).2 ln2_sum_high
  push_cast at lq hq
  rw [e] at l h
  constructor
  · rw [div_le_iff₀ (by positivity)] at lq
    nlinarith
  · rw [le_div_iff₀ (by positivity)] at hq
    norm_num at h hq ⊢
    nlinarith

/-- One truncated term of the exponential series. -/
theorem expTerm {X t T : ℝ} {k : Nat} (x tn : Nat) (hx : X = x / 2 ^ 224) (hX : 0 ≤ X) (hX1 : X ≤ 1) (hk : 2 ≤ k)
    (ht : t = tn) (hlo : t ≤ T) (hhi : T ≤ t + 3) :
    (((tn * x / 2 ^ 224 / k : Nat) : ℝ) ≤ T * X / k) ∧ T * X / k ≤ ((tn * x / 2 ^ 224 / k : Nat) : ℝ) + 3 := by
  subst ht
  have k0 : (0 : ℝ) < k := by exact_mod_cast (by omega : 0 < k)
  have k2 : (2 : ℝ) ≤ k := by exact_mod_cast hk
  have a := natDiv_bounds (tn * x) (2 ^ 224) (by positivity)
  have b := natDiv_bounds (tn * x / 2 ^ 224) k (by omega)
  have p : ((tn * x : Nat) : ℝ) / (2 ^ 224 : Nat) = tn * X := by rw [hx]; push_cast; ring
  rw [p] at a
  have tn0 : (0 : ℝ) ≤ tn := by positivity
  constructor
  · refine b.2.trans ?_
    gcongr
    exact a.2.trans (by gcongr)
  · have c : ((tn : ℝ) * X - 1) / k - 1 ≤ ((tn * x / 2 ^ 224 / k : Nat) : ℝ) := by
      refine le_trans ?_ b.1
      gcongr
      exact a.1
    have d : T * X / k ≤ (tn * X - 1) / k + 2 := by
      rw [div_add' _ _ _ (by positivity)]
      gcongr
      nlinarith
    linarith

/-- The series from term k on adds up terms, each at most 3 below its exact value. -/
theorem expSeries_spec {X : ℝ} (x : Nat) (hx : X = x / 2 ^ 224) (hX : 0 ≤ X) (hX1 : X ≤ 1) (n : Nat) :
    ∀ (k tn acc : Nat), 2 ≤ k → (tn : ℝ) ≤ 2 ^ 224 * (X ^ (k - 1) / (k - 1).factorial) →
      2 ^ 224 * (X ^ (k - 1) / (k - 1).factorial) ≤ (tn : ℝ) + 3 →
      (expSeries x n k tn acc : ℝ) ≤ acc + 2 ^ 224 * ∑ j ∈ Finset.range n, X ^ (k + j) / (k + j).factorial ∧
      acc + 2 ^ 224 * ∑ j ∈ Finset.range n, X ^ (k + j) / (k + j).factorial ≤ expSeries x n k tn acc + 3 * n := by
  induction n with
  | zero => intro k tn acc _ _ _; simp [expSeries]
  | succ n ih =>
    intro k tn acc hk lo hi
    have s := expTerm x tn hx hX hX1 hk rfl lo hi
    have e : (2 : ℝ) ^ 224 * (X ^ (k - 1) / (k - 1).factorial) * X / k = 2 ^ 224 * (X ^ k / k.factorial) := by
      obtain ⟨m, rfl⟩ : ∃ m, k = m + 1 := ⟨k - 1, by omega⟩
      simp only [Nat.add_sub_cancel, Nat.factorial_succ]
      push_cast
      have : (m.factorial : ℝ) ≠ 0 := by positivity
      have : ((m : ℝ) + 1) ≠ 0 := by positivity
      field_simp
      ring
    rw [e] at s
    have r := ih (k + 1) (tn * x / 2 ^ 224 / k) (acc + tn * x / 2 ^ 224 / k) (by omega) (by simpa using s.1) (by simpa using s.2)
    have f : expSeries x (n + 1) k tn acc = expSeries x n (k + 1) (tn * x / 2 ^ 224 / k) (acc + tn * x / 2 ^ 224 / k) := rfl
    rw [f, Finset.sum_range_succ']
    simp only [add_zero]
    have g : ∀ j, k + 1 + j = k + (j + 1) := by intro j; omega
    simp only [g] at r
    push_cast at r ⊢
    constructor <;> nlinarith [r.1, r.2, s.1, s.2]

/-- The enclosure of 2^f holds it. -/
theorem exp2Fix_encloses (x : Nat) (hx : x < 2 ^ 224) :
    ((exp2Fix x).1 : ℝ) ≤ 2 ^ 224 * (2 : ℝ) ^ ((x : ℝ) / 2 ^ 224) ∧
      2 ^ 224 * (2 : ℝ) ^ ((x : ℝ) / 2 ^ 224) ≤ ((exp2Fix x).2 : ℝ) := by
  obtain ⟨y, hy⟩ : ∃ y, x * ln2Fix / 2 ^ 224 = y := ⟨_, rfl⟩
  obtain ⟨X, hX⟩ : ∃ X : ℝ, X = y / 2 ^ 224 := ⟨_, rfl⟩
  have P : (0 : ℝ) < 2 ^ 224 := by positivity
  have x1 : (x : ℝ) ≤ 2 ^ 224 := by exact_mod_cast hx.le
  have x0 : (0 : ℝ) ≤ x := by positivity
  have l0 : Real.log 2 < 1 := by linarith [Real.log_two_lt_d9]
  have lp : 0 < Real.log 2 := Real.log_pos (by norm_num)
  have X0 : 0 ≤ X := by rw [hX]; positivity
  -- X lies at most two units below f ln 2
  have q := natDiv_bounds (x * ln2Fix) (2 ^ 224) (by positivity)
  rw [hy] at q
  simp only [Nat.cast_mul, Nat.cast_pow, Nat.cast_ofNat] at q
  have up : X ≤ x / 2 ^ 224 * Real.log 2 := by
    rw [hX, div_mul_eq_mul_div]
    refine div_le_div_of_nonneg_right (q.2.trans ?_) P.le
    rw [div_le_iff₀ P]
    nlinarith [ln2Fix_bounds.1]
  have dn : x / 2 ^ 224 * Real.log 2 ≤ X + 2 / 2 ^ 224 := by
    rw [hX, div_mul_eq_mul_div, ← add_div]
    refine div_le_div_of_nonneg_right ?_ P.le
    have : (x : ℝ) * Real.log 2 ≤ x * ln2Fix / 2 ^ 224 + 1 := by
      rw [← sub_le_iff_le_add, le_div_iff₀ P]
      nlinarith [ln2Fix_bounds.2]
    linarith [q.1]
  have F1 : (x : ℝ) / 2 ^ 224 ≤ 1 := (div_le_one P).2 x1
  have X1 : X ≤ Real.log 2 := up.trans (by nlinarith)
  -- the series
  have s0 : expSeries y 60 1 (2 ^ 224) (2 ^ 224) = expSeries y 59 2 y (2 ^ 224 + y) := by
    show expSeries y 59 2 (2 ^ 224 * y / 2 ^ 224 / 1) (2 ^ 224 + 2 ^ 224 * y / 2 ^ 224 / 1) = _
    rw [Nat.mul_div_cancel_left _ (by positivity), Nat.div_one]
  have yX : (y : ℝ) = 2 ^ 224 * X := by rw [hX]; field_simp
  have s := expSeries_spec y hX X0 (X1.trans l0.le) 59 2 y (2 ^ 224 + y) le_rfl (by simp [yX]) (by simp [yX])
  have f : ∑ j ∈ Finset.range 61, X ^ j / j.factorial =
      1 + X + ∑ j ∈ Finset.range 59, X ^ (2 + j) / (2 + j).factorial := by
    rw [Finset.sum_range_succ', Finset.sum_range_succ']
    simp only [show ∀ j, j + 1 + 1 = 2 + j from fun j => by omega]
    simp
    ring
  have eLow := Real.sum_le_exp_of_nonneg X0 61
  have eHigh := Real.exp_bound' X0 (X1.trans l0.le) (n := 61) (by norm_num)
  have tail : X ^ 61 * ((61 : ℕ) + 1) / ((61 : ℕ).factorial * (61 : ℕ)) ≤ (1 : ℝ) / 2 ^ 224 := by
    have : X ^ 61 ≤ 1 := pow_le_one₀ X0 (X1.trans l0.le)
    rw [div_le_div_iff₀ (by positivity) P]
    norm_num [Nat.factorial]
    nlinarith
  rw [f] at eLow eHigh
  -- 2^f = exp X exp d
  have e2 : (2 : ℝ) ^ ((x : ℝ) / 2 ^ 224) = Real.exp X * Real.exp (x / 2 ^ 224 * Real.log 2 - X) := by
    rw [← Real.exp_add, Real.rpow_def_of_pos (by norm_num)]
    ring_nf
  obtain ⟨d, hd⟩ : ∃ d, x / 2 ^ 224 * Real.log 2 - X = d := ⟨_, rfl⟩
  rw [hd] at e2
  have d0 : 0 ≤ d := by linarith
  have d1 : d ≤ 2 / 2 ^ 224 := by linarith
  have ed : Real.exp d ≤ 1 + 2 * d := by
    have := Real.abs_exp_sub_one_le (x := d) (by rw [abs_of_nonneg d0]; exact d1.trans (by norm_num))
    rw [abs_of_nonneg d0] at this
    linarith [le_abs_self (Real.exp d - 1)]
  have ed1 : 1 ≤ Real.exp d := Real.one_le_exp d0
  have eX : Real.exp X ≤ 2 := by
    have := Real.exp_le_exp.2 X1
    rwa [Real.exp_log (by norm_num)] at this
  have eX0 : 0 < Real.exp X := Real.exp_pos X
  have two : Real.exp X * Real.exp d ≤ Real.exp X + 8 / 2 ^ 224 := by
    have : Real.exp X * Real.exp d ≤ Real.exp X * (1 + 2 * d) := by gcongr
    have : Real.exp X * d ≤ 2 * (2 / 2 ^ 224) := by gcongr
    have : (2 : ℝ) * (2 * (2 / 2 ^ 224)) = 8 / 2 ^ 224 := by ring
    nlinarith
  have shape : exp2Fix x = (expSeries y 59 2 y (2 ^ 224 + y) - 2 ^ 10, expSeries y 59 2 y (2 ^ 224 + y) + 2 ^ 10) := by
    rw [← s0, ← hy]; rfl
  generalize expSeries y 59 2 y (2 ^ 224 + y) = S at s shape
  simp only [Nat.cast_add, Nat.cast_pow, Nat.cast_ofNat, yX] at s
  rw [shape, e2]
  constructor
  · have : ((S - 2 ^ 10 : ℕ) : ℝ) ≤ S := by exact_mod_cast Nat.sub_le _ _
    refine this.trans (s.1.trans ?_)
    have : Real.exp X ≤ Real.exp X * Real.exp d := le_mul_of_one_le_right eX0.le ed1
    have := mul_le_mul_of_nonneg_left (eLow.trans this) P.le
    linarith
  · simp only [Nat.cast_add, Nat.cast_pow, Nat.cast_ofNat]
    have a := mul_le_mul_of_nonneg_left two P.le
    have b := mul_le_mul_of_nonneg_left (eHigh.trans (add_le_add_right tail _)) P.le
    rw [mul_add, mul_div_cancel₀ _ P.ne'] at a
    rw [mul_add, mul_div_cancel₀ _ P.ne'] at b
    linarith [s.2]

/-- The odd powers of z over their exponents, `E` the exact running power: each truncated term at most 2 below its
exact value. -/
theorem atanhSeries_spec {q : ℝ} (zz : Nat) (_ : 0 ≤ q) (q1 : q ≤ 1 / 9) (lo : (zz : ℝ) ≤ 2 ^ 224 * q)
    (hi : 2 ^ 224 * q ≤ zz + 2) (n : Nat) :
    ∀ (k w acc : Nat) (E : ℝ), 3 ≤ k → E ≤ 2 ^ 224 / 3 → (w : ℝ) ≤ E → E ≤ w + 2 →
      (atanhSeries zz n k w acc : ℝ) ≤ acc + ∑ i ∈ Finset.range n, E * q ^ (i + 1) / ((k : ℝ) + 2 * i) ∧
      acc + ∑ i ∈ Finset.range n, E * q ^ (i + 1) / ((k : ℝ) + 2 * i) ≤ atanhSeries zz n k w acc + 2 * n := by
  have P : (0 : ℝ) < 2 ^ 224 := by positivity
  induction n with
  | zero => intro k w acc E _ _ _ _; simp [atanhSeries]
  | succ n ih =>
    intro k w acc E hk hE wlo whi
    have k3 : (3 : ℝ) ≤ k := by exact_mod_cast hk
    have k0 : (0 : ℝ) < k := by linarith
    have w0 : (0 : ℝ) ≤ w := by positivity
    have E0 : 0 ≤ E := w0.trans wlo
    obtain ⟨w', hw'⟩ : ∃ w', w * zz / 2 ^ 224 = w' := ⟨_, rfl⟩
    have a := natDiv_bounds (w * zz) (2 ^ 224) (by positivity)
    rw [hw'] at a
    simp only [Nat.cast_mul, Nat.cast_pow, Nat.cast_ofNat] at a
    have wlo' : (w' : ℝ) ≤ E * q := by
      refine a.2.trans ?_
      rw [div_le_iff₀ P]
      have : (w : ℝ) * zz ≤ E * (2 ^ 224 * q) := by gcongr
      linarith
    have whi' : E * q ≤ w' + 2 := by
      have zz0 : (0 : ℝ) ≤ zz := by positivity
      have : (E * q - 1) * 2 ^ 224 ≤ w * zz := by
        have h1 : E * (2 ^ 224 * q) ≤ E * (zz + 2) := by gcongr
        have h2 : (E - 2) * zz ≤ w * zz := by gcongr; linarith
        nlinarith
      have : E * q - 1 ≤ (w : ℝ) * zz / 2 ^ 224 := by rwa [le_div_iff₀ P]
      linarith [a.1]
    have b := natDiv_bounds w' k (by omega)
    have t0 : E * q / k ≤ ((w' / k : Nat) : ℝ) + 2 := by
      have : E * q / k ≤ (w' + 2) / k := by gcongr
      have : (2 : ℝ) / k ≤ 1 := by rw [div_le_one k0]; linarith
      have : ((w' : ℝ) + 2) / k = w' / k + 2 / k := by ring
      linarith [b.1]
    have t1 : ((w' / k : Nat) : ℝ) ≤ E * q / k := b.2.trans (by gcongr)
    have hE' : E * q ≤ 2 ^ 224 / 3 := by nlinarith
    have r := ih (k + 2) w' (acc + w' / k) (E * q) (by omega) hE' wlo' whi'
    have f : atanhSeries zz (n + 1) k w acc = atanhSeries zz n (k + 2) w' (acc + w' / k) := by rw [← hw']; rfl
    have g : ∑ i ∈ Finset.range (n + 1), E * q ^ (i + 1) / ((k : ℝ) + 2 * i) =
        ∑ i ∈ Finset.range n, E * q * q ^ (i + 1) / (((k + 2 : ℕ) : ℝ) + 2 * i) + E * q / k := by
      rw [Finset.sum_range_succ']
      congr 1
      · refine Finset.sum_congr rfl fun i _ => ?_
        push_cast
        ring_nf
      · simp
    rw [f, g]
    rw [Nat.cast_add acc] at r
    push_cast at r ⊢
    constructor <;> linarith [r.1, r.2]

/-- The enclosure of log2(m / 2^23) holds it. -/
theorem log2Fix_encloses (m : Nat) (lo : 2 ^ 23 < m) (hi : m < 2 ^ 24) :
    ((log2Fix m).1 : ℝ) ≤ 2 ^ 224 * Real.logb 2 ((m : ℝ) / 2 ^ 23) ∧
      2 ^ 224 * Real.logb 2 ((m : ℝ) / 2 ^ 23) ≤ ((log2Fix m).2 : ℝ) := by
  have P : (0 : ℝ) < 2 ^ 224 := by positivity
  have mlo : (2 : ℝ) ^ 23 < m := by exact_mod_cast lo
  have mhi : (m : ℝ) < 2 ^ 24 := by exact_mod_cast hi
  have lp : 0 < Real.log 2 := Real.log_pos (by norm_num)
  have lhalf : 2 / 3 < Real.log 2 := by linarith [Real.log_two_gt_d9]
  obtain ⟨x, hx⟩ : ∃ x : ℝ, x = (m - 2 ^ 23) / (m + 2 ^ 23) := ⟨_, rfl⟩
  have d0 : (0 : ℝ) < m + 2 ^ 23 := by positivity
  have x0 : 0 ≤ x := by rw [hx]; exact div_nonneg (by linarith) d0.le
  have x1 : x ≤ 1 / 3 := by rw [hx, div_le_iff₀ d0]; linarith
  have xlog : Real.log ((1 + x) / (1 - x)) = Real.log (m / 2 ^ 23) := by
    congr 1
    have : 1 - x ≠ 0 := by linarith
    rw [div_eq_div_iff this (by positivity), hx]
    field_simp
    ring
  -- z and its square
  obtain ⟨z, hz⟩ : ∃ z, (m - 2 ^ 23) * 2 ^ 224 / (m + 2 ^ 23) = z := ⟨_, rfl⟩
  have a := natDiv_bounds ((m - 2 ^ 23) * 2 ^ 224) (m + 2 ^ 23) (by omega)
  rw [hz] at a
  simp only [Nat.cast_mul, Nat.cast_sub lo.le, Nat.cast_add, Nat.cast_pow, Nat.cast_ofNat] at a
  have ax : ((m : ℝ) - 2 ^ 23) * 2 ^ 224 / (m + 2 ^ 23) = 2 ^ 224 * x := by rw [hx]; ring
  rw [ax] at a
  obtain ⟨zz, hzz⟩ : ∃ zz, z * z / 2 ^ 224 = zz := ⟨_, rfl⟩
  have b := natDiv_bounds (z * z) (2 ^ 224) (by positivity)
  rw [hzz] at b
  simp only [Nat.cast_mul, Nat.cast_pow, Nat.cast_ofNat] at b
  have z0 : (0 : ℝ) ≤ z := by positivity
  have zlo : (zz : ℝ) ≤ 2 ^ 224 * (x * x) := by
    refine b.2.trans ?_
    rw [div_le_iff₀ P]
    have : (z : ℝ) * z ≤ (2 ^ 224 * x) * (2 ^ 224 * x) := mul_le_mul a.2 a.2 z0 (mul_nonneg P.le x0)
    linarith
  have zhi : 2 ^ 224 * (x * x) ≤ zz + 2 := by
    have : (2 ^ 224 * (x * x) - 1) * 2 ^ 224 ≤ z * z := by nlinarith [a.1]
    have : 2 ^ 224 * (x * x) - 1 ≤ (z : ℝ) * z / 2 ^ 224 := by rwa [le_div_iff₀ P]
    linarith [b.1]
  have s := atanhSeries_spec zz (mul_nonneg x0 x0) (by nlinarith) zlo zhi 75 3 z z (2 ^ 224 * x) le_rfl (by linarith)
    a.2 (by linarith [a.1])
  have f : 2 ^ 224 * ∑ i ∈ Finset.range 76, x ^ (2 * i + 1) / (2 * i + 1) =
      2 ^ 224 * x + ∑ i ∈ Finset.range 75, 2 ^ 224 * x * (x * x) ^ (i + 1) / (((3 : ℕ) : ℝ) + 2 * i) := by
    rw [Finset.sum_range_succ', mul_add, Finset.mul_sum, add_comm]
    refine congrArg₂ (· + ·) ?_ ?_
    · simp
    · refine Finset.sum_congr rfl fun i _ => ?_
      rw [← mul_div_assoc]
      refine congrArg₂ (· / ·) ?_ ?_
      · rw [← pow_two, ← pow_mul]; ring
      · push_cast; ring
  have eLow := Real.sum_range_le_log_div x0 (by linarith) 76
  have eHigh := Real.log_div_le_sum_range_add x0 (by linarith) 76
  rw [xlog] at eLow eHigh
  have tail : x ^ (2 * 76 + 1) / (1 - x ^ 2) ≤ 1 / 2 ^ 224 := by
    have h : x ^ (2 * 76 + 1) ≤ (1 / 3) ^ (2 * 76 + 1) := pow_le_pow_left₀ x0 x1 _
    have : (8 : ℝ) / 9 ≤ 1 - x ^ 2 := by nlinarith
    refine (div_le_div₀ (by positivity) h (by norm_num) this).trans ?_
    norm_num
  obtain ⟨S, hS⟩ : ∃ S, atanhSeries zz 75 3 z z = S := ⟨_, rfl⟩
  rw [hS] at s
  obtain ⟨L, hL⟩ : ∃ L, Real.log ((m : ℝ) / 2 ^ 23) = L := ⟨_, rfl⟩
  rw [hL] at eLow eHigh
  have Llo : 2 * (S : ℝ) ≤ 2 ^ 224 * L := by
    have := mul_le_mul_of_nonneg_left eLow P.le
    rw [f] at this
    linarith [s.1, a.2]
  have Lhi : 2 ^ 224 * L ≤ 2 * S + 304 := by
    have h := mul_le_mul_of_nonneg_left (eHigh.trans (add_le_add_right tail _)) P.le
    rw [mul_add, mul_div_cancel₀ _ P.ne', f] at h
    norm_num at s h ⊢
    linarith [s.2, a.1]
  obtain ⟨l, hl⟩ : ∃ l, 2 * S * 2 ^ 224 / ln2Fix = l := ⟨_, rfl⟩
  have np : 0 < ln2Fix := by decide +kernel
  have nP : (0 : ℝ) < ln2Fix := by exact_mod_cast np
  have c := natDiv_bounds (2 * S * 2 ^ 224) ln2Fix np
  rw [hl] at c
  simp only [Nat.cast_mul, Nat.cast_pow, Nat.cast_ofNat] at c
  have S0 : (0 : ℝ) ≤ S := by positivity
  have half : (2 : ℝ) ^ 224 ≤ 2 * ln2Fix := by
    have : 2 ^ 224 ≤ 2 * ln2Fix := by decide +kernel
    exact_mod_cast this
  have L1 : L ≤ Real.log 2 := by
    rw [← hL]
    refine Real.log_le_log (by positivity) ?_
    rw [div_le_iff₀ (by positivity)]
    linarith
  have L0 : 0 ≤ L := by
    rw [← hL]
    refine Real.log_nonneg ?_
    rw [le_div_iff₀ (by positivity)]
    linarith
  have v : Real.logb 2 ((m : ℝ) / 2 ^ 23) = L / Real.log 2 := by rw [Real.logb, hL]
  have up : (l : ℝ) ≤ 2 ^ 224 * (L / Real.log 2) + 2 := by
    have g1 : 2 * (S : ℝ) * 2 ^ 224 ≤ 2 ^ 224 * L * 2 ^ 224 := by gcongr
    have g2 : (2 : ℝ) ^ 224 * L * 2 ^ 224 = L / Real.log 2 * 2 ^ 224 * (2 ^ 224 * Real.log 2) := by
      field_simp
    have r0 : 0 ≤ L / Real.log 2 := div_nonneg L0 lp.le
    have r1 : L / Real.log 2 ≤ 1 := (div_le_one lp).2 L1
    have g3 : L / Real.log 2 * 2 ^ 224 * (2 ^ 224 * Real.log 2) ≤ L / Real.log 2 * 2 ^ 224 * (ln2Fix + 1) := by
      gcongr
      exact ln2Fix_bounds.2
    have g4 : L / Real.log 2 * 2 ^ 224 ≤ 1 * 2 ^ 224 := by gcongr
    refine c.2.trans ?_
    rw [div_le_iff₀ nP]
    linarith
  have dn : 2 ^ 224 * (L / Real.log 2) ≤ l + 500 := by
    have g1 : 2 * (S : ℝ) / Real.log 2 ≤ 2 * S * 2 ^ 224 / ln2Fix := by
      rw [div_le_div_iff₀ lp nP]
      have := mul_le_mul_of_nonneg_left ln2Fix_bounds.1 (mul_nonneg zero_le_two S0)
      linarith
    have g2 : 2 ^ 224 * (L / Real.log 2) ≤ (2 * S + 304) / Real.log 2 := by
      rw [← mul_div_assoc]
      gcongr
    have g3 : (304 : ℝ) / Real.log 2 ≤ 456 := by
      rw [div_le_iff₀ lp]
      linarith
    rw [add_div] at g2
    linarith [c.1]
  have shape : log2Fix m = (l - 2 ^ 10, l + 2 ^ 10) := by
    rw [← hl, ← hS, ← hzz, ← hz]; rfl
  rw [shape, v]
  constructor
  · rcases le_total l (2 ^ 10) with h | h
    · have : ((l - 2 ^ 10 : ℕ) : ℝ) = 0 := by rw [Nat.sub_eq_zero_of_le h]; simp
      exact this.trans_le (mul_nonneg P.le (div_nonneg L0 lp.le))
    · rw [Nat.cast_sub h]
      push_cast
      linarith
  · simp only [Nat.cast_add, Nat.cast_pow, Nat.cast_ofNat]
    linarith
end Sys2Proof.Machine
end

