-- ==== Sys2Proof/Tests/Slice0.lean ====
section
/-! SUPPORT. Tests: the well-formedness checks, a word of every constructor written from the encoding tables of the manual,
one step of the instructions on small machines, and for each obligation a state that meets its hypotheses. Expected results are
worked out by hand from the rules cited. -/

open Sys2Proof Sys2Proof.Machine

namespace Sys2Proof.Tests

set_option Elab.async false

/-! ### Well-formedness: each check of `Instr.wf` refuses an ill-formed term -/

/-- Registers and counts (R84-R95): `loop` on s0, a frame past 32, a run past its file, wrong element types, odd fields. -/
theorem test_wf_fields :
    ([.loop .plain 0 1, .call .plain 0 33, .callr .plain 1 33, .cmp .plain .plain .un 0 0 1 2, .cmpu .plain .plain .or 0 0 1 2,
      .cmpi .plain .plain .un 0 0 1 2, .cmpui .plain .plain .un 0 0 1 2, .vadd .plain .i32 3 (.v 249) .lx .lx,
      .vsub .plain .i32 3 (.v 0) (.row (.b 505)) .lx, .vmul .plain .i32 1 (.v 0) .lx (.row (.o 7)),
      .vmulh .plain .f32 0 (.v 0) .lx .lx, .vmin .plain .i32 1 (.o 7) .lx .lx, .vmax .plain .i32 1 (.o 7) .lx .lx,
      .vabs .plain .u32 0 (.v 0) .lx, .vneg .plain .u32 0 (.v 0) .lx, .vfma .plain .f32 0 (.b 0) .lx .lx,
      .vfma .plain .i32 0 (.v 0) .lx .lx, .vdiv .plain .i32 0 (.v 0) .lx .lx, .vrcp .plain 1 (.o 7) .lx,
      .vrsqrt .plain 1 (.o 7) .lx, .vsqrt .plain 1 (.o 7) .lx, .vexp2 .plain 1 (.o 7) .lx, .vlog2 .plain 1 (.o 7) .lx,
      .vshl .plain .f32 0 (.v 0) .lx .lx, .vshr .plain .f16 0 (.v 0) .lx .lx, .vsar .plain .u32 0 (.v 0) .lx .lx,
      .vand .plain 1 (.o 7) .lx .lx, .vor .plain 1 (.o 7) .lx .lx, .vxor .plain 1 (.o 7) .lx .lx, .vnot .plain 1 (.o 7) .lx,
      .vmov .plain 1 (.o 7) .lx, .vcmp .plain .plain .i32 .un 0 0 .lx .lx, .vcvt .plain .fp32 .fp32 (.v 0) .lx,
      .vcvt .plain .int4 .fp32 (.v 0) .lx, .vcvt .plain .fp32 .int8 (.o 5) .lx, .vquant .plain .e4m3 0 (.v 0) (.row (.o 5)) (.v 1),
      .vdequant .plain .e4m3 0 (.o 5) .lx .lx, .vdot4 .plain .i8 (.b 0) .lx .lx] : List Instr).all (fun i => !i.wf) = true := by
  decide +kernel

/-- The same of pair words, memory, atomics, engines and the cluster. -/
theorem test_wf_fields_more :
    ([.pairSNop .plain .nop, .pairVVaddI32 .plain .nop 0 .lx .lx, .pairVVfmaF32 .plain .nop 0 .lx .lx, .pairVVmov .plain .nop 0 .lx,
      .ldfg .plain .w4 false (.v 0) 1 (.v 250), .ldlg .plain .w8 false (.v 0) 1 (.o 5), .stls .plain .w16 false .lx 1 (.b 511),
      .lds .plain 7 (.v 0) 1 0, .amoSwap .plain ⟨.relaxed, .die, false, true⟩ 1 1 1, .amoCas .plain ⟨.relaxed, .die, false, false⟩ 31 1 1,
      .amoAdd .plain ⟨.relaxed, .die, false, true⟩ 1 1 1, .amoMin .plain ⟨.relaxed, .die, true, true⟩ 1 1 1,
      .amoMax .plain ⟨.relaxed, .die, true, true⟩ 1 1 1, .amoAnd .plain ⟨.relaxed, .die, false, true⟩ 1 1 1,
      .amoOr .plain ⟨.relaxed, .die, false, true⟩ 1 1 1, .hbuild .plain 1 29, .bfree .plain 511 2, .bfree .plain 0 0,
      .lease .plain 257, .lease .plain 0, .leaseCyc .plain 65537, .mma .plain .none .f16 .f16 false true false 0 1 .lx,
      .mdrain .plain .dflt false false false 1 none, .saccMin .plain .af 1 0 1 1, .saccMax .plain .af 1 0 1 1,
      .saccAnd .plain .af 1 0 1 1, .saccOr .plain .af 1 0 1 1, .saccXor .plain .af 1 0 1 1, .rgnParties .plain 1 0,
      .lrecPatch .plain 1 7 2, .lrecPatch .plain 1 24 2] : List Instr).all (fun i => !i.wf) = true := by decide +kernel

/-- Events name agents that exist (R2, R298, R331). -/
theorem test_wf_events :
    ([.bankReplay 0 16, .bandWaitExpiry 9216, .engineCommandStart 3072 0 0, .copyRowDelivery 0 4, .engineCompletion 0 4 0,
      .heldEntryEnter 0 4, .matrixCommandStart 384, .accrueEntryPerform 24, .recordDispatch 24, .stitchStart 3072, .eprioAging 0 4096,
      .recastFlip 0 262144, .collectiveComplete 0 65536, .hostKick 0 16 0, .hostHdmRead (1152 * 2 ^ 30) 1,
      .hostHdmWrite (1152 * 2 ^ 30) [0], .imageVerify 24, .fwRegisterWrite 24 0 0, .portLinkUpChange 0 32 true,
      .firmwareWritesState 0 0 7, .tenantSamplerRemoval 128, .diePowerWithinCap 24, .messageDelivery { die := 24 }] : List Instr).all
      (fun i => !i.wf) = true := by decide +kernel

/-- Prefixes (R68, R70, R96): a key without RSR, an empty Arithmetic, a kind not accepted, two of a kind, one before
T = 1, an Immediate extension before a float `vmin` and a shift by an immediate. -/
theorem test_wf_prefixes :
    ([.fadd ⟨[.round .rne 1], false, .none⟩ 1 2 3, .fadd ⟨[.arith false false false], false, .none⟩ 1 2 3,
      .fadd ⟨[.imm 1], false, .none⟩ 1 2 3, .fadd ⟨[.round .rup 0, .round .rdn 0], false, .none⟩ 1 2 3,
      .fadd ⟨[.round .rup 0], true, .none⟩ 1 2 3, .vmin ⟨[.imm 1], false, .none⟩ .f32 0 (.v 1) (.row (.v 2)) (.imm 3),
      .shlLi ⟨[.imm 1], false, .none⟩ 9 1 3] : List Instr).all (fun i => !i.wf) = true := by decide +kernel

/-! ### Decoding: a word of every constructor, from R59-R65 and R84-R95 -/

/-- Short parcels: SR, SI, SJ (R59). -/
def sr (fn d a b : Nat) : List Nat := [fn * 2 ^ 23 + b * 2 ^ 18 + a * 2 ^ 13 + d * 2 ^ 8 + 0x02 * 2 ^ 3]
/-- SI. -/
def si (maj d a imm : Nat) : List Nat := [imm * 2 ^ 18 + a * 2 ^ 13 + d * 2 ^ 8 + maj * 2 ^ 3]
/-- The first parcel of a long instruction, unguarded, T = 0 (R60). -/
def lp (opc x2 : Nat) : Nat := x2 * 2 ^ 30 + opc * 2 ^ 20 + 0xFF * 2 ^ 12 + 1
/-- LV (R61). -/
def lv (opc x2 d a b : Nat) : List Nat := [lp opc x2, b * 2 ^ 21 + a * 2 ^ 10 + d]
/-- LC. -/
def lc (opc x2 cond pe pd a b : Nat) : List Nat := [lp opc x2, b * 2 ^ 21 + a * 2 ^ 10 + cond * 2 ^ 6 + pe * 2 ^ 3 + pd]
/-- LS. -/
def ls (opc d a b aux : Nat) : List Nat := [lp opc 0, aux * 2 ^ 15 + b * 2 ^ 10 + a * 2 ^ 5 + d]
/-- LI. -/
def li (opc x2 d a imm : Nat) : List Nat := [lp opc x2, imm * 2 ^ 10 + a * 2 ^ 5 + d]
/-- LM. -/
def lm (opc x2 d h a aux : Nat) : List Nat := [lp opc x2, aux * 2 ^ 20 + a * 2 ^ 15 + h * 2 ^ 11 + d]
/-- A pair word (R65). -/
def pw (sop sd sa sb vop vd va vb : Nat) : List Nat :=
  let w := vb * 2 ^ 58 + va * 2 ^ 52 + vd * 2 ^ 47 + vop * 2 ^ 41 + sb * 2 ^ 36 + sa * 2 ^ 31 + sd * 2 ^ 26 + sop * 2 ^ 20 +
    0xFF * 2 ^ 12 + 2
  [w % 2 ^ 32, w / 2 ^ 32]

/-- Every word of a list stands for its instruction. -/
def allRead (l : List (List Nat × Instr)) : Bool := l.all (fun e => (decodeUnit e.1).toOption == some e.2)

theorem test_decode_short : allRead [
    ([0x00000008], .nop .plain), (sr 0 3 1 2, .addSr .plain 3 1 2), (sr 1 3 1 2, .subSr .plain 3 1 2),
    (sr 2 3 1 2, .mulSr .plain 3 1 2), (sr 3 3 1 2, .mulhSr .plain 3 1 2), (sr 4 3 1 2, .mulhuSr .plain 3 1 2),
    (sr 5 3 1 2, .divSr .plain 3 1 2), (sr 6 3 1 2, .divuSr .plain 3 1 2), (sr 7 3 1 2, .remSr .plain 3 1 2),
    (sr 8 3 1 2, .remuSr .plain 3 1 2), (sr 9 3 1 2, .andSr .plain 3 1 2), (sr 10 3 1 2, .orSr .plain 3 1 2),
    (sr 11 3 1 2, .xorSr .plain 3 1 2), (sr 12 3 1 2, .shlSr .plain 3 1 2), (sr 13 3 1 2, .shrSr .plain 3 1 2),
    (sr 14 3 1 2, .sarSr .plain 3 1 2), (sr 15 3 1 2, .minSr .plain 3 1 2), (sr 16 3 1 2, .maxSr .plain 3 1 2),
    (sr 17 3 1 2, .minuSr .plain 3 1 2), (sr 18 3 1 2, .maxuSr .plain 3 1 2), (si 3 3 1 0x2001, .addSi .plain 3 1 0x2001),
    (si 4 3 1 5, .subSi .plain 3 1 5), (si 5 3 1 5, .andSi .plain 3 1 5), (si 6 3 1 5, .orSi .plain 3 1 5),
    (si 7 3 1 5, .xorSi .plain 3 1 5), (si 8 3 1 63, .shlSi .plain 3 1 63), (si 9 3 1 63, .shrSi .plain 3 1 63),
    (si 10 3 1 63, .sarSi .plain 3 1 63), (si 11 3 0 5, .moviSi .plain 3 5), ([0xFFFFFF * 2 ^ 8 + 0x0C * 8], .brSj .plain 0xFFFFFF)]
    = true := by decide +kernel

theorem test_decode_control : allRead [
    ([lp 0x001 0, 0xFFFFFFFE], .brLb .plain 0xFFFFFFFE), (li 0x002 0 0 5 0x3FFFFF, .loop .plain 5 0x3FFFFF),
    ([lp 0x003 0, 9 * 2 ^ 10 + 32 * 2 ^ 4], .call .plain 9 32), (ls 0x004 0 5 0 32, .callr .plain 5 32),
    (ls 0x005 0 5 0 0, .jr .plain 5), (ls 0x006 0 0 0 0, .ret .plain), (li 0x007 0 0 0 4095, .trap .plain 4095),
    (ls 0x008 0 0 0 0, .eret .plain), (ls 0x060 1 2 3 (4 + 0xE8 * 2 ^ 3), .pcomb .plain 1 2 3 4 0xE8),
    (ls 0x061 5 2 0 0, .pcount .plain 5 2), (ls 0x062 5 2 0 0, .pfirst .plain 5 2), (ls 0x063 2 5 0 0, .pset .plain 2 5),
    (ls 0x064 5 2 0 0, .pget .plain 5 2), (li 0x065 0 0 0 0x7E, .plive .plain 0x7E), (li 0x080 0 5 0 3, .feat .plain 5 3),
    (ls 0x081 5 0 0 1, .sysr .plain 5 .status), (ls 0x082 0 5 0 1, .sysw .plain .status 5), (ls 0x083 0 5 0 0, .ctxsave .plain 5),
    (ls 0x084 0 5 0 0, .ctxrestore .plain 5)] = true := by decide +kernel

theorem test_decode_scalar : allRead [
    (ls 0x010 3 1 2 0, .addLs .plain 3 1 2), (ls 0x011 3 1 2 0, .subLs .plain 3 1 2), (ls 0x012 3 1 2 0, .mulLs .plain 3 1 2),
    (ls 0x013 3 1 2 0, .mulhLs .plain 3 1 2), (ls 0x014 3 1 2 0, .mulhuLs .plain 3 1 2), (ls 0x015 3 1 2 0, .divLs .plain 3 1 2),
    (ls 0x016 3 1 2 0, .divuLs .plain 3 1 2), (ls 0x017 3 1 2 0, .remLs .plain 3 1 2), (ls 0x018 3 1 2 0, .remuLs .plain 3 1 2),
    (ls 0x019 3 1 2 0, .andLs .plain 3 1 2), (ls 0x01A 3 1 2 0, .orLs .plain 3 1 2), (ls 0x01B 3 1 2 0, .xorLs .plain 3 1 2),
    (ls 0x01C 3 1 2 0, .shlLs .plain 3 1 2), (ls 0x01D 3 1 2 0, .shrLs .plain 3 1 2), (ls 0x01E 3 1 2 0, .sarLs .plain 3 1 2),
    (ls 0x01F 3 1 2 0, .minLs .plain 3 1 2), (ls 0x020 3 1 2 0, .maxLs .plain 3 1 2), (ls 0x021 3 1 2 0, .minuLs .plain 3 1 2),
    (ls 0x022 3 1 2 0, .maxuLs .plain 3 1 2), (li 0x030 0 3 1 7, .addLi .plain 3 1 7), (li 0x031 0 3 1 7, .subLi .plain 3 1 7),
    (li 0x032 0 3 1 7, .mulLi .plain 3 1 7), (li 0x033 0 3 1 7, .andLi .plain 3 1 7), (li 0x034 0 3 1 7, .orLi .plain 3 1 7),
    (li 0x035 0 3 1 7, .xorLi .plain 3 1 7), (li 0x036 0 3 1 63, .shlLi .plain 3 1 63), (li 0x037 0 3 1 63, .shrLi .plain 3 1 63),
    (li 0x038 0 3 1 63, .sarLi .plain 3 1 63), (li 0x039 0 3 1 7, .minLi .plain 3 1 7), (li 0x03A 0 3 1 7, .maxLi .plain 3 1 7),
    (li 0x03B 0 3 1 7, .minuLi .plain 3 1 7), (li 0x03C 0 3 1 7, .maxuLi .plain 3 1 7), (li 0x03D 0 3 0 7, .moviLi .plain 3 7),
    (lc 0x040 0 2 4 3 0x321 0x322, .cmp .plain .plain .lt 4 3 1 2), (lc 0x041 1 5 4 3 0x321 0x322, .cmpu .plain .unc .ge 4 3 1 2),
    (lc 0x042 2 0 4 3 0x321 0x7FF, .cmpi .plain .and .eq 4 3 1 0x1FF), (lc 0x043 3 1 4 3 0x321 0x605, .cmpui .plain .or .ne 4 3 1 5),
    (lc 0x044 0 6 4 3 0x321 0x322, .fcmp .plain .plain .un 4 3 1 (.scal 2)), (ls 0x050 3 1 2 0, .fadd .plain 3 1 2),
    (ls 0x051 3 1 2 0, .fsub .plain 3 1 2), (ls 0x052 3 1 2 0, .fmul .plain 3 1 2), (ls 0x053 3 1 2 0, .fdiv .plain 3 1 2),
    (ls 0x054 3 1 0 0, .fsqrt .plain 3 1), (ls 0x055 3 1 2 4, .ffma .plain 3 1 2 4), (ls 0x056 3 1 2 0, .fmin .plain 3 1 2),
    (ls 0x057 3 1 2 0, .fmax .plain 3 1 2), (ls 0x058 3 1 0 0, .fabs .plain 3 1), (ls 0x059 3 1 0 0, .fneg .plain 3 1),
    (ls 0x05A 3 1 0 0, .fcvti .plain 3 1), (ls 0x05B 3 1 0 0, .fcvtf .plain 3 1)] = true := by decide +kernel

theorem test_decode_vector : allRead [
    (lv 0x101 0 1 2 3, .vadd .plain .u32 0 (.v 1) (.row (.v 2)) (.row (.v 3))),
    (lv 0x10A 1 0x101 0x308 0x605, .vsub .plain .i8 1 (.b 1) .lx (.imm 5)),
    (lv 0x114 2 0x300 0x321 3, .vmul .plain .f32 2 (.o 0) (.scal 1) (.row (.v 3))),
    (lv 0x118 3 1 2 3, .vmulh .plain .i32 3 (.v 1) (.row (.v 2)) (.row (.v 3))),
    (lv 0x125 0 1 2 3, .vmin .plain .f16 0 (.v 1) (.row (.v 2)) (.row (.v 3))),
    (lv 0x12E 0 1 2 3, .vmax .plain .bf16 0 (.v 1) (.row (.v 2)) (.row (.v 3))), (lv 0x130 0 1 2 0, .vabs .plain .i32 0 (.v 1) (.row (.v 2))),
    (lv 0x13A 0 1 2 0, .vneg .plain .i8 0 (.v 1) (.row (.v 2))), (lv 0x144 0 1 2 3, .vfma .plain .f32 0 (.v 1) (.row (.v 2)) (.row (.v 3))),
    (lv 0x14D 0 1 2 3, .vdiv .plain .f16 0 (.v 1) (.row (.v 2)) (.row (.v 3))), (lv 0x150 0 1 2 0, .vrcp .plain 0 (.v 1) (.row (.v 2))),
    (lv 0x151 0 1 2 0, .vrsqrt .plain 0 (.v 1) (.row (.v 2))), (lv 0x152 0 1 2 0, .vsqrt .plain 0 (.v 1) (.row (.v 2))),
    (lv 0x153 0 1 2 0, .vexp2 .plain 0 (.v 1) (.row (.v 2))), (lv 0x154 0 1 2 0, .vlog2 .plain 0 (.v 1) (.row (.v 2))),
    (lv 0x158 0 1 2 3, .vshl .plain .i32 0 (.v 1) (.row (.v 2)) (.row (.v 3))),
    (lv 0x161 0 1 2 3, .vshr .plain .u32 0 (.v 1) (.row (.v 2)) (.row (.v 3))),
    (lv 0x16A 0 1 2 3, .vsar .plain .i8 0 (.v 1) (.row (.v 2)) (.row (.v 3))),
    (lv 0x170 0 1 2 3, .vand .plain 0 (.v 1) (.row (.v 2)) (.row (.v 3))), (lv 0x171 0 1 2 3, .vor .plain 0 (.v 1) (.row (.v 2)) (.row (.v 3))),
    (lv 0x172 0 1 2 3, .vxor .plain 0 (.v 1) (.row (.v 2)) (.row (.v 3))), (lv 0x173 0 1 2 0, .vnot .plain 0 (.v 1) (.row (.v 2))),
    (lv 0x174 0 1 2 0, .vmov .plain 0 (.v 1) (.row (.v 2))),
    (lc 0x184 1 6 4 3 2 3, .vcmp .plain .unc .f32 .un 4 3 (.row (.v 2)) (.row (.v 3))),
    (lv 0x19B 0 1 2 0x60C, .vcvt .plain .e4m3 .e5m2 (.v 1) (.row (.v 2))),
    (lv 0x1A1 3 1 2 0x300, .vquant .plain .e5m2 3 (.v 1) (.row (.v 2)) (.o 0)),
    (lv 0x1AC 1 1 2 3, .vdequant .plain .e2m1 1 (.v 1) (.row (.v 2)) (.row (.v 3))),
    (lv 0x1B2 0 1 2 3, .vdot4 .plain .e5m2 (.v 1) (.row (.v 2)) (.row (.v 3))),
    (lv 0x1C0 0 1 2 3, .vperm .plain (.v 1) (.row (.v 2)) (.row (.v 3))), (lv 0x1C1 0 1 2 0x605, .vbcast .plain (.v 1) (.row (.v 2)) (.imm 5)),
    (lv 0x1C2 0 1 2 0x321, .vrot .plain (.v 1) (.row (.v 2)) (.scal 1)), (lv 0x1C8 0 1 2 0, .vredsum .plain .i32 (.v 1) (.row (.v 2))),
    (lv 0x1D1 0 1 2 0, .vredmin .plain .u32 (.v 1) (.row (.v 2))), (lv 0x1DA 0 1 2 0, .vredmax .plain .i8 (.v 1) (.row (.v 2))),
    (lv 0x1E4 0 1 2 0, .vscan .plain .f32 (.v 1) (.row (.v 2))), (lv 0x1E8 0 1 2 0, .vcompress .plain (.v 1) (.row (.v 2))),
    (lv 0x1E9 0 1 2 0, .vexpand .plain (.v 1) (.row (.v 2))), (lm 0x1EA 0 1 0 5 0, .vget .plain (.v 1) 5),
    (lm 0x1EB 0 0x308 0 5 0, .vput .plain .lx 5)] = true := by decide +kernel

theorem test_decode_pair : allRead [
    (pw 0 0 0 0 1 4 5 0x28, .pairSNop .plain (.vaddI32 4 (.v 5) .lx)), (pw 1 1 2 3 0 0 0 0, .pairSAdd .plain 1 2 3),
    (pw 2 1 2 3 0 0 0 0, .pairSSub .plain 1 2 3), (pw 3 1 2 3 0 0 0 0, .pairSAnd .plain 1 2 3),
    (pw 4 1 2 3 0 0 0 0, .pairSOr .plain 1 2 3), (pw 5 1 2 3 0 0 0 0, .pairSXor .plain 1 2 3),
    (pw 6 1 2 3 0 0 0 0, .pairSMin .plain 1 2 3), (pw 7 1 2 3 0 0 0 0, .pairSMax .plain 1 2 3),
    (pw 8 1 2 31 0 0 0 0, .pairSAddi .plain 1 2 31), (pw 9 1 2 31 0 0 0 0, .pairSShl .plain 1 2 31),
    (pw 10 1 2 31 0 0 0 0, .pairSShr .plain 1 2 31), (pw 11 1 2 31 0 0 0 0, .pairSSar .plain 1 2 31),
    (pw 12 1 2 0 0 0 0 0, .pairSMov .plain 1 2), (pw 13 1 0 31 0 0 0 0, .pairSMovi .plain 1 31), (pw 0 0 0 0 0 0 0 0, .pairVNop .plain),
    (pw 12 1 2 0 1 4 5 0x31, .pairVVaddI32 .plain (.mov 1 2) 4 (.v 5) (.scal 1)),
    (pw 12 1 2 0 2 4 5 6, .pairVVsubI32 .plain (.mov 1 2) 4 (.v 5) (.v 6)), (pw 12 1 2 0 3 4 5 6, .pairVVmulI32 .plain (.mov 1 2) 4 (.v 5) (.v 6)),
    (pw 12 1 2 0 4 4 5 6, .pairVVminI32 .plain (.mov 1 2) 4 (.v 5) (.v 6)), (pw 12 1 2 0 5 4 5 6, .pairVVmaxI32 .plain (.mov 1 2) 4 (.v 5) (.v 6)),
    (pw 12 1 2 0 6 4 5 0x27, .pairVVand .plain (.mov 1 2) 4 (.v 5) (.o 7)), (pw 12 1 2 0 7 4 5 6, .pairVVor .plain (.mov 1 2) 4 (.v 5) (.v 6)),
    (pw 12 1 2 0 8 4 5 6, .pairVVxor .plain (.mov 1 2) 4 (.v 5) (.v 6)), (pw 12 1 2 0 9 4 5 0, .pairVVmov .plain (.mov 1 2) 4 (.v 5)),
    ([0xA48FF002, 0x14421414], .pairVVaddF32 .plain (.addi 9 9 1) 4 (.v 4) (.v 5)),
    (pw 12 1 2 0 11 4 5 6, .pairVVsubF32 .plain (.mov 1 2) 4 (.v 5) (.v 6)), (pw 12 1 2 0 12 4 5 6, .pairVVmulF32 .plain (.mov 1 2) 4 (.v 5) (.v 6)),
    (pw 12 1 2 0 13 4 5 6, .pairVVfmaF32 .plain (.mov 1 2) 4 (.v 5) (.v 6)), (pw 12 1 2 0 14 4 5 6, .pairVVminF32 .plain (.mov 1 2) 4 (.v 5) (.v 6)),
    (pw 12 1 2 0 15 4 5 6, .pairVVmaxF32 .plain (.mov 1 2) 4 (.v 5) (.v 6))] = true := by decide +kernel

theorem test_decode_memory : allRead [
    (lm 0x2C0 0 1 2 3 1, .ldf .plain .w4 true (.v 1) 2 3), (lm 0x2C5 0 1 2 0 (0x800 + 0x102), .ldfg .plain .w8 true (.v 1) 2 (.b 2)),
    (lm 0x302 0 1 2 3 0, .ldl .plain .w16 false (.v 1) 2 3), (lm 0x30B 0 1 2 0 5, .ldlg .plain .w32 false (.v 1) 2 (.v 5)),
    (lm 0x307 0 0x308 2 3 1, .stl .plain .w32 true .lx 2 3), (lm 0x30F 0 1 2 0 5, .stls .plain .w32 false (.row (.v 1)) 2 (.v 5)),
    (lm 0x2D0 0 1 2 (6 * 4 / 4) 4095, .lds .plain 6 (.v 1) 2 4095), (lm 0x2D1 0 0x308 2 0 7, .sts .plain .lx 2 7),
    (lm 0x2D2 0 0 2 0 7, .stsEos .plain 2 7), (lm 0x2D3 0 5 2 0 0, .sptrW .plain 5 2), (lm 0x2D3 0 5 2 0 1, .sptrR .plain 5 2),
    (lm 0x2D3 0 5 2 0 2, .sptrC .plain 5 2), (lm 0x2E0 0 1 2 3 0, .accAddI32 .plain (.row (.v 1)) 2 3),
    (lm 0x2E1 0 1 2 3 0, .accAddI64 .plain (.row (.v 1)) 2 3), (lm 0x2E2 3 1 2 3 0, .accAddAf .plain .i32 (.row (.v 1)) 2 3),
    (lm 0x2E3 0 1 2 3 0, .accMinI32 .plain (.row (.v 1)) 2 3), (lm 0x2E4 0 1 2 3 0, .accMaxI32 .plain (.row (.v 1)) 2 3),
    (lm 0x2E5 0 1 2 3 0, .accAnd .plain (.row (.v 1)) 2 3), (lm 0x2E6 0 1 2 3 0, .accOr .plain (.row (.v 1)) 2 3),
    (lm 0x2E7 0 1 2 3 0, .accXor .plain (.row (.v 1)) 2 3), (lm 0x310 0 1 2 3 0x800, .amoSwap .plain ⟨.rel, .strand, false, false⟩ 1 2 3),
    (lm 0x311 0 1 2 3 (3 * 2 ^ 7), .amoCas .plain ⟨.relaxed, .die, false, false⟩ 1 2 3),
    (lm 0x312 0 12 3 10 (3 * 2 ^ 10 + 3 * 2 ^ 7 + 2 ^ 6), .amoAdd .plain ⟨.ar, .die, true, false⟩ 12 3 10),
    (lm 0x313 0 1 2 3 (2 ^ 5), .amoMin .plain ⟨.relaxed, .strand, false, true⟩ 1 2 3),
    (lm 0x314 0 1 2 3 (2 ^ 10), .amoMax .plain ⟨.acq, .strand, false, false⟩ 1 2 3),
    (lm 0x315 0 1 2 3 (6 * 2 ^ 7), .amoAnd .plain ⟨.relaxed, .system, false, false⟩ 1 2 3),
    (lm 0x316 0 1 2 3 (2 ^ 6), .amoOr .plain ⟨.relaxed, .strand, true, false⟩ 1 2 3), (lm 0x320 0 0 2 28 0, .hbuild .plain 2 28),
    (ls 0x321 1 3 4 2, .hview .plain 1 2 3 4), (ls 0x322 5 0 0 (2 + 3 * 16), .hread .plain 5 2 3), (ls 0x330 0 0 0 6, .fenceFull .plain .system),
    (ls 0x330 0 0 0 (1 + 8), .fenceAcq .plain .core), (ls 0x330 0 0 0 (2 + 16), .fenceRel .plain .cluster),
    (ls 0x331 0 0 0 3, .afence .plain .die)] = true := by decide +kernel

theorem test_decode_engines : allRead [
    (lm 0x340 0 0x105 0 0 507, .bfree .plain 5 507), ([lp 0x341 0, 9 * 2 ^ 10 + 0x105], .bstFull .plain 5 9),
    ([lp 0x342 0, 9 * 2 ^ 10 + 0x105], .bstEmpty .plain 5 9), ([lp 0x343 0, 9 * 2 ^ 10 + 0x301], .bstPoison .plain (.o 1) 9),
    (lm 0x348 0 63 7 0 4095, .tokTake .plain 7 63 4095), (lm 0x349 0 63 7 0 0, .tokGive .plain 7 63),
    (lm 0x350 0 0x105 2 3 (3 * 4 / 4 + (8 + 5) * 2 ^ 3), .cpin .plain 3 5 2 3 (some 5) none),
    (lm 0x351 0 0x105 2 3 (1 + (8 + 6) * 2 ^ 7), .cpout .plain 1 5 2 3 none (some 6)), (lm 0x352 0 0 2 3 9, .cpwait .plain 2 3 9),
    (lm 0x353 0 5 2 0 0, .rdwptr .plain 5 2), (lm 0x354 0 5 3 0 9, .cqpop .plain 5 3 9), (li 0x380 0 0 0 256, .lease .plain 256),
    (li 0x380 1 0 0 65536, .leaseCyc .plain 65536), (ls 0x381 0 0 0 0, .unlease .plain), (ls 0x382 0 0 0 0, .mzero .plain),
    (lm 0x383 1 0x105 2 31 (2 * 2 ^ 8 + 3 * 2 ^ 4 + 6), .mma .plain .mx .e4m3 .e5m2 false true true 31 2 (.band 5)),
    (lm 0x384 0 0x105 2 0 (0 + 2 ^ 7 + 2 ^ 6 + 2 ^ 5), .mdrain .plain .dflt true true true 2 (some 5)), (lm 0x385 0 0 2 0 0, .msave .plain 2),
    (lm 0x386 0 0 2 0 0, .mrestore .plain 2), (lm 0x390 2 0x105 2 3 0x106, .saccAdd .plain .af 2 5 6 3),
    (lm 0x391 1 0x105 2 3 0x106, .saccMin .plain .i64 2 5 6 3), (lm 0x392 0 0x105 2 3 0x106, .saccMax .plain .i32 2 5 6 3),
    (lm 0x393 0 0x105 2 3 0x106, .saccAnd .plain .i32 2 5 6 3), (lm 0x394 0 0x105 2 3 0x106, .saccOr .plain .i32 2 5 6 3),
    (lm 0x395 0 0x105 2 3 0x106, .saccXor .plain .i32 2 5 6 3), (ls 0x3A0 0 0 0 9, .cbar .plain 9), (ls 0x3A1 0 5 0 0, .stitchEnd .plain 5)]
    = true := by decide +kernel

theorem test_decode_tasks : allRead [
    (lm 0x3C0 0 0 2 0 4095, .rgnParties .plain 2 4095), (lm 0x3C1 0 4 2 3 (1 * 2 ^ 10 + 2 ^ 9), .recastArrive .plain .stream true false 2 3 4),
    (lm 0x3C2 0 0 2 0 9, .recastWait .plain 2 9), (ls 0x3D0 0 1 2 23, .lrecPatch .plain 1 23 2), (ls 0x3D1 0 1 0 0, .lrecArm .plain 1),
    (ls 0x3D2 3 1 0 9, .lrecWait .plain 3 1 9), (ls 0x3D8 3 1 0 0, .jobCount .plain 3 1), (ls 0x3D9 0 1 0 9, .jobWait .plain 1 9),
    (ls 0x3E0 0 0 0 0, .sinval .plain), (lm 0x3F0 0 5 2 0 0, .reshard .plain 5 2), (ls 0x3F1 5 1 0 9, .cwait .plain 5 1 9)] = true := by
  decide +kernel

/-- Reserved encodings do not fall through to a neighbour (R57, R62, R84, R86, R87). -/
theorem test_decode_rejects :
    ([[0], sr 0x13 3 1 2, si 8 3 1 64, [lp 0x009 0, 0], lv 0x103 0 1 2 3, lv 0x100 0 1 0x309 3, lv 0x100 0 0x308 2 3, lc 0x040 0 6 4 3 0x321 0x322,
      lm 0x2D0 0 1 2 7 0, lm 0x340 0 0x105 0 0 0, li 0x380 2 0 0 1, ls 0x330 0 0 0 7, pw 0x0E 0 0 0 0 0 0 0, pw 0 0 0 0 1 4 0x29 0] :
      List (List Nat)).all (fun w => (decodeUnit w).toOption == none) = true := by decide +kernel
/-! ### Small machines -/

/-- Numbers of n bytes, written at places: (place, n, number). -/
def put (s : State) (l : List (Nat × Nat × Nat)) : State := l.foldl (fun s e => s.setNum e.1 e.2.1 e.2.2) s

/-- A translation of a space: die 0's first 16 GiB lie at the same places of its HBM, readable and writable. -/
def flat (sp : Space) : TlbEntry := { space := sp, psize := 3, leaf := 7 }

/-- Die 0: descriptors from 1 MiB, launch records from 2 MiB, flat translations of the four spaces. -/
def die0 : Die := { rgnBase := 0x100000, recBase := 0x200000, tlb := [flat .fixed, flat .stream, flat .accrue, flat .loose]
                    raf := [(0, fetchRaf), (32, fetchRaf), (64, fetchRaf), (96, fetchRaf)] }

/-- A running strand: code at 4 KiB, a handler at 0x1100, WLIM 64. -/
def strand0 (rs : List (Nat × Word)) (hs : List (Nat × HBits)) : Strand :=
  { phase := .running, codeBase := 0x1000, codeLen := 0x1000, pc := 0x1000, sregs := rs, handles := hs, thnd := 0x1100, wlim := 64 }

/-- A machine with one running strand on core 0, which owns every port, and numbers written to HBM. -/
def mach (rs : List (Nat × Word)) (hs : List (Nat × HBits)) (words : List (Nat × Nat × Nat)) : State :=
  put { State.reset with
    boot := { state := .running }
    strands := [(0, strand0 rs hs)]
    cores := [(0, { part := 0x000080, portmap := 0 })]
    dies := [(0, die0)] } words

/-- An instruction completes with this in s9. -/
def nine (s : State) (i : Instr) : Option Word :=
  match exec i s with
  | .next t => some (t.me.sget 9)
  | _ => none

/-- An instruction leaves a state of which q holds. -/
def leaves (i : Instr) (s : State) (q : State → Bool) : Bool :=
  match exec i s with
  | .next t => q t
  | _ => false

/-- A row of 32-bit elements. -/
def row32 (f : Nat → Nat) : PRow := ⟨rowOfElems 32 ((List.range 64).map f), false⟩

/-- Every instruction of a list gives element e of width w of v9 that code. -/
def gives (s : State) (w : Nat) (l : List (Instr × Nat × Nat)) : Bool :=
  l.all (fun e => leaves e.1 s (fun t => elem w (t.rowGet (.v 9)).bits e.2.1 == e.2.2))

/-- A translation or a fetch that leaves the machine as it is. -/
theorem same_ok {ε α : Type} {x : State × Except ε α} {s : State} {p : α} (h : x.1 = s) (k : x.2.toOption = some p) : x = (s, .ok p) := by
  obtain ⟨a, b⟩ := x
  cases b with
  | error e => cases k
  | ok v => cases h; cases k; rfl

/-! ### Scalar instructions -/

/-- s1 = 7, s2 = -3, s3 = -2^63, s4 = -1, s5 = 65, s0 = 0. -/
def sc : State := mach [(1, 7), (2, -3), (3, BitVec.intMin 64), (4, -1), (5, 65)] [] []

/-- R129, R130: quotients by 0 and of -2^63 by -1, high products, shift counts mod 64, signed and unsigned order. -/
theorem test_scalar_register :
    ([(.addSr .plain 9 1 2, 4), (.subSr .plain 9 1 2, 10), (.mulSr .plain 9 1 2, -21), (.mulhSr .plain 9 3 3, BitVec.ofNat 64 (2 ^ 62)),
      (.mulhuSr .plain 9 4 4, -2), (.divSr .plain 9 3 4, BitVec.intMin 64), (.divSr .plain 9 1 0, 0), (.divSr .plain 9 2 1, 0),
      (.divuSr .plain 9 4 5, BitVec.ofNat 64 ((2 ^ 64 - 1) / 65)), (.remSr .plain 9 3 4, 0), (.remSr .plain 9 1 0, 7),
      (.remSr .plain 9 2 1, -3), (.remuSr .plain 9 4 1, 1), (.andSr .plain 9 1 2, 5), (.orSr .plain 9 1 2, -1),
      (.xorSr .plain 9 1 2, -6), (.shlSr .plain 9 1 5, 14), (.shrSr .plain 9 4 5, BitVec.ofNat 64 (2 ^ 63 - 1)),
      (.sarSr .plain 9 3 5, BitVec.ofNat 64 (2 ^ 63 + 2 ^ 62)), (.minSr .plain 9 1 2, -3), (.maxSr .plain 9 1 2, 7),
      (.minuSr .plain 9 1 2, 7), (.maxuSr .plain 9 1 2, -3)] : List (Instr × Word)).all (fun e => nine sc e.1 == some e.2) = true := by
  decide +kernel

/-- An Arithmetic prefix with SAT. -/
def sat : Hdr := ⟨[.arith true false false], false, .none⟩

/-- R132: the long forms, and SAT clamps a sum, a difference, a product and a left shift. -/
theorem test_scalar_long :
    ([(.addLs sat 9 3 2, BitVec.intMin 64), (.addLs .plain 9 3 2, BitVec.ofNat 64 (2 ^ 63 - 3)), (.subLs sat 9 3 1, BitVec.intMin 64),
      (.mulLs sat 9 3 4, BitVec.ofNat 64 (2 ^ 63 - 1)), (.mulhLs .plain 9 3 4, 0), (.mulhuLs .plain 9 4 1, 6),
      (.divLs .plain 9 2 4, 3), (.divuLs .plain 9 1 0, 0), (.remLs .plain 9 2 0, -3), (.remuLs .plain 9 1 5, 7), (.andLs .plain 9 1 5, 1),
      (.orLs .plain 9 1 5, 71), (.xorLs .plain 9 1 5, 70), (.shlLs sat 9 2 4, BitVec.intMin 64), (.shlLs .plain 9 2 4, BitVec.intMin 64),
      (.shlLs sat 9 1 4, BitVec.ofNat 64 (2 ^ 63 - 1)), (.shrLs .plain 9 4 4, 1), (.sarLs .plain 9 3 4, -1), (.minLs .plain 9 3 4, BitVec.intMin 64),
      (.maxLs .plain 9 3 4, -1), (.minuLs .plain 9 3 4, BitVec.intMin 64), (.maxuLs .plain 9 3 4, -1)] : List (Instr × Word)).all
      (fun e => nine sc e.1 == some e.2) = true := by decide +kernel

/-- An Immediate extension of 1: the high bits above an immediate's own (R69). -/
def ext1 : Hdr := ⟨[.imm 1], false, .none⟩

/-- R69, R131, R133: immediates are sign-extended, or take the prefix's bits above their own; `movi`; s0 stays 0. -/
theorem test_scalar_immediate :
    ([(.addSi .plain 9 1 (-8), -1), (.subSi .plain 9 1 (-8), 15), (.andSi .plain 9 2 (-4), -4), (.orSi .plain 9 1 8, 15), (.xorSi .plain 9 1 (-1), -8),
      (.shlSi .plain 9 1 63, BitVec.intMin 64), (.shrSi .plain 9 4 63, 1), (.sarSi .plain 9 3 63, -1), (.moviSi .plain 9 0x2000, -8192),
      (.addLi ext1 9 1 0, 4194311), (.subLi .plain 9 1 1, 6), (.mulLi .plain 9 1 0x200000, -14680064), (.andLi .plain 9 2 1, 1),
      (.orLi .plain 9 1 (-16), -9), (.xorLi .plain 9 1 2, 5), (.shlLi sat 9 1 61, BitVec.ofNat 64 (2 ^ 63 - 1)), (.shrLi .plain 9 4 60, 15),
      (.sarLi .plain 9 2 1, -2), (.minLi .plain 9 1 (-1), -1), (.maxLi .plain 9 1 (-1), 7), (.minuLi .plain 9 1 (-1), 7),
      (.maxuLi .plain 9 1 (-1), -1), (.moviLi ext1 9 5, 4194309), (.moviSi .plain 0 5, 0)] : List (Instr × Word)).all
      (fun e => nine sc e.1 == some e.2 || e.1 == .moviSi .plain 0 5) = true ∧
    leaves (.moviSi .plain 0 5) sc (fun t => t.me.sget 0 == 0 && t.me.pc == 0x1004) = true := by decide +kernel

/-- O15 and O16: the guards of `sc` pass. -/
theorem wit_scalar : passes (.addSr .plain 9 1 2) sc ∧ passes (.divLs .plain 0 1 0) sc ∧ passes (.moviLi ext1 31 5) sc := by and_intros <;> decide +kernel

/-- R138: PD and PE, PE last; signed and unsigned; a float NaN is unordered; `.unc` under a false guard clears both. -/
theorem test_compares :
    ([(.cmp .plain .plain .lt 2 1 2 1, true, false), (.cmpu .plain .plain .lt 2 1 2 1, false, true), (.cmpi .plain .plain .eq 2 1 2 (-3), true, false),
      (.cmpui .plain .and .ge 2 1 1 7, false, false), (.cmpi .plain .or .eq 2 1 1 8, false, false), (.cmp .plain .plain .eq 1 1 1 1, false, false),
      (.fcmp .plain .plain .un 2 1 4 (.scal 1), true, false), (.fcmp .plain .plain .lt 2 1 0 (.imm 1), true, false)] :
      List (Instr × Bool × Bool)).all (fun e => leaves e.1 sc (fun t => (t.me.pget 1).u == e.2.1 && (t.me.pget 2).u == e.2.2)) = true ∧
    leaves (.cmp ⟨[], false, ⟨3, 0, 0, 0xF0⟩⟩ .unc .eq 2 1 1 1) (sc.setMe ((sc.me.pset 1 ⟨-1, true⟩).pset 2 ⟨-1, true⟩))
      (fun t => t.me.pget 1 == {} && t.me.pget 2 == {}) = true := by decide +kernel

/-- O17: the compare's guard passes, or does not. -/
theorem wit_compare : passes (.cmp .plain .plain .lt 2 1 2 1) sc ∧ ¬ passes (.cmp ⟨[], false, ⟨3, 0, 0, 0xF0⟩⟩ .unc .eq 2 1 1 1) sc ∧
    passes (.fcmp .plain .or .le 0 1 1 (.imm 511)) sc := by and_intros <;> decide +kernel

/-- s1 = 1.5, s2 = -inf, s3 = 0, s4 = NaN, s5 = 2^-149, s6 = 3. -/
def fl : State := mach [(1, 0x3FC00000), (2, 0xFF800000), (3, 0), (4, 0x7FC00001), (5, 1), (6, 0x40400000)] [] []

/-- R134-R137: results and the invalid and division flags of lane 0. -/
theorem test_floats :
    ([(.fadd .plain 9 1 1, 0x40400000, false, false), (.fsub .plain 9 2 2, 0x7FC00000, true, false), (.fmul .plain 9 3 2, 0x7FC00000, true, false),
      (.fdiv .plain 9 1 3, 0x7F800000, false, true), (.fsqrt .plain 9 2, 0x7FC00000, true, false), (.ffma .plain 9 1 6 1, 0x40C00000, false, false),
      (.fcvti .plain 9 1, 2, false, false), (.fcvtf .plain 9 3, 0, false, false), (.fmin .plain 9 4 1, 0x3FC00000, false, false),
      (.fmax .plain 9 1 2, 0x3FC00000, false, false), (.fabs .plain 9 2, 0x7F800000, false, false), (.fneg .plain 9 4, 0x7FC00000, false, false),
      (.fadd ⟨[.arith false true false], false, .none⟩ 9 5 3, 0, false, false)] :
      List (Instr × Word × Bool × Bool)).all (fun e => leaves e.1 fl (fun t =>
        t.me.sget 9 == e.2.1 && t.me.flnv.getLsbD 0 == e.2.2.1 && t.me.fldz.getLsbD 0 == e.2.2.2)) = true := by decide +kernel

/-- R25, R27: E2M1 has 1 and 1.5; from 1.25 RNE takes the even code, RNA the larger one, and RSR the larger one below a draw of
32768; INT8 bounds, and the half-way value -2.5. -/
theorem test_roundings :
    ((roundFloat .e2m1 {} (.fin true 5 (-2))).code = 0xA ∧ (roundFloat .e2m1 { mode := .rna } (.fin true 5 (-2))).code = 0xB ∧
      (roundFloat .e2m1 { mode := .rsr, draw := 32767 } (.fin true 5 (-2))).code = 0xB ∧
      (roundFloat .e2m1 { mode := .rsr, draw := 32768 } (.fin true 5 (-2))).code = 0xA) ∧
    (roundToInt .int8 {} (.fin false 1 7) = ⟨127, nvFlag, false⟩ ∧ roundToInt .int8 {} (.fin true 5 (-1)) = ⟨254, { nx := true }, false⟩ ∧
      roundToInt .int8 { mode := .rna } (.fin true 5 (-1)) = ⟨253, { nx := true }, false⟩ ∧ roundToInt .int8 {} (.nan true) = ⟨0, nvFlag, true⟩) ∧
    (roundFloat .fp32 {} (divVal (.fin false 1 0) (.fin false 3 0)).1).code = 0x3EAAAAAB ∧
    (roundFloat .fp32 {} (sqrtVal (.fin false 2 0)).1).code = 0x3FB504F3 ∧
    (roundFloat .fp32 {} (rsqrtVal (.fin false 2 0)).1).code = 0x3F3504F3 := by decide +kernel

/-- R26, R30: 464 lies half-way between E4M3's largest value 448 and 480; FP16 overflows by mode; 2^-15 is subnormal in FP16. -/
theorem test_edges :
    roundFloat .e4m3 {} (.fin true 464 0) = ⟨0xFE, { nx := true }, false⟩ ∧ roundFloat .e4m3 {} (.fin false 465 0) = ⟨0x7E, { ov := true, nx := true }, false⟩ ∧
    roundFloat .fp16 { mode := .rdn } (.fin false 1 20) = ⟨0x7BFF, { ov := true, nx := true }, false⟩ ∧
    roundFloat .fp16 { mode := .rdn } (.fin true 1 20) = ⟨0xFC00, { ov := true, nx := true }, false⟩ ∧
    roundFloat .fp16 { ftz := true } (.fin true 1 (-15)) = ⟨0x8000, { uf := true, nx := true }, false⟩ := by decide +kernel

/-- O19: 65520 overflows FP16 and 65505 does not; a format without infinity; a value below FP16's least normal one under FTZ. -/
theorem wit_edges :
    (let top := (decodeFmt .fp16 (maxCode .fp16)).1.rat
     let half := (top + (2 * top - (decodeFmt .fp16 (maxCode .fp16 - 1)).1.rat)) / 2
     top < gap 0 (FVal.fin false 65520 0).rat ∧ half = gap 0 (FVal.fin false 65520 0).rat ∧ maxCode .fp16 % 2 = 1 ∧
      top < gap 0 (FVal.fin false 65505 0).rat ∧ gap 0 (FVal.fin false 65505 0).rat < half) ∧
    (isFloatFmt .fp16 = true ∧ isFloatFmt .e4m3 = true ∧ (FVal.nan true).finite = false ∧ (FVal.fin false 1 (-15)).finite = true ∧
      gap 0 (FVal.fin false 1 (-15)).rat < (2 : Rat) ^ (-14 : Int) ∧ (RCtx.ftz { ftz := true } = true)) := by and_intros <;> decide +kernel

/-- The values of E2M1 are those of its 16 codes. -/
theorem small_codes (p : FVal → Bool) (h : ∀ n < 16, p (decodeFmt .e2m1 n).1 = true) (n : Nat) : p (decodeFmt .e2m1 n).1 = true := by
  have : decodeFmt .e2m1 n = decodeFmt .e2m1 (n % 16) := by
    simp only [decodeFmt, codeBits, Fmt.width, Nat.mod_mod, show (2 : Nat) ^ 4 = 16 from rfl]
    rfl
  rw [this]
  exact h _ (Nat.mod_lt _ (by decide))

/-- O18 and O19: a guard that passes; sums with a NaN, with both infinities, of zeros; a value within the largest FP32; one half-way
between neighbours of E2M1, -0 among its values, a value that INT8 holds and one beyond it; quotients and roots of each kind. -/
theorem wit_floats : passes (.fadd .plain 9 1 1) fl ∧ passes (.fmin .plain 9 4 1) fl ∧ (FVal.fin false 3 (-1)).finite = true ∧
    isFloatFmt .fp32 = true ∧ (RCtx.ftz {} = false) ∧
    gap 0 (FVal.fin true 1 (-150)).rat ≤ (decodeFmt .fp32 (maxCode .fp32)).1.rat ∧
    (let v := FVal.fin true 5 (-2)
     gap 0 v.rat ≤ (decodeFmt .e2m1 (maxCode .e2m1)).1.rat ∧ (decodeFmt .e2m1 2).1.rat = 1 ∧ (decodeFmt .e2m1 3).1.rat = 3 / 2 ∧
      (1 : Rat) < gap 0 v.rat ∧ gap 0 v.rat < 3 / 2 ∧ gap (-1) v.rat = gap (-3 / 2) v.rat ∧
      (∀ n, (decodeFmt .e2m1 n).1.rat ≤ 1 ∨ 3 / 2 ≤ (decodeFmt .e2m1 n).1.rat) ∧ (decodeFmt .e2m1 8).1.rat = 0) ∧
    (isIntFmt .int8 = true ∧ gap (((-2 : Int) : Rat)) (FVal.fin true 5 (-1)).rat = 1 / 2 ∧ (FVal.fin true 5 (-1)).finite = true) ∧
    ((∃ t ∈ [FVal.nan true, .fin false 1 0], t.isNaN = true) ∧ FVal.inf true ∈ [FVal.inf false, .inf true] ∧
      (∀ t ∈ [FVal.fin true 0 3, .fin true 0 0], t.finite = true) ∧ (FVal.fin true 0 3).rat = 0) ∧
    ((FVal.fin true 3 1).finite = true ∧ (FVal.fin true 3 1).isZero = false ∧ (FVal.fin true 0 1).isZero = true ∧ (FVal.inf true).isInf = true ∧
      (FVal.fin true 3 1).sign = true ∧ (FVal.fin false 3 1).sign = false) := by
  refine ⟨by decide +kernel, by decide +kernel, by decide +kernel, (by decide +kernel), by decide +kernel, by decide +kernel,
    ⟨by decide +kernel, by decide +kernel, by decide +kernel, (by decide +kernel), by decide +kernel, by decide +kernel, fun n => ?_, by decide +kernel⟩, ?_⟩
  · have := small_codes (fun v => decide (v.rat ≤ 1 ∨ 3 / 2 ≤ v.rat)) (by decide +kernel) n
    exact of_decide_eq_true this
  · and_intros <;> decide +kernel

/-- R139-R142: predicates and features. -/
theorem test_predicates :
    let s := sc.setMe ((sc.me.pset 1 ⟨0xF0, true⟩).pset 2 ⟨0xCC, false⟩)
    leaves (.pcomb .plain 3 1 2 0 0x80) s (fun t => t.me.pget 3 == ⟨0xC0, false⟩) = true ∧
    leaves (.pset .plain 0 1) s (fun t => t.me.pget 0 == ⟨-1, true⟩) = true ∧
    leaves (.pset .plain 4 2) s (fun t => t.me.pget 4 == ⟨-3, true⟩) = true ∧
    leaves (.plive .plain 0xFF) s (fun t => t.me.plive == 0xFE) = true ∧
    ([(.pcount .plain 9 1, 4), (.pfirst .plain 9 1, 4), (.pfirst .plain 9 5, 64), (.pget .plain 9 2, 0xCC), (.feat .plain 9 2, 0x7FF),
      (.feat .plain 9 6, 0)] : List (Instr × Word)).all (fun e => nine s e.1 == some e.2) = true := by decide +kernel

/-- O20 and O21: the guards pass. -/
theorem wit_predicates : passes (.pcomb .plain 3 1 2 0 0x80) sc ∧ passes (.pset .plain 4 2) sc ∧ passes (.feat .plain 9 2) sc := by and_intros <;> decide +kernel

/-! ### Special registers, guards, traps and control -/

/-- R101, R143, R144: WLIM's bound, a STATUS write keeps the read-only bits, a THND write in user mode raises PRIV (7). -/
theorem test_special :
    leaves (.sysw .plain .wlim 4) sc (fun t => t.me.wlim == 65536) = true ∧
    leaves (.sysw .plain .status 4) sc (fun t => t.me.strict && !t.me.mode && !t.me.inh) = true ∧
    leaves (.sysw .plain .thnd 4) sc (fun t => t.me.tcause == 7 && t.me.inh && t.me.pc == 0x1100 && t.me.tpc == 0x1000) = true ∧
    leaves (.sysw .plain .part 4) (sc.setMe { sc.me with mode := true }) (fun t => t.kore.partNext == some 0xFFFFFF && t.kore.part == 0x80) = true ∧
    nine sc (.sysr .plain 9 .wstat) = some 1 ∧ nine sc (.sysr .plain 9 .thnd) = some 0x1100 := by decide +kernel

/-- O22 and O23: reads of a register that depends on timing in a pure task and elsewhere, and writes of open and privileged
registers. -/
theorem wit_special : (sc.me.pure = false ∨ timingReg .cycle = false) ∧
    (let s := sc.setMe { sc.me with pure := true }
     s.me.pure = true ∧ timingReg .cycle = true ∧ passes (.sysr .plain 9 .cycle) s) ∧
    (sc.me.spilld < 2 ^ 32 ∧ sc.me.depth < 2 ^ 16 ∧ sc.me.res < 2 ^ 16) ∧
    (passes (.sysw .plain .wlim 4) sc ∧ ((Instr.sysw .plain .wlim 4).privileged = true → sc.me.mode = true) ∧
      ¬ (sc.me.pure = true ∧ SysReg.wlim = .srkey)) ∧
    (let s := sc.setMe { sc.me with mode := true, sregs := [(4, 127)] }
     passes (.sysw .plain .vwb 4) s ∧ ((Instr.sysw .plain .vwb 4).privileged = true → s.me.mode = true) ∧
      s.pb ≤ (s.sget 4).toNat % 2048 ∧ (s.sget 4).toNat % 2048 < s.pb + s.ps ∧ s.pb + s.ps ≤ 2048) ∧
    tableWf {} sc.kore.tok = true := by and_intros <;> decide +kernel

/-- R66, R133, R296: a false guard, `nop` and the fences only move on. -/
theorem test_nothing :
    ([.addSr ⟨[], false, ⟨3, 0, 0, 0xF0⟩⟩ 1 1 1, .nop .plain, .fenceFull .plain .package, .fenceAcq .plain .die, .fenceRel .plain .system,
      .afence .plain .package] : List Instr).all (fun i => leaves i sc (fun t =>
        t == { sc.setMe { sc.me with pc := past i sc } with cycle := 1 })) = true := by decide +kernel

/-- O10 and O24: a uniform instruction and a per-lane one with nothing enabled, and a strand that owns its ports. -/
theorem wit_guards :
    (let i : Instr := .addSr ⟨[], false, ⟨3, 0, 0, 0xF0⟩⟩ 1 1 1
     i.hdr.isSome = true ∧ i.laned = false ∧ i.paired = false ∧ i.uncompare = false ∧ i.privileged = false ∧ ¬ passes i sc) ∧
    (let i : Instr := .amoAdd ⟨[], false, ⟨3, 0, 0, 0xF0⟩⟩ ⟨.relaxed, .die, true, false⟩ 1 0 1
     i.laned = false ∧ owns sc .w ∧ ¬ passes i sc) ∧
    (let i : Instr := .vmov ⟨[], false, ⟨3, 0, 0, 0xF0⟩⟩ 0 (.v 0) .lx
     i.laned = true ∧ i.uncompare = false ∧ owns sc .x ∧ lanesOf i sc = 0) ∧
    passes (.nop .plain) sc ∧ owns sc .w := by
  refine ⟨?_, ?_, ?_, ?_, ?_⟩ <;> (try unfold lanesOf) <;> decide +kernel

/-- R114, R127, R128: `trap` enters the handler, `eret` returns, and ends with ILL outside a handler. -/
theorem test_trap :
    leaves (.trap .plain 0xABC) sc (fun t => t.me.tcause == 0x15 && t.me.tval == 0xABC && t.me.tpc == 0x1000 && t.me.pc == 0x1100 && t.me.inh) = true ∧
    leaves (.eret .plain) (sc.setMe { sc.me with inh := true, tpc := 0x1234 }) (fun t => t.me.pc == 0x1234 && !t.me.inh) = true ∧
    leaves (.eret .plain) sc (fun t => t.me.tcause == 1 && t.me.inh) = true ∧
    (match step { put sc [(0x1000, 8, (Pfx.arith true false false).encode + 2 ^ 32 * (encode (.eret .plain)).headD 0)] with agenda := [.strand 0] } with
     | .next t => t.me.tcause == 1 && t.me.inh
     | _ => false) = true := by and_intros <;> decide +kernel

/-- A machine whose strand 0 runs a stitch of record 1 of die 0, the record Running at 2 MiB + 256. -/
def launched : State := put { mach [(1, 7)] [] [(0x200100, 8, 4)] with
  cores := [(0, { part := 0x000080, portmap := 0, stitch := some { id := ⟨0, 1, 1⟩ } })]
  dies := [(0, { die0 with recx := [(1, { launch := 1 })] })] } []

/-- O11 to O14: a strand with a handler and one without, a record under way, the states of `eret` and of `trap`, a privileged
form in user mode, a port of another strand. -/
theorem wit_traps :
    (systemClass 0x15 = false ∧ handles (sc.strand 0)) ∧
    (let s := launched.setMe { launched.me with thnd := 0 }
     ¬ handles (s.strand 0) ∧ (s.core 0).stitch.isSome = true ∧ (s.recx 0 1).launch = 1 ∧ s.recState 0 1 = 4 ∧
      bit (s.recWord 0 1 0x20) 63 = false) ∧
    (systemClass 0x12 = true ∧ launched.recState 0 1 = 4) ∧
    (let s := sc.setMe { sc.me with inh := true, tpc := 0x1234 }
     s.me.inh = true ∧ passes (.eret .plain) s ∧ s.me.tpc.toNat % 4 = 0) ∧
    (let s := sc.setMe { sc.me with inh := true, tpc := 0x1235 }
     s.me.inh = true ∧ passes (.eret .plain) s ∧ s.me.tpc.toNat % 4 ≠ 0) ∧
    sc.me.inh = false ∧ passes (.trap .plain 0xABC) sc ∧
    ((Instr.sysw .plain .thnd 4).privileged = true ∧ sc.me.mode = false) ∧
    (let s := sc.setKore { sc.kore with portmap := 0x55 }
     (Instr.vmov .plain 0 (.v 0) .lx).port = some .x ∧ ¬ owns s .x ∧ issuesIll (.vmov .plain 0 (.v 0) .lx) s.me = false ∧
      (let i : Instr := .ldl .plain .w32 false (.v 0) 9 1
       i.port = some .m ∧ ¬ owns s .m ∧ s.me.hget 9 = 0 ∧ lanesOf i s ≠ 0 ∧ issuesIll i s.me = true) ∧
      (let i : Instr := .lds .plain 1 (.v 0) 9 0
       i.port = some .m ∧ passes i s ∧ issuesIll i s.me = true)) := by and_intros <;> decide +kernel

/-! ### Fetch and control -/

/-- A `nop` with T = 1 at the pc and at 0x1010, one with T = 0 at 0x1020; s1 = 0x1010, s2 = 1, s3 = 2, s4 = 0x1020, s5 = 0x1002. -/
def ct : State := mach [(1, 0x1010), (2, 1), (3, 2), (4, 0x1020), (5, 0x1002)] [] [(0x1000, 4, 0xC), (0x1010, 4, 0xC), (0x1020, 4, 8)]

theorem ct_lands : lands ct 0x1010 ∧ lands ct 0x2000 :=
  ⟨⟨by decide +kernel, fun _ => ⟨0xC, same_ok (by decide +kernel) (by decide +kernel), by decide, by decide⟩⟩,
    ⟨by decide +kernel, fun h => absurd h (by decide +kernel)⟩⟩

/-- R122-R125, R192: taken, not taken, ALIGN (5) and LANDING (4). -/
theorem test_transfers :
    ([(.brSj .plain 4, 0x1010), (.brLb .plain 4, 0x1010), (.jr .plain 1, 0x1010), (.loop .plain 2 4, 0x1008), (.loop .plain 3 4, 0x1010),
      (.bstFull .plain 511 4, 0x1008), (.bstEmpty .plain 511 4, 0x1010), (.bstPoison .plain (.v 0) 4, 0x1008)] : List (Instr × Word)).all
      (fun e => leaves e.1 ct (fun t => t.me.pc == e.2)) = true ∧
    leaves (.jr .plain 5) ct (fun t => t.me.tcause == 5 && t.me.tval == 0x1002) = true ∧
    leaves (.jr .plain 4) ct (fun t => t.me.tcause == 4 && t.me.tval == 0x1020 && t.me.tpc == 0x1000) = true := by decide +kernel

/-- O25: targets that land, a band row full, a poisoned row, a target that stumbles and one that is misaligned. -/
theorem wit_transfers :
    (passes (.brSj .plain 4) ct ∧ ct.me.pc + BitVec.ofInt 64 (4 * (4 : BitVec 24).toInt) = 0x1010 ∧ lands ct 0x1010) ∧
    (ct.sget 2 - 1 = 0 ∧ ct.sget 3 - 1 ≠ 0 ∧ ct.sget 0 - 1 ≠ 0) ∧
    (let s := ct.setKore { ct.kore with full := 1#512 <<< 511 }
     s.me.pure = false ∧ passes (.bstFull .plain 511 4) s ∧ s.kore.isFull (511 : BitVec 9).toNat = true ∧ s.kore.isFull 0 = false) ∧
    (let s := ct.rowSet (.v 0) ⟨0, true⟩
     passes (.bstPoison .plain (.v 0) 4) s ∧ (s.rowGet (.v 0)).poison = true ∧ (s.rowGet (.o 7)).poison = false) ∧
    ((0x1002 : Word).toNat % 4 ≠ 0 ∧ (0x1002 : Word) = ct.sget 5) ∧
    (stumbles ct 0x1020 ∧ (0x1020 : Word) = ct.sget 4) := by
  refine ⟨⟨by decide +kernel, by decide +kernel, ct_lands.1⟩, by decide +kernel, by decide +kernel, by decide +kernel, by decide +kernel,
    ⟨by decide +kernel, by decide +kernel, 8, same_ok (by decide +kernel) (by decide +kernel), .inr (by decide)⟩, by decide +kernel⟩

/-- R108, R109: a call of frame 2 writes the link word, and `ret` undoes it; with DEPTH 0 it raises WINDOW (8), sub-code 4. -/
theorem test_calls :
    (match exec (.call .plain 4 2) ct with
     | .next t => t.me.pc == 0x1010 && t.me.depth == 1 && t.me.voff == 32 && t.sget 16 == 0x0800000000001008 &&
        leaves (.ret .plain) t (fun r => r.me.pc == 0x1008 && r.me.depth == 0 && r.me.voff == 0 && r.me.swb == 0)
     | _ => false) = true ∧
    leaves (.callr .plain 1 0) ct (fun t => t.me.pc == 0x1010 && t.sget 17 == 0) = true ∧
    leaves (.ret .plain) ct (fun t => t.me.tcause == 0x0408 && t.me.tval == 4) = true := by decide +kernel

/-- An answer that succeeds with a state of which q holds. -/
theorem ok_of {ε : Type} {x : Except ε State} {q : State → Bool} (h : x.toOption.any q = true) : ∃ t, x = .ok t ∧ q t = true := by
  cases x with
  | error e => cases h
  | ok t => exact ⟨t, rfl, h⟩

/-- With the flat translations an address below 16 GiB lies at its own place. -/
theorem flat_placed {s : State} {sp : Space} (hs : (s.die 0).tlb = die0.tlb ∧ (s.die 0).raf = die0.raf) (n : Nat) (h : n < 2 ^ 34) (need : Need) :
    placed s sp (BitVec.ofNat 56 n) need n := by
  have ht : (BitVec.ofNat 56 n).toNat = n := by rw [BitVec.toNat_ofNat]; omega
  have hd : vaDie (BitVec.ofNat 56 n) = 0 := by simp only [vaDie, bits, ht]; omega
  have hh : homeOf (BitVec.ofNat 56 n) = 0 := by rw [homeOf, hd]; rfl
  have hp : pageOf 3 (BitVec.ofNat 56 n) = 0 := by
    rw [pageOf, ht]
    have : n / 2 ^ pageBits 3 = 0 := Nat.div_eq_of_lt h
    rw [this]; rfl
  have hf : tlbFind false sp (BitVec.ofNat 56 n) die0.tlb = some (flat sp) := by
    cases sp <;> simp [die0, tlbFind, flat, hp]
  have hx : leafPlace (BitVec.ofNat 56 n) 3 7 need = .ok n := by
    have h1 : vaOff (BitVec.ofNat 56 n) % 2 ^ pageBits 3 = n := by
      simp only [vaOff, bits, ht, pageBits]; omega
    rw [leafPlace, h1, hd, hh]
    have h2 : n < hbmSize := Nat.lt_of_lt_of_le h (by decide)
    simp [bit, bits, hbmKey, h2]
    omega
  have hb : (vaDie (BitVec.ofNat 56 n) == 31) = false := by rw [hd]; rfl
  have hr : rafOf s sp (BitVec.ofNat 56 n) = fetchRaf := by
    have h0 : bits (vaOff (BitVec.ofNat 56 n)) 46 5 = 0 := by simp only [vaOff, bits, ht]; omega
    have h31 : vaDie (BitVec.ofNat 56 n) ≠ 31 := by rw [hd]; decide
    simp only [rafOf, hh, hs.2, if_neg h31, h0]
    cases sp <;> rfl
  have hk : reachable s (.ok n) = .ok n := by
    have : ¬ hostKey 0 ≤ n := Nat.not_le.mpr (Nat.lt_of_lt_of_le h (by decide))
    simp [reachable, this]
  have hv : bit (fetchRaf).toNat 63 = true := by decide
  unfold placed Machine.translate
  simp only [hb, hh, hs.1, hf, hr, hv, Bool.not_true, Bool.false_eq_true, if_false]
  exact congrArg (Prod.mk s) ((congrArg (reachable s) hx).trans hk)

/-- So chunks of 128 bytes are open, where nothing holds their pages. -/
theorem chunks_open {s : State} {need : Need} {va : BitVec 56} {n : Nat} (lo : Nat) (hv : va = BitVec.ofNat 56 lo)
    (hs : (s.die 0).tlb = die0.tlb ∧ (s.die 0).raf = die0.raf) (hi : lo + 128 * n ≤ 2 ^ 34)
    (he : ∀ j, j < n → migHolds s (va + BitVec.ofNat 56 (128 * j)) = false ∧
      pendingPage s .loose (pageAt s .loose (va + BitVec.ofNat 56 (128 * j))) = false) : chunksOpen s need va n := by
  refine fun j hj => ⟨⟨lo + 128 * j, ?_⟩, he j hj⟩
  have := flat_placed (sp := .loose) hs (lo + 128 * j) (by omega) need
  rwa [BitVec.ofNat_add, ← hv] at this

/-- Eight frames are resident, so a call spills one to 4 MiB. -/
def eight : State := ct.setMe { ct.me with depth := 7, res := 8, spillSize := 1, spillBase := 0x400000 }

/-- O26: a call with nothing to spill, a call that spills a frame, a return, and a return whose caller's frame is refilled. -/
theorem wit_calls :
    (passes (.call .plain 4 32) ct ∧ ct.me.depth < 65535 ∧ 16 * 32 + 256 ≤ ct.ps ∧ lands ct (ct.me.pc + BitVec.ofInt 64 (4 * 4)) ∧
      spillList ct.me ct.ps (ct.me.voff + 16 * 32 + 256) (ct.me.res - 1) 0 ct.me.rb = [] ∧
      ct.me.spilld + 0 ≤ ct.me.spillSize.toNat * 65536 ∧ ct.me.voff + 16 * 32 + 256 - ct.me.rb ≤ ct.ps ∧ ct.me.res + 1 ≤ 8) ∧
    (let fs := spillList eight.me eight.ps (eight.me.voff + 256) (eight.me.res - 1) 0 eight.me.rb
     let bytes := (fs.map (fun f => f * 256 + 128)).sum
     fs ≠ [] ∧ eight.me.spilld + bytes ≤ eight.me.spillSize.toNat * 65536 ∧ 0 < bytes / 128 ∧
      chunksOpen eight { wr := true } (eight.me.spillBase + BitVec.ofNat 56 eight.me.spilld) (bytes / 128)) ∧
    (let s := eight.setMe { eight.me with sregs := [(16, 0x0400000000001010)] }
     passes (.ret .plain) s ∧ s.me.depth ≠ 0 ∧ bits (s.sget 16).toNat 58 6 ≤ 32 ∧ bits (s.sget 16).toNat 56 2 = 0 ∧ (s.sget 16).toNat % 4 = 0 ∧
      s.me.res ≠ 1) ∧
    (let s := eight.setMe { eight.me with res := 1, spilld := 4224, sregs := [(16, 0x0400000000001010)] }
     s.me.res = 1 ∧ 256 * (16 * 1) + 128 ≤ s.me.spilld ∧ 16 * 1 ≤ s.ps ∧
      chunksOpen s { rd := true } (s.me.spillBase + BitVec.ofNat 56 (s.me.spilld - (256 * (16 * 1) + 128))) (2 * (16 * 1) + 1)) := by
  refine ⟨⟨by decide +kernel, by decide +kernel, by decide +kernel, ?_, by decide +kernel, by decide +kernel, by decide +kernel, by decide +kernel⟩,
    ⟨by decide +kernel, by decide +kernel, by decide +kernel, chunks_open 0x400000 (by decide +kernel) ⟨rfl, rfl⟩ (by decide +kernel) (by decide +kernel)⟩,
    by decide +kernel, by decide +kernel, by decide +kernel, by decide +kernel,
    chunks_open 0x400000 (by decide +kernel) ⟨rfl, rfl⟩ (by decide +kernel) (by decide +kernel)⟩
  exact (by decide +kernel : ct.me.pc + BitVec.ofInt 64 (4 * 4) = 0x1010) ▸ ct_lands.1

/-- O27: the deepest window, a frame larger than the partition, a spill stack that is full, one whose space is not valid, the
bottom, link words that are no window's or odd, a frame that is not on the stack and one that cannot be read. -/
theorem wit_windows :
    let none' (s : State) : State := s.setDie 0 { s.die 0 with raf := [(0, fetchRaf)] }
    (let s := ct.setMe { ct.me with depth := 65535 }
     passes (.call .plain 4 0) s ∧ s.me.depth = 65535) ∧
    (let s := ct.setKore { ct.kore with part := 1 }
     s.me.depth ≠ 65535 ∧ s.ps < 16 * 0 + 256) ∧
    (let s := eight.setMe { eight.me with spillSize := 0 }
     let fs := spillList s.me s.ps (s.me.voff + 256) (s.me.res - 1) 0 s.me.rb
     s.me.depth ≠ 65535 ∧ 16 * 0 + 256 ≤ s.ps ∧ s.me.spillSize.toNat * 65536 < s.me.spilld + (fs.map (fun f => f * 256 + 128)).sum) ∧
    (let s := none' eight
     let fs := spillList s.me s.ps (s.me.voff + 256) (s.me.res - 1) 0 s.me.rb
     s.me.spilld + (fs.map (fun f => f * 256 + 128)).sum ≤ s.me.spillSize.toNat * 65536 ∧ fs ≠ [] ∧ spillFrames s [] = .ok s ∧
      chunksFail s { wr := true } (s.me.spillBase + BitVec.ofNat 56 s.me.spilld) (2 * fs.headD 0 + 1)) ∧
    (passes (.ret .plain) ct ∧ ct.me.depth = 0) ∧
    (let link (w : Word) : State := eight.setMe { eight.me with res := 1, spilld := 4224, sregs := [(16, w)] }
     (link 0).me.depth ≠ 0 ∧ 32 < bits ((link 0x8400000000001010).sget 16).toNat 58 6 ∧ bits ((link 0x0100000000001010).sget 16).toNat 56 2 ≠ 0 ∧
      (bits ((link 0x0000000000001011).sget 16).toNat 58 6 ≤ 32 ∧ ((link 0x0000000000001011).sget 16).toNat % 4 ≠ 0) ∧
      (link 0x0800000000001010).me.spilld < 256 * (16 * bits ((link 0x0800000000001010).sget 16).toNat 58 6) + 128 ∧
      (let s := none' (link 0x0400000000001010)
       s.me.res = 1 ∧ ¬ s.me.spilld < 256 * 16 + 128 ∧
        chunksFail s { rd := true } (s.me.spillBase + BitVec.ofNat 56 (s.me.spilld - (256 * 16 + 128))) (2 * 16 + 1))) := by
  refine ⟨by decide +kernel, by decide +kernel, by decide +kernel, ⟨by decide +kernel, by decide +kernel, rfl, 0, by decide, fun i h => absurd h (by omega),
    .inl (by decide +kernel)⟩, by decide +kernel, by decide +kernel, by decide +kernel, (by decide +kernel), by decide +kernel, by decide +kernel,
    by decide +kernel, (by decide +kernel), 0, by decide, fun i h => absurd h (by omega), .inl (by decide +kernel)⟩

/-- O5 and O6: the `nop` at the pc is fetched, and lies where the code translation says. -/
theorem wit_fetch :
    let s := { ct with agenda := [.strand 0] }
    strandReady s 0 = true ∧ (s.core (coreOf 0)).stopReq = false ∧ (Instr.nop ⟨[], true, .none⟩).wf = true ∧
    (∃ s' ps, fetchUnit { s with agenda := [], cur := 0 } = (s', .ok ps)) ∧ encode (.nop ⟨[], true, .none⟩) = [0xC] ∧
    inCode (s.strand 0) ((s.strand 0).pc.toNat + 4 * 0) = true ∧
    placed s .fixed (BitVec.ofNat 56 ((s.strand 0).pc.toNat + 4 * 0)) { rd := true } 0x1000 ∧ s.num 0x1000 4 = 0xC ∧
    migHolds s (BitVec.ofNat 56 ((s.strand 0).pc.toNat + 4 * 0)) = false ∧
    (let ps := (Pfx.arith true false false).encode :: encode (.eret .plain)
     (match decodeUnit ps with | .error (.pfxkind _) => true | _ => false) = true ∧ (decodeUnit (afterPrefixes ps)).toOption = some (.eret .plain)) ∧
    Instr.isEvent (.accrueEntryPerform 0) = true := by
  refine ⟨by decide +kernel, by decide +kernel, by decide +kernel, ⟨_, _, same_ok (p := [0xC]) rfl (by decide +kernel)⟩, ?_⟩
  and_intros <;> (try unfold placed) <;> decide +kernel

/-- A privileged strand with 16 rows, s1 = 4 MiB. -/
def pv : State := ((mach [(1, 0x400000), (2, 0x400001)] [] []).setKore { part := 1 }).setMe
  { (mach [(1, 0x400000), (2, 0x400001)] [] []).me with mode := true }

/-- R117, R145, R146: the header of a save area has version 1, PLIVE and the partition in bits [31:24]; a misaligned address
raises ALIGN, an area without a header WINDOW, sub-code 8. -/
theorem test_contexts :
    ((saveRows pv 0 0x1008).headD {}).bits.toNat % 2 ^ 32 = 0x0100FE01 ∧
    leaves (.ctxsave .plain 2) pv (fun t => t.me.tcause == 5 && t.me.tval == 0x400001) = true ∧
    leaves (.ctxrestore .plain 1) pv (fun t => t.me.tcause == 0x0808 && t.me.tval == 8) = true ∧
    (let x := restoreStrand {} pv.ps (saveRows pv 0 0x100A)
     x.pc = 0x1008 ∧ x.sget 1 = 0x400000 ∧ x.thnd = 0x1100 ∧ x.wlim = 64 ∧ x.plive = 0xFE) := by decide +kernel

/-- O28: a save area on present pages, one that fits its reader, one that does not, and the bounds of the round trip. -/
theorem wit_contexts :
    (passes (.ctxsave .plain 1) pv ∧ pv.me.mode = true ∧ (pv.sget 1).toNat % 256 = 0 ∧ (pv.sget 2).toNat % 256 ≠ 0) ∧
    (∀ j, j < 32 + pv.ps → placed pv .loose (0x400000 + BitVec.ofNat 56 (256 * j)) { wr := true } (0x400000 + 256 * j) ∧
      placed pv .loose (0x400000 + BitVec.ofNat 56 (256 * j)) { rd := true } (0x400000 + 256 * j) ∧
      pendingPage pv .loose (pageAt pv .loose (0x400000 + BitVec.ofNat 56 (256 * j))) = false ∧
      migHolds pv (0x400000 + BitVec.ofNat 56 (256 * j)) = false) ∧
    headerFits pv.ps ((List.range (32 + pv.ps)).map (fun j => pv.rowAt (0x400000 + 256 * j))) = false ∧
    (let s := put pv [(0x400000, 4, 0x01000001)]
     headerFits s.ps ((List.range (32 + s.ps)).map (fun j => s.rowAt (0x400000 + 256 * j))) = true) ∧
    (pv.me.absent = [] ∧ pv.me.saved = 0 ∧ 0 < pv.ps ∧ pv.ps ≤ 2048 ∧ 0 ≤ (pv.me.voff : Int) - pv.me.rb ∧ (pv.me.voff : Int) - pv.me.rb < pv.ps) ∧
    (pv.me.wlim ≤ 65536 ∧ pv.me.res < 16 ∧ pv.me.depth < 2 ^ 16 ∧ pv.me.spilld < 2 ^ 32) := by
  and_intros <;> (try unfold placed) <;> decide +kernel

/-! ### Vectors -/

/-- v1: lane l holds l, but lane 63 -2^31; v2: -1; v3: 1.5; v4: 1; v5: -inf; s1 = 5, s2 = the code of v1, s3 = 0x309. -/
def vec : State := [((1 : BitVec 8), fun l => if l = 63 then 2 ^ 31 else l), (2, fun _ => 2 ^ 32 - 1), (3, fun _ => 0x3FC00000), (4, fun _ => 1),
  (5, fun _ => 0xFF800000)].foldl (fun s e => s.rowSet (.v e.1) (row32 e.2)) (mach [(1, 5), (2, 1), (3, 0x309)] [] [])

/-- R152, R155: wraps, SAT, shifts by the width or more. -/
theorem test_vector_integer :
    gives vec 32 [(.vadd .plain .i32 0 (.v 9) (.row (.v 1)) (.row (.v 2)), 63, 2 ^ 31 - 1), (.vadd sat .i32 0 (.v 9) (.row (.v 1)) (.row (.v 2)), 63, 2 ^ 31),
      (.vsub .plain .i32 0 (.v 9) (.row (.v 1)) (.row (.v 2)), 62, 63), (.vmul .plain .i32 0 (.v 9) (.row (.v 1)) (.row (.v 2)), 63, 2 ^ 31),
      (.vmulh .plain .i32 0 (.v 9) (.row (.v 1)) (.row (.v 2)), 5, 2 ^ 32 - 1), (.vmin .plain .i32 0 (.v 9) (.row (.v 1)) (.row (.v 2)), 5, 2 ^ 32 - 1),
      (.vmax .plain .u32 0 (.v 9) (.row (.v 1)) (.scal 1), 63, 2 ^ 31), (.vabs sat .i32 0 (.v 9) (.row (.v 1)), 63, 2 ^ 31 - 1),
      (.vneg .plain .i32 0 (.v 9) (.row (.v 1)), 5, 2 ^ 32 - 5), (.vshl .plain .i32 0 (.v 9) (.row (.v 1)) (.imm 32), 5, 0),
      (.vshr .plain .u32 0 (.v 9) (.row (.v 2)) (.imm 31), 0, 1), (.vsar .plain .i32 0 (.v 9) (.row (.v 1)) (.imm 255), 63, 2 ^ 32 - 1),
      (.vand .plain 0 (.v 9) (.row (.v 1)) (.imm 0x1FF), 63, 2 ^ 31), (.vor .plain 0 (.v 9) (.row (.v 1)) (.row (.v 2)), 0, 2 ^ 32 - 1),
      (.vxor .plain 0 (.v 9) (.row (.v 1)) (.row (.v 2)), 1, 2 ^ 32 - 2), (.vnot .plain 0 (.v 9) (.row (.v 1)), 0, 2 ^ 32 - 1),
      (.vmov .plain 0 (.v 9) (.row (.v 1)), 62, 62)] = true := by decide +kernel

/-- R153, R154: exact small cases, and the special operands of the transcendentals. -/
theorem test_vector_float :
    gives vec 32 [(.vadd .plain .f32 0 (.v 9) (.row (.v 3)) (.imm 2), 0, 0x40600000), (.vsub .plain .f32 0 (.v 9) (.row (.v 5)) (.row (.v 5)), 63, 0x7FC00000),
      (.vmul .plain .f32 0 (.v 9) (.row (.v 3)) (.row (.v 3)), 5, 0x40100000), (.vdiv .plain .f32 0 (.v 9) (.row (.v 3)) (.imm 0), 5, 0x7F800000),
      (.vfma .plain .f32 0 (.v 9) (.row (.v 3)) (.row (.v 3)), 5, 0x40100000), (.vmin .plain .f32 0 (.v 9) (.row (.v 2)) (.row (.v 3)), 5, 0x3FC00000),
      (.vmax .plain .f32 0 (.v 9) (.row (.v 5)) (.row (.v 3)), 5, 0x3FC00000), (.vabs .plain .f32 0 (.v 9) (.row (.v 5)), 0, 0x7F800000),
      (.vneg .plain .f32 0 (.v 9) (.row (.v 3)), 0, 0xBFC00000), (.vrcp .plain 0 (.v 9) (.imm 4), 0, 0x3E800000),
      (.vrsqrt .plain 0 (.v 9) (.imm 4), 0, 0x3F000000), (.vsqrt .plain 0 (.v 9) (.row (.v 5)), 0, 0x7FC00000)] = true ∧
    gives vec 32 [(.vexp2 .plain 0 (.v 9) (.row (.v 5)), 0, 0), (.vlog2 .plain 0 (.v 9) (.row (.v 5)), 0, 0x7FC00000)] = true := by decide +kernel

/-- R154: 2^0.5 and log2 3, worked out to FP32; exact and special ones; 2^-149 as a subnormal. -/
theorem test_transcend :
    exp2Rounded {} 0x3F000000 = ⟨0x3FB504F3, { nx := true }, false⟩ ∧ log2Rounded {} 0x40400000 = ⟨0x3FCAE00D, { nx := true }, false⟩ ∧
    exp2Rounded {} 0xC3150000 = ⟨1, {}, false⟩ ∧ log2Rounded {} 0x3E000000 = ⟨0xC0400000, {}, false⟩ ∧
    exp2Rounded {} 0x43000000 = ⟨0x7F800000, { ov := true, nx := true }, false⟩ ∧ log2Rounded {} 0x80000000 = ⟨0xFF800000, { dz := true }, false⟩ := by
  decide +kernel

/-- O30: the kinds of inputs of vexp2 and vlog2. -/
theorem wit_transcend :
    (f32Val 0x7FC00001).isNaN = true ∧ f32Val 0x7F800000 = .inf false ∧ f32Val 0xFF800000 = .inf true ∧ (f32Val 0x80000000).isZero = true ∧
    ((f32Val 0xBF000000).finite = true ∧ (f32Val 0xBF000000).isZero = false ∧ (f32Val 0xBF000000).sign = true) ∧
    ((f32Val 0x42FE0000).rat = (127 : Int) ∧ (f32Val 0xC3150000).rat = (-149 : Int) ∧ (f32Val 1).rat = (2 : Rat) ^ (-149 : Int)) ∧
    ((f32Val 0x45000000).finite = true ∧ (2000 : Rat) < gap 0 (f32Val 0x45000000).rat) ∧
    ((f32Val 0x3F000000).isZero = false ∧ (f32Val 0x3F000000).sign = false ∧ gap 0 (f32Val 0x3F000000).rat ≤ 2000) := by
  and_intros <;> decide +kernel

/-- R55, R116, R172-R175: an empty source row b7 and a full destination row b2 of three, with WLIM 64 and 0; a poisoned second source. -/
theorem test_stalls :
    (let s := vec.setKore { vec.kore with full := 1#512 <<< 2 }
     let z := s.setMe { s.me with wlim := 0 }
     let reads : Instr := .vadd .plain .i32 0 (.v 9) (.row (.v 1)) (.row (.b 7))
     let fills : Instr := .vmov .plain 2 (.b 0) (.row (.v 1))
     leaves reads s (fun t => t.me.pc == 0x1000 && t.me.wait == some ⟨.bandFull 7, 0, some 64⟩ && t.me.held == [vec.rowGet (.v 1)]) = true ∧
     leaves reads z (fun t => t.me.tcause == 9 && t.me.tval == 7 + 2 ^ 10) = true ∧
     leaves fills s (fun t => t.me.wait == some ⟨.bandEmpty 2, 0, some 64⟩ && reservedBy t.kore 1 == some 0 && reservedBy t.kore 2 == none &&
       t.kore.full == 1#512 <<< 2) = true ∧
     leaves fills z (fun t => t.me.tcause == 9 && t.me.tval == 2 + 2 ^ 9 && t.kore.reserved == []) = true) ∧
    (let s := (vec.rowSet (.v 2) { row32 (fun _ => 0) with poison := true }).setMe { vec.me with strict := true }
     leaves (.vadd .plain .i32 0 (.v 9) (.row (.v 1)) (.row (.v 2))) s (fun t => t.me.tcause == 0x10 && t.me.tval == 2 && t.me.tlanes == -1) = true) := by
  decide +kernel

/-- O29 to O35: an empty row after a full one, a poisoned row after a clean one, a destination row that cannot be taken. -/
theorem wit_stalls :
    (let s := vec.setKore { vec.kore with full := 1#512 <<< 2 }
     let i : Instr := .vadd .plain .i32 1 (.b 2) (.row (.v 1)) (.row (.b 7))
     owns s .x ∧ lanesOf i s ≠ 0 ∧ s.me.held = [] ∧ s.me.wait = none ∧ s.me.arrived = false ∧
      runRefs 2 (.b 2) [.row (.v 1), .row (.b 7)] false = [.row (.v 1)] ++ .row (.b 7) :: [.row (.v 2), .row (.b 8)] ∧
      Ref.present s (.row (.v 1)) = true ∧ s.kore.isFull 7 = false ∧ s.me.wlim ≠ 0 ∧ (s.kore.reserved.map (·.1)).Nodup ∧
      (bandRows (runDests 2 (.b 2))).filter (fun b => !canTake s s.cur b) = 2 :: [] ∧
      (∀ r ∈ [Ref.row (.v 1), .row (.v 2)], r.present s = true ∧ (Ref.at s r).poison = false)) ∧
    (let s := (vec.rowSet (.v 2) { row32 (fun _ => 0) with poison := true }).setMe { vec.me with strict := true, wlim := 0 }
     s.me.strict = true ∧ s.me.wlim = 0 ∧ (Ref.at s (.row (.v 1))).poison = false ∧ (Ref.at s (.row (.v 2))).poison = true) := by
  (try unfold lanesOf); and_intros <;> decide +kernel

/-- O29 and O30: two rows into band rows b510 and b511, a source out of the band that is full, a guard that enables one lane. -/
theorem wit_vector :
    (vready (.vadd .plain .i32 1 (.b 510) (.row (.v 1)) (.scal 1)) vec (runRefs 2 (.b 510) [.row (.v 1), .scal 1] false) (runDests 2 (.b 510)) ∧
      VTy.i32.isFloat = false) ∧
    (let s := (vec.setKore { vec.kore with full := 1 }).setMe (vec.me.pset 3 ⟨1#64 <<< 63, true⟩)
     let i : Instr := .vfma ⟨[], false, ⟨3, 0, 0, 0xF0⟩⟩ .bf16 0 (.o 7) (.row (.b 0)) .lx
     vready i s (runRefs 1 (.o 7) [.row (.b 0), .lx] true) (runDests 1 (.o 7)) ∧ lanesOf i s = 1#64 <<< 63 ∧ VTy.bf16.isFloat = true) := by
  (try unfold lanesOf); and_intros <;> decide +kernel

/-- R156: element relations over a lane; PE is the negation; a `.unc` compare without lanes clears. -/
theorem test_vcmp :
    leaves (.vcmp .plain .plain .i32 .lt 2 1 (.row (.v 1)) (.scal 1)) vec
      (fun t => t.me.pget 1 == ⟨0x800000000000001F, true⟩ && t.me.pget 2 == ⟨0x7FFFFFFFFFFFFFE0, true⟩) = true ∧
    leaves (.vcmp ⟨[], false, ⟨3, 0, 0, 0xF0⟩⟩ .unc .f32 .un 2 1 (.row (.v 1)) .lx) (vec.setMe (vec.me.pset 1 ⟨-1, true⟩))
      (fun t => t.me.pget 1 == {} && t.me.pget 2 == {}) = true := by decide +kernel

/-- O31: a compare that can issue, and one without lanes. -/
theorem wit_vcmp : vready (.vcmp .plain .and .f16 .ge 0 7 (.row (.v 1)) (.imm 511)) vec (srcRef (.row (.v 1)) 0 ++ srcRef (.imm 511) 0) [] ∧
    owns vec .x ∧ lanesOf (.vcmp ⟨[], false, ⟨3, 0, 0, 0xF0⟩⟩ .unc .f32 .un 2 1 (.row (.v 1)) .lx) vec = 0 := by
  (try unfold lanesOf); and_intros <;> decide +kernel

/-- R157-R160: 1.5 as INT8 and INT4, 4 lanes of bytes against bytes, blocks of 1.5 and of infinities as E4M3 and back. -/
theorem test_convert :
    leaves (.vcvt .plain .int8 .fp32 (.v 9) (.row (.v 3))) vec (fun t => elem 8 (t.rowGet (.v 9)).bits 3 == 2) = true ∧
    leaves (.vcvt .plain .fp32 .int8 (.v 9) (.row (.v 2))) vec (fun t => elem 32 (t.rowGet (.v 12)).bits 63 == 0xBF800000) = true ∧
    gives vec 32 [(.vdot4 .plain .i8 (.v 9) (.row (.v 2)) (.row (.v 2)), 7, 4)] = true ∧
    leaves (.vquant .plain .e4m3 3 (.v 9) (.row (.v 3)) (.v 20)) vec
      (fun t => elem 8 (t.rowGet (.v 9)).bits 0 == 0x7C && elem 8 (t.rowGet (.v 20)).bits 0 == 119 &&
        elem 8 (t.rowGet (.v 9)).bits 128 == 0 && elem 8 (t.rowGet (.v 20)).bits 4 == 0xFF && (t.rowGet (.v 9)).poison && (t.rowGet (.v 20)).poison &&
        t.me.lx.bits == (t.rowGet (.v 20)).bits && t.me.flnv.getLsbD 32 && !t.me.flnv.getLsbD 0 && t.me.flnx == 0xFFFF0000 && t.me.fluf == 0xFFFF0000) = true ∧
    gives vec 32 [(.vdequant .plain .e4m3 0 (.v 9) (.row (.v 2)) (.imm 1), 0, 0x7FC00000)] = true := by decide +kernel

/-- R33, R35, R36, R160: a NaN and an infinity where the format has none, an INT32 narrowed, -3 as E2M1 under scale 128; 1, -2 with a
zero sum; the block of R35's example. -/
theorem test_elements :
    convertFmt .e4m3 .fp32 {} 0xFF800000 = ⟨0xFE, nvFlag, true⟩ ∧ convertFmt .int8 .fp32 {} 0x7FC00000 = ⟨0, nvFlag, true⟩ ∧
    convertFmt .int8 .int32 { sat := true } 0xFFFFFF00 = ⟨0x80, {}, false⟩ ∧ convertFmt .fp32 .e4m3 {} 0x7F = ⟨0x7FC00000, nvFlag, false⟩ ∧
    mxDequant .e2m1 {} 128 0xD = ⟨0xC0C00000, {}, false⟩ ∧ mxDequant .e2m1 {} 255 0xD = ⟨0x7FC00000, nvFlag, false⟩ ∧
    dotLane .e5m2 {} 0x3C 0xBC 0x3F800000 = ⟨0, {}, false⟩ ∧ dotLane .e5m2 {} 0x7C 0 0 = ⟨0x7FC00000, nvFlag, false⟩ ∧
    (mxQuantBlock .e2m1 [f32Val 0x40400000, f32Val 0xBF333333, f32Val 0x41200000, f32Val 0x3E4CCCCD]).1 = 0x80 ∧
    (mxQuantBlock .e2m1 [f32Val 0x40400000, f32Val 0xBF333333, f32Val 0x41200000, f32Val 0x3E4CCCCD]).2.1 =
      [(3, {}), (9, { nx := true, uf := true }), (6, { nx := true }), (0, { nx := true, uf := true })] := by decide +kernel

/-- O32 to O34: finite, NaN and infinite elements of either kind of format; a block of each kind; elements to sum and to choose from. -/
theorem wit_elements :
    (Fmt.e5m2.cvtOk = true ∧ Fmt.int8.cvtOk = true ∧ isIntFmt .e5m2 = false ∧ isIntFmt .int8 = true ∧
      (decodeFmt .e5m2 0x7C).1.isInf = true ∧ (decodeFmt .e5m2 0x7D).1.isNaN = true ∧ (decodeFmt .e5m2 0x3C).1.finite = true) ∧
    (let vs := [FVal.fin false 3 0, .fin true 0 0]
     (∀ v ∈ vs, v.finite = true) ∧ (∃ v ∈ vs, (2 : Rat) ^ (1 : Int) ≤ gap 0 v.rat) ∧ (∀ v ∈ vs, gap 0 v.rat < (2 : Rat) ^ (1 + 1 : Int)) ∧
      (∃ v ∈ [FVal.inf true], v.finite = false) ∧ ∀ v ∈ [FVal.fin true 0 0], v.isZero = true) ∧
    (VTy.f16.isFloat = true ∧ VTy.i8.isFloat = false ∧ (∃ x ∈ [0x7E00, 0x3C00], (decodeFmt .fp16 x).1.isNaN = false) ∧
      (∃ x ∈ [0x7E00, 0x3C00], (decodeFmt .fp16 x).1.isNaN = true) ∧ (decodeFmt .fp16 0xFC00).1 = .inf true) := by and_intros <;> decide +kernel

/-- O32 and O33: a conversion into four rows, a dequantisation, a dot product, a quantisation into two rows. -/
theorem wit_convert :
    (Fmt.fp32.cvtOk = true ∧ Fmt.int8.cvtOk = true ∧ vready (.vcvt .plain .fp32 .int8 (.v 252) (.row (.v 2))) vec
      (srcRun (.row (.v 2)) 1) (runDests 4 (.v 252))) ∧
    vready (.vdequant .plain .e2m1 0 (.v 9) (.row (.v 2)) (.imm 1)) vec (srcRef (.row (.v 2)) 0 ++ srcRef (.imm 1) 0) (runDests 8 (.v 9)) ∧
    vready (.vdot4 .plain .e2m1 (.v 9) (.row (.v 2)) .lx) vec (srcRef (.row (.v 2)) 0 ++ srcRef .lx 0 ++ [.row (.v 9)]) (runDests 1 (.v 9)) ∧
    vready (.vquant .plain .e2m1 3 (.b 511) (.row (.v 3)) (.o 7)) vec (srcRun (.row (.v 3)) 8) [.b 511, .o 7] := by
  and_intros <;> decide +kernel

/-- R161-R165: lane 63 of a rotation, a lane index past the row, sums, a spread and a gathered lane, rows by code. -/
theorem test_across :
    gives vec 32 [(.vperm .plain (.v 9) (.row (.v 1)) (.row (.v 4)), 9, 1), (.vperm .plain (.v 9) (.row (.v 1)) (.row (.v 2)), 9, 0),
      (.vbcast .plain (.v 9) (.row (.v 1)) (.scal 1), 60, 5), (.vrot .plain (.v 9) (.row (.v 1)) (.imm 1), 0, 2 ^ 31),
      (.vredsum .plain .i32 (.v 9) (.row (.v 2)), 7, 2 ^ 32 - 64), (.vredmin .plain .i32 (.v 9) (.row (.v 1)), 7, 2 ^ 31),
      (.vredmax .plain .u32 (.v 9) (.row (.v 1)), 7, 2 ^ 31), (.vscan .plain .i32 (.v 9) (.row (.v 4)), 41, 42), (.vget .plain (.v 9) 2, 62, 62)] = true ∧
    (let u : Hdr := ⟨[], false, ⟨3, 0, 0, 0xF0⟩⟩
     gives (vec.setMe (vec.me.pset 3 ⟨0x8000000000000100, true⟩)) 32 [(.vcompress u (.v 9) (.row (.v 1)), 0, 8), (.vcompress u (.v 9) (.row (.v 1)), 1, 2 ^ 31),
       (.vexpand u (.v 9) (.row (.v 1)), 63, 1), (.vexpand u (.v 9) (.row (.v 1)), 62, 0)]) = true ∧
    leaves (.vput .plain (.row (.v 2)) 2) vec (fun t => elem 32 (t.rowGet (.v 1)).bits 5 == 2 ^ 32 - 1) = true ∧
    leaves (.vget .plain (.v 9) 3) vec (fun t => t.me.tcause == 1) = true := by decide +kernel

/-- O34: the operands of `vget` and `vput`, and a code that is no row. -/
theorem wit_across :
    vready (.vperm .plain (.b 0) (.row (.v 1)) .lx) vec (srcRef (.row (.v 1)) 0 ++ srcRef .lx 0) (runDests 1 (.b 0)) ∧
    vready (.vcompress .plain (.v 9) (.row (.v 1))) vec (srcRef (.row (.v 1)) 0) [.v 9] ∧
    (codeRef 0x308 (vec.sget 2) = some (.row (.v 1)) ∧ codeRef 0x307 (vec.sget 2) = some (.row (.v 1)) ∧ codeRef 0x308 0x308 = some .lx) ∧
    (owns vec .x ∧ lanesOf (.vget .plain (.v 9) 3) vec ≠ 0 ∧ 0x308 < (vec.sget 3).toNat ∧ 0x307 < (0x308 : Word).toNat) := by
  (try unfold lanesOf); and_intros <;> decide +kernel

/-- R95: the scalar half reads what stood before the word; a guard without lanes leaves the scalar half alone. -/
theorem test_pairs :
    leaves (.pairVVaddF32 .plain (.addi 9 1 1) 9 (.v 3) (.v 3)) vec (fun t => t.me.sget 9 == 6 && elem 32 (t.rowGet (.v 9)).bits 3 == 0x40400000) = true ∧
    gives vec 32 [(.pairVVaddI32 .plain .nop 9 (.v 1) (.v 2), 5, 4), (.pairVVsubI32 .plain .nop 9 (.v 1) (.v 2), 5, 6), (.pairVVmulI32 .plain .nop 9 (.v 1) (.v 2), 5, 2 ^ 32 - 5),
      (.pairVVminI32 .plain .nop 9 (.v 1) (.scal 1), 9, 5), (.pairVVmaxI32 .plain .nop 9 (.v 1) (.scal 1), 9, 9), (.pairVVand .plain .nop 9 (.v 1) (.v 4), 9, 1),
      (.pairVVor .plain .nop 9 (.v 1) (.v 4), 8, 9), (.pairVVxor .plain .nop 9 (.v 1) (.v 2), 0, 2 ^ 32 - 1), (.pairVVmov .plain .nop 9 (.v 1), 9, 9),
      (.pairVVsubF32 .plain .nop 9 (.v 3) (.v 3), 9, 0), (.pairVVmulF32 .plain .nop 9 (.v 3) (.v 3), 9, 0x40100000), (.pairVVfmaF32 .plain .nop 9 (.v 3) (.v 3), 9, 0x40100000),
      (.pairVVminF32 .plain .nop 9 (.v 3) (.v 5), 9, 0xFF800000), (.pairVVmaxF32 .plain .nop 9 (.v 3) (.v 5), 9, 0x3FC00000),
      (.pairSNop .plain (.vmov 9 (.v 1)), 9, 9)] = true ∧
    ([(.pairSAdd .plain 9 1 1, 10), (.pairSSub .plain 9 1 2, 4), (.pairSAnd .plain 9 1 2, 1), (.pairSOr .plain 9 1 2, 5), (.pairSXor .plain 9 1 2, 4),
      (.pairSMin .plain 9 1 2, 1), (.pairSMax .plain 9 1 2, 5), (.pairSAddi .plain 9 1 (-1), 4), (.pairSShl .plain 9 1 31, BitVec.ofNat 64 (5 * 2 ^ 31)),
      (.pairSShr .plain 9 1 1, 2), (.pairSSar .plain 9 1 2, 1), (.pairSMov .plain 9 1, 5), (.pairSMovi .plain 9 16, -16), (.pairVNop .plain, 0)] :
      List (Instr × Word)).all (fun e => nine vec e.1 == some e.2) = true := by decide +kernel

/-- O35: a pair word that can issue, and one whose guard enables no lane. -/
theorem wit_pairs :
    vready (.pairVVfmaF32 .plain .nop 31 (.v 3) (.o 7)) vec (runRefs 1 (.v 31) [pairSrc (.v 3), pairSrc (.o 7)] true) [.v 31] ∧
    owns vec .x ∧ lanesOf (.pairVVmov ⟨[], false, ⟨3, 0, 0, 0xF0⟩⟩ .nop 0 .lx) vec = 0 := by
  (try unfold lanesOf); and_intros <;> decide +kernel

/-! ### Memory -/

/-- Region 1 of die 0: one bolt at 3 MiB, live, of a role and generation 5, tenant 0; for a ring, two slots of 512 bytes. -/
def region1 (sp : Space) : List (Nat × Nat × Nat) :=
  [(0x100100, 8, 0x300000 + 2 ^ 61), (0x100108, 8, 1 + 5 * 2 ^ 32 + 1 * 2 ^ 48), (0x100118, 8, 0x08 * 2 ^ 32), (0x100138, 8, 2 + 2 * 2 ^ 16),
   (0x100140, 8, spaceCode sp * 2 ^ 32 + 5 * 2 ^ 34)]

/-- A handle on region 1 from 3 MiB + off: a space, a format code, extents 8 and 4, stride 8. -/
def hand (sp : Space) (fmt off : Nat) : HBits := BitVec.ofNat 256 (spaceCode sp + 5 * 2 ^ 2 + 1 * 2 ^ 18 + (0x300000 + off) * 2 ^ 36 +
  fmt * 2 ^ 92 + 2 * 2 ^ 102 + 8 * 2 ^ 106 + 4 * 2 ^ 122 + 8 * 2 ^ 170)

/-- A machine with region 1 in a role and h1 on it. -/
def memo (sp : Space) (fmt : Nat) (rs : List (Nat × Word)) (words : List (Nat × Nat × Nat)) : State :=
  mach rs [(1, hand sp fmt 0)] (region1 sp ++ words)

/-- Elements reached through the flat translations. -/
theorem reached {s : State} {h : HBits} {sp : Space} {need : Need} {w : Nat} {els : List Elem} (hs : (s.die 0).tlb = die0.tlb ∧ (s.die 0).raf = die0.raf)
    (hc : homeCheck s s.myTenant h false (elemBytes w) (els.map (fun e => (e.lane, e.va))) = .ok)
    (he : ∀ e ∈ els, pendingPage s sp (pageAt s sp e.va) = false ∧ (pageAt s sp e.va).toNat < 2 ^ 34 ∧
      (pageAt s sp e.va).toNat ≤ e.va.toNat) : reaches s h sp need false w els BitVec.toNat := by
  refine Or.inr ⟨hc, fun e m => ⟨(he e m).1, (pageAt s sp e.va).toNat, ?_, ?_⟩⟩
  · have := flat_placed (sp := sp) hs (pageAt s sp e.va).toNat (he e m).2.1 need
    rwa [BitVec.ofNat_toNat, BitVec.setWidth_eq] at this
  · have := (he e m).2.2
    omega

/-- s3 = 24, s4 = 6; v1 holds 31 - l mod 32, v2 holds 32; INT32 at 3 MiB: 7, at its element 31: 9, poisoned. -/
def filled (sp : Space) : State := ((memo sp 3 [(3, 24), (4, 6)] [(0x300000, 4, 7), (0x30007C, 4, 9)]).rowSet (.v 1) (row32 (fun l => 31 - l % 32))).rowSet
  (.v 2) (row32 (fun _ => 32))

/-- Region 1 as a Fixed run whose one bolt a replica in die 0's store holds, with 8 in element 0 and 9 in element 31. -/
def copied : State := (filled .fixed).setDie 0 { (filled .fixed).die 0 with
  replicas := [⟨none, 0, 1, 0, 0x300000, 5, [(0, 8), (0x7C, 9)], []⟩] }

/-- R276-R281: the last elements of the tile, zeros past it, gathers, Fixed elements of a valid replica (R245), and an index
past the tile (PERM, 12). -/
theorem test_loads :
    gives (filled .loose) 32 [(.ldl .plain .w32 false (.v 9) 1 3, 7, 9), (.ldl .plain .w32 false (.v 9) 1 3, 8, 0), (.ldlg .plain .w32 false (.v 9) 1 (.v 1), 31, 7)] = true ∧
    gives copied 32 [(.ldf .plain .w32 false (.v 9) 1 0, 0, 8), (.ldfg .plain .w32 false (.v 9) 1 (.v 1), 32, 9)] = true ∧
    leaves (.ldl .plain .w32 false (.v 9) 1 0) (filled .fixed) (fun t => t.me.tcause == 10) = true ∧
    leaves (.ldlg .plain .w32 false (.v 9) 1 (.v 2)) (filled .loose) (fun t => t.me.tcause == 12 && t.me.tval == 0x300000 && t.me.tlanes == -1) = true := by
  decide +kernel

/-- An index of 32 in lane 0 alone: v3. -/
def partly : State := (filled .loose).rowSet (.v 3) (row32 (fun l => if l = 0 then 32 else 31 - l % 32))

/-- `filled` with another handle in h1, or with the region area of its vault ending below the region. -/
def other (sp : Space) (h : HBits) : State := (filled sp).setMe ((filled sp).me.hset 1 h)
def low : State := (other .loose (hand .loose 3 0 ||| 1#256 <<< 254)).setCluster 0 { rtop := 2 }

/-- R208, R259, R273, R276, R281: PERM with the failed lane while the others are loaded or stored; ALIGN of BASE and of an odd first
4-bit element; PERM outside the region, and under `.here` without VL or outside the region area; ROLE. -/
theorem test_failures :
    leaves (.ldlg .plain .w32 false (.v 9) 1 (.v 3)) partly (fun t => t.me.tcause == 12 && t.me.tval == 0x300000 && t.me.tlanes == 1 &&
      elem 32 (t.rowGet (.v 9)).bits 0 == 0 && elem 32 (t.rowGet (.v 9)).bits 31 == 7 && t.me.lx == t.rowGet (.v 9)) = true ∧
    leaves (.stls .plain .w32 false (.row (.v 2)) 1 (.v 3)) partly (fun t => t.me.tcause == 12 && t.me.tlanes == 1 && t.num 0x300000 4 == 32 &&
      t.num 0x300080 4 == 0) = true ∧
    leaves (.ldl .plain .w32 false (.v 9) 1 3) (other .loose (hand .loose 3 1)) (fun t => t.me.tcause == 5 && t.me.tval == 0x300001 && t.me.tlanes == -1) = true ∧
    leaves (.ldl .plain .w4 false (.v 9) 1 3) (memo .loose 1 [(3, 1)] []) (fun t => t.me.tcause == 5 && t.me.tval == 0x300000) = true ∧
    leaves (.stl .plain .w32 false (.row (.v 1)) 1 0) (other .loose (hand .loose 3 0xFFF8)) (fun t => t.me.tcause == 12 && t.me.tval == 0x310000 &&
      t.me.tlanes == 0xFFFFFFFC && t.num 0x30FFF8 4 == 0) = true ∧
    leaves (.ldl .plain .w32 true (.v 9) 1 0) (filled .loose) (fun t => t.me.tcause == 12 && t.me.tval == 0x300000 && t.me.tlanes == 0xFFFFFFFF) = true ∧
    leaves (.ldl .plain .w32 true (.v 9) 1 0) low (fun t => t.me.tcause == 12 && t.me.tval == 0x300000) = true ∧
    leaves (.ldl .plain .w32 true (.v 9) 1 0) (low.setCluster 0 { rtop := 4 }) (fun t => t.me.pc == 0x1008) = true ∧
    leaves (.stl .plain .w32 false (.row (.v 1)) 1 0) (other .fixed (hand .loose 3 0)) (fun t => t.me.tcause == 10) = true := by decide +kernel

/-- O37 and O38: a misaligned BASE and an odd first element; elements of which one lies outside the region, or its area; a vault that does
not hold the region's handle; a run of another role; one lane lost of 64. -/
theorem wit_failures :
    (shaped (hand .loose 3 1) .loose 32 ∧ (hBase (hand .loose 3 1)).toNat % elemBytes 32 ≠ 0 ∧ shaped (hand .loose 1 0) .loose 4 ∧
      (filled .loose).me.pure = false ∧ owns (filled .loose) .m ∧ owns (filled .loose) .w) ∧
    (let els (s : State) := insideElems (tileOf (s.me.hget 1) 32) (picks 32 (-1) (fun e => e))
     let verdict (s : State) := homeCheck s s.myTenant (s.me.hget 1) (tookEarlier s (s.me.hget 1) ((els s).map (·.va))) 4 ((els s).map (fun e => (e.lane, e.va)))
     (let s := other .loose (hand .loose 3 0xFFF8)
      els s ≠ [] ∧ fits (s.me.hget 1) .loose 32 ∧ readable s [] ∧ (verdict s matches .perm _) = true) ∧
     (let s := other .fixed (hand .loose 3 0)
      els s ≠ [] ∧ fits (s.me.hget 1) .loose 32 ∧ (verdict s matches .role _) = true) ∧
     (hVl ((filled .loose).me.hget 1) = false) ∧
     (hVl (low.me.hget 1) = true ∧ placedHere low low.myCluster (low.me.hget 1) = true ∧ fits (low.me.hget 1) .loose 32 ∧
      (els low).any (fun e => !inArea low low.myCluster (low.me.hget 1) (e.va.toNat - 0x300000 + 4)) = true)) ∧
    (let lost (l : Nat) : Bool := (picks 32 (-1) (indexOf partly (.v 3))).any (fun p => p.lane == l && decide ((tileOf (partly.me.hget 1) 32).count ≤ p.e))
     fits (partly.me.hget 1) .loose 32 ∧ readable partly (runRefs 1 (.v 3) [.row (.v 3)] false) ∧ partly.me.absent = [] ∧
      (List.range 64).any lost = true ∧ (List.range 64).filter lost = [0] ∧
      reaches partly (partly.me.hget 1) .loose { rd := true } false 32
        (insideElems (tileOf (partly.me.hget 1) 32) (picks 32 (-1) (indexOf partly (.v 3)))) BitVec.toNat) := by
  refine ⟨by decide +kernel, by decide +kernel, by decide +kernel, (by decide +kernel), by decide +kernel, by decide +kernel, by decide +kernel,
    reached ⟨rfl, rfl⟩ (by decide +kernel) (by decide +kernel)⟩

/-- O37: contiguous loads into the last band row that reach past the tile, gathers inside it, and an index outside. -/
theorem wit_loads :
    (let s := filled .loose
     let i : Instr := .ldl .plain .w32 false (.b 511) 1 3
     owns s .m ∧ lanesOf i s ≠ 0 ∧ fits (s.me.hget 1) .loose 32 ∧ s.me.pure = false ∧ readable s [] ∧ canTake s s.cur 511 = true ∧
      reaches s (s.me.hget 1) .loose { rd := true } false 32
        (insideElems (tileOf (s.me.hget 1) 32) (picks 32 (lanesOf i s) (fun e => (s.sget 3).toNat + e))) BitVec.toNat) ∧
    (let s := filled .fixed
     let i : Instr := .ldfg .plain .w32 false (.v 9) 1 (.v 1)
     fits (s.me.hget 1) .fixed 32 ∧ readable s (runRefs 1 (.v 1) [.row (.v 1)] false) ∧
      (∀ e, e < 64 → (lanesOf i s).getLsbD (e * 32 / 32) = true → indexOf s (.v 1) e < (tileOf (s.me.hget 1) 32).count) ∧
      reaches s (s.me.hget 1) .fixed { rd := true } false 32
        ((insideElems (tileOf (s.me.hget 1) 32) (picks 32 (lanesOf i s) (indexOf s (.v 1)))).filter
          (fun e => (replicaOf s (s.me.hget 1) e.va).isNone)) BitVec.toNat) ∧
    (let s := copied
     fits (s.me.hget 1) .fixed 32 ∧ readable s [] ∧ (insideElems (tileOf (s.me.hget 1) 32) (picks 32 (lanesOf (.ldf .plain .w32 false (.v 9) 1 0) s)
       (fun e => (s.sget 0).toNat + e))).filter (fun e => (replicaOf s (s.me.hget 1) e.va).isNone) = []) ∧
    (let s := filled .loose
     let i : Instr := .ldlg .plain .w32 false (.v 9) 1 (.v 2)
     lanesOf i s ≠ 0 ∧ (s.kore.reserved.map (·.1)).Nodup ∧ ∀ e, e < 64 → (lanesOf i s).getLsbD (e * 32 / 32) = true → (tileOf (s.me.hget 1) 32).count ≤ indexOf s (.v 2) e) := by
  unfold lanesOf
  refine ⟨⟨by decide +kernel, by decide +kernel, by decide +kernel, (by decide +kernel), by decide +kernel, by decide +kernel,
    reached ⟨rfl, rfl⟩ (by decide +kernel) (by decide +kernel)⟩, ⟨by decide +kernel, by decide +kernel, by decide +kernel,
    reached ⟨rfl, rfl⟩ (by decide +kernel) (by decide +kernel)⟩, by decide +kernel, by decide +kernel⟩

/-- R276, R281, R31: a store inside the tile, a scatter whose last of several elements stays, the block's poison. -/
theorem test_stores :
    leaves (.stl .plain .w32 false (.row (.v 1)) 1 3) ((filled .loose).rowSet (.v 1) { row32 (fun l => 31 - l % 32) with poison := true })
      (fun t => t.num 0x300060 4 == 31 && t.num 0x30007C 4 == 24 && t.num 0x300080 4 == 0 && t.blockPoison 0x3000FF && t.me.pc == 0x1008) = true ∧
    leaves (.stls .plain .w32 false (.row (.v 2)) 1 (.v 1)) (filled .loose) (fun t => t.num 0x300000 4 == 32 && t.num 0x30007C 4 == 32) = true := by
  decide +kernel

/-- O38: a store that reaches past the tile, and a scatter. -/
theorem wit_stores :
    let s := filled .loose
    let i : Instr := .stl .plain .w32 false (.row (.v 1)) 1 3
    let els := insideElems (tileOf (s.me.hget 1) 32) (picks 32 (lanesOf i s) (fun e => (s.sget 3).toNat + e))
    owns s .w ∧ lanesOf i s ≠ 0 ∧ fits (s.me.hget 1) .loose 32 ∧ readable s [.row (.v 1)] ∧
      reaches s (s.me.hget 1) .loose { wr := true } false 32 els BitVec.toNat ∧ (∀ e ∈ els, trackFull s e.va = false) ∧
      (∀ e, e < 64 → (lanesOf i s).getLsbD (e * 32 / 32) = true → indexOf s (.v 1) e < (tileOf (s.me.hget 1) 32).count) := by
  unfold lanesOf
  exact ⟨by decide +kernel, by decide +kernel, by decide +kernel, by decide +kernel, reached ⟨rfl, rfl⟩ (by decide +kernel) (by decide +kernel),
    by decide +kernel, by decide +kernel⟩

/-- R290-R292: a handle of four registers, a quarter, tile (0, 3) of 8 × 4 elements, and a tile outside. -/
theorem test_handles :
    (let s := (filled .loose).setMe { (filled .loose).me with mode := true }
     leaves (.hbuild .plain 2 3) s (fun t => t.me.hget 2 == BitVec.ofNat 256 (24 + 6 * 2 ^ 64)) = true) ∧
    nine (filled .loose) (.hread .plain 9 1 0) = some (BitVec.ofNat 64 (3 + 5 * 2 ^ 2 + 2 ^ 18 + 0x300000 % 2 ^ 28 * 2 ^ 36)) ∧
    leaves (.hview .plain 2 1 4 0) (filled .loose) (fun t => hBase (t.me.hget 2) == 0x300018 && hExt (t.me.hget 2) 0 == 1) = true ∧
    leaves (.hview .plain 2 1 3 0) (filled .loose) (fun t => t.me.tcause == 12 && t.me.tval == 24) = true := by decide +kernel

/-- O36: a legal handle and an illegal one, one of a reserved die, tiles inside and outside, an odd 4-bit view. -/
theorem wit_handles :
    (let s := (filled .loose).setMe { (filled .loose).me with mode := true }
     passes (.hbuild .plain 2 28) s ∧ s.me.mode = true) ∧
    (hLegal (hand .loose 3 0) = true ∧ hLegal (hand .loose 6 0) = false ∧ reservedDie (hBase (hand .loose 3 0)) = false ∧
      reservedDie (hBase (hand .loose 3 (24 * 2 ^ 51))) = true) ∧
    (let s := filled .loose
     let p := s.me.hget 1
     passes (.hview .plain 2 1 4 0) s ∧ hSpace p ≠ .stream ∧ (s.sget 4).toNat * 1 < hExt p 0 ∧ (s.sget 0).toNat * 1 < hExt p 1 ∧
      (hRank p = 1 → s.sget 0 = 0) ∧ hWidth p ≠ 4 ∧ ¬ (s.sget 3).toNat * 1 < hExt p 0) ∧
    (let s := memo .loose 1 [(3, 1)] []
     hWidth (s.me.hget 1) = 4 ∧ ((s.sget 3).toNat * 1 + (s.sget 0).toNat * 1 * hfield (s.me.hget 1) 170 20) % 2 = 1 ∧
      (s.sget 3).toNat * 1 < hExt (s.me.hget 1) 0) := by
  and_intros <;> decide +kernel

/-- A ring of two slots of two rows; v1 as in `filled`. -/
def rg (words : List (Nat × Nat × Nat)) : State := (memo .stream 3 [] words).rowSet (.v 1) (row32 (fun l => 31 - l % 32))

/-- The pointer block of the ring: W, R, C, WROW, RROW, the bindings. -/
def pointers (w r c wrow rrow p q : Nat) : List (Nat × Nat × Nat) :=
  [(0x300420, 8, w), (0x300428, 8, r), (0x300430, 8, c), (0x300438, 8, wrow), (0x300440, 8, rrow), (0x300448, 8, p), (0x300450, 8, q)]

/-- R284-R287, R246: a first row, the row that completes a slot, the end slot, a row and the end taken, a bound side of another strand. -/
theorem test_rings :
    leaves (.sts .plain (.row (.v 1)) 1 0) (rg []) (fun t => t.num 0x300000 4 == 31 && t.num 0x300438 8 == 1 && t.num 0x300448 8 == 2 ^ 63 && t.num 0x300420 8 == 0) = true ∧
    leaves (.sts .plain (.row (.v 1)) 1 0) (rg (pointers 3 3 3 1 0 (2 ^ 63) 0)) (fun t => t.num 0x300300 4 == 31 && t.num 0x300410 8 == 0x200 && t.num 0x300418 8 == 3 &&
      t.num 0x300420 8 == 4 && t.num 0x300438 8 == 0) = true ∧
    leaves (.stsEos .plain 1 0) (rg (pointers 2 2 2 0 0 (2 ^ 63) 0)) (fun t => t.num 0x300400 8 == 1 && t.num 0x300408 8 == 2 && t.num 0x300420 8 == 3) = true ∧
    leaves (.lds .plain 1 (.v 9) 1 0) (rg ([(0x300104, 4, 77)] ++ pointers 1 0 0 0 1 0 0)) (fun t => elem 32 (t.rowGet (.v 9)).bits 1 == 77 && t.num 0x300428 8 == 1 &&
      t.num 0x300440 8 == 0 && !(t.me.pget 1).u && (t.me.pget 2).u) = true ∧
    leaves (.lds .plain 1 (.v 9) 1 0) (rg ([(0x300400, 8, 1)] ++ pointers 1 0 0 0 0 0 0)) (fun t => (t.me.pget 1).u && t.num 0x300428 8 == 1) = true ∧
    leaves (.sts .plain (.row (.v 1)) 1 0) (rg (pointers 0 0 0 0 0 1 0)) (fun t => t.me.tcause == 12 && t.me.tval == 0x300000) = true ∧
    (nine (rg (pointers 3 2 1 0 0 0 0)) (.sptrW .plain 9 1) = some 3 ∧ nine (rg (pointers 3 2 1 0 0 0 0)) (.sptrR .plain 9 1) = some 2 ∧
      nine (rg (pointers 3 2 1 0 0 0 0)) (.sptrC .plain 9 1) = some 1) ∧
    leaves (.lds .plain 1 (.v 9) 1 0) (rg (pointers 1 1 1 0 0 0 0)) (fun t => t.me.tcause == 9) = true := by decide +kernel

/-- R113, R246, R284-R286: a full ring makes `sts` and `sts.eos` wait, the latter after it has completed a partial slot; an empty one `lds`. -/
theorem test_ring_waits :
    let full := pointers 2 0 0 0 0 (2 ^ 63) 0
    let part := pointers 1 0 0 1 0 (2 ^ 63) 0
    let req : Option HeldReq := some ⟨0, 1, .stream, [48]⟩
    leaves (.sts .plain (.row (.v 1)) 1 5) (rg full) (fun t => t.me.taken == req && t.me.held == [(rg []).rowGet (.v 1)] && t.me.pc == 0x1000 &&
      t.me.wait == some ⟨.sts 1 (hand .stream 3 0), 0, some 80⟩ && t.num 0x300420 8 == 2) = true ∧
    leaves (.sts .plain (.row (.v 1)) 1 0) (rg full) (fun t => t.me.tcause == 9 && t.me.tval == BitVec.ofNat 64 (3 * 2 ^ 60 + 2 ^ 56 + 2 * 2 ^ 28)) = true ∧
    leaves (.stsEos .plain 1 5) (rg part) (fun t => t.num 0x300410 8 == 0x100 && t.num 0x300418 8 == 1 && t.num 0x300420 8 == 2 &&
      t.num 0x300438 8 == 0 && (t.me.wait.map (·.kind)) == some (.sts 1 (hand .stream 3 0)) && t.me.pc == 0x1000) = true ∧
    leaves (.stsEos .plain 1 0) (rg full) (fun t => t.me.tcause == 9 && !(t.rgnx 0 1).ended) = true ∧
    leaves (.lds .plain 1 (.b 3) 1 5) (rg (pointers 1 1 1 0 0 0 0)) (fun t => t.me.taken == req && reservedBy t.kore 3 == some 0 &&
      t.me.wait == some ⟨.lds 1 (hand .stream 3 0), 0, some 80⟩) = true := by decide +kernel

/-- The ring of a machine like `rg` lies at 3 MiB. -/
theorem ring_at {s : State} (hd : s.dies = [(0, die0)])
    (h : hLegal (s.me.hget 1) = true ∧ hSpace (s.me.hget 1) = .stream ∧ reservedDie (hBase (s.me.hget 1)) = false ∧ vaDie (hBase (s.me.hget 1)) ≠ 31 ∧
      s.me.pure = false ∧ ringZ s 0 1 = 512 ∧ ringN s 0 1 = 2 ∧ rgnBolts s 0 1 = 1 ∧ rgnBase s 0 1 = 0x300000 ∧ homeOf (hBase (s.me.hget 1)) = 0 ∧ hRegion (s.me.hget 1) = 1 ∧
      rgnKey s 0 1 = 0x100100) : ringAt s (s.me.hget 1) 0x300000 := by
  obtain ⟨h1, h2, h3, h4, h5, h7, h8, h9, h10, h11, h12, h13⟩ := h
  have hd0 : s.die 0 = die0 := by rw [State.die, hd]; rfl
  have hk (j : Nat) : (s.die j).skein = [] := by
    rw [State.die, hd]; simp only [tget]; split <;> rfl
  unfold ringAt
  simp only [h11, h12]
  refine ⟨h1, h2, h3, h4, h5, by omega, by omega, by rw [h7, h8, h9]; decide, by rw [h9, h10]; decide, fun off ho => ⟨fun need => ?_, ?_⟩,
    .inl (by rw [h13]; decide)⟩
  · rw [h9] at ho
    have : rgnVa s 0 1 off = BitVec.ofNat 56 (0x300000 + off) := by simp [rgnVa, rgnDie, h10]
    rw [this]
    exact flat_placed (by rw [hd0]; exact ⟨rfl, rfl⟩) _ (by omega) need
  · simp [pendingPage, hk]

/-- The pointer word w of a ring at 3 MiB. -/
def ptr (s : State) (w : Nat) : Nat := s.num (0x300000 + ringWordAt s 0 1 w) 8

/-- O39: a slot begun and one completed, with the last free slot; sides that are another strand's; a ring after its end; an end with an
empty slot and with a partial one; a row and an end to take. -/
theorem wit_rings :
    let open' (s : State) : Prop := ∀ own ∈ [ringOwn s 0 1 5, ringOwn s 0 1 6, ringOpen s 0 1],
      homeCheck s s.myTenant (s.me.hget 1) own 1 [(0, rgnVa s 0 1 0)] = .ok
    (let s := rg (pointers 4 3 3 1 0 (2 ^ 63) 0)
     ringAt s (s.me.hget 1) 0x300000 ∧ open' s ∧ ptr s 2 ≤ ptr s 0 ∧ ptr s 0 + 2 < 2 ^ 64 ∧ (ptr s 3 + 1) * 256 = ringZ s 0 1 ∧
      (ptr s 4 + 1) * 256 ≤ ringZ s 0 1 ∧ ptr s 1 < 2 ^ 64 - 1 ∧ passes (.sts .plain (.row (.v 1)) 1 0) s ∧ owns s .w ∧ s.me.held = [] ∧
      ptr s 5 = bindWord s ∧ (s.rgnx 0 1).ended = false ∧ ptr s 0 - ptr s 2 < ringN s 0 1 ∧
      passes (.lds .plain 1 (.b 511) 1 0) s ∧ owns s .m ∧ canTake s s.cur 511 = true ∧ ptr s 6 = 0 ∧ ptr s 1 < ptr s 0) ∧
    (let s := rg (pointers 3 3 3 0 1 1 2)
     ringAt s (s.me.hget 1) 0x300000 ∧ open' s ∧ ptr s 5 ≠ 0 ∧ ptr s 5 ≠ bindWord s ∧ ptr s 6 ≠ 0 ∧ ptr s 6 ≠ bindWord s ∧
      (s.kore.reserved.map (·.1)).Nodup ∧ (ptr s 4 + 1) * 256 = ringZ s 0 1 ∧ ptr s 3 = 0) ∧
    (let s0 := rg (pointers 3 3 3 0 0 (2 ^ 63) 0)
     let s := s0.setRgnx 0 1 { s0.rgnx 0 1 with ended := true }
     open' s ∧ ptr s 5 = bindWord s ∧ (s.rgnx 0 1).ended = true) ∧
    (let s := rg (pointers 3 3 3 0 0 0 0)
     ringAt s (s.me.hget 1) 0x300000 ∧ passes (.stsEos .plain 1 0) s ∧ ptr s 5 = 0 ∧ ptr s 3 = 0 ∧ ptr s 0 - ptr s 2 < ringN s 0 1) ∧
    (let s := rg (pointers 3 3 3 1 0 0 0)
     ringAt s (s.me.hget 1) 0x300000 ∧ ptr s 3 ≠ 0 ∧ s.me.saved = 0 ∧ ptr s 0 + 1 - ptr s 2 < ringN s 0 1) ∧
    (let s := rg (pointers 2 2 0 0 0 (2 ^ 63) 0)
     ringAt s (s.me.hget 1) 0x300000 ∧ open' s ∧ s.me.absent = [] ∧ s.me.wait = none ∧ s.me.arrived = false ∧ ptr s 5 = bindWord s ∧
      (s.rgnx 0 1).ended = false ∧ ringN s 0 1 ≤ ptr s 0 - ptr s 2 ∧ ptr s 3 = 0 ∧ ptr s 6 = 0 ∧ ptr s 0 ≤ ptr s 1) ∧
    (let s := rg (pointers 1 0 0 1 0 (2 ^ 63) 0)
     ringAt s (s.me.hget 1) 0x300000 ∧ open' s ∧ ptr s 5 = bindWord s ∧ ptr s 3 ≠ 0 ∧ ptr s 0 - ptr s 2 < ringN s 0 1 ∧
      ringN s 0 1 ≤ ptr s 0 + 1 - ptr s 2) := by
  refine ⟨⟨ring_at rfl (by decide +kernel), ?_⟩, ⟨ring_at rfl (by decide +kernel), ?_⟩, ?_, ⟨ring_at rfl (by decide +kernel), ?_⟩,
    ⟨ring_at (rfl) (by decide +kernel), ?_⟩, ⟨ring_at rfl (by decide +kernel), ?_⟩, ⟨ring_at (rfl) (by decide +kernel), ?_⟩⟩ <;> decide +kernel

/-! ### Accrue, atomics, engines, the cluster -/

/-- An Accrue region of INT32 at 3 MiB; v1 holds l + 1, v3 1.5. -/
def ac : State := ((memo .accrue 3 [(3, 30)] []).rowSet (.v 1) (row32 (· + 1))).rowSet (.v 3) (row32 (fun _ => 0x3FC00000))

/-- Lane 0 alone: p3 set in lane 0. -/
def lane0 : Hdr := ⟨[], false, ⟨3, 0, 0, 0xF0⟩⟩

/-- A state with p3 set in lane 0. -/
def one (s : State) : State := s.setMe (s.me.pset 3 ⟨1, true⟩)

/-- R283, R221: one update per element inside the tile enters the window; a second meets the first there. -/
theorem test_accrue :
    leaves (.accAddI32 .plain (.row (.v 1)) 1 3) ac (fun t => (t.cluster 0).window.map (fun e => (e.va, e.op)) ==
      [(0x300078, .int 0 32 1), (0x30007C, .int 0 32 2)]) = true ∧
    (match exec (.accAddI32 lane0 (.row (.v 1)) 1 3) (one ac) with
     | .next t => leaves (.accAddI32 lane0 (.row (.v 1)) 1 3) t (fun t => (t.cluster 0).window.map (·.op) == [.int 0 32 2])
     | _ => false) = true ∧
    ([(.accMinI32 lane0 (.row (.v 1)) 1 3, 1), (.accMaxI32 lane0 (.row (.v 1)) 1 3, 2), (.accAnd lane0 (.row (.v 1)) 1 3, 3), (.accOr lane0 (.row (.v 1)) 1 3, 4),
      (.accXor lane0 (.row (.v 1)) 1 3, 5)] : List (Instr × Nat)).all (fun e => leaves e.1 (one ac) (fun t =>
        (t.cluster 0).window.map (·.op) == [.int e.2 32 1])) = true ∧
    leaves (.accAddI64 lane0 (.row (.v 1)) 1 0) (one ((memo .accrue 4 [] []).rowSet (.v 1) (row32 (· + 1)))) (fun t =>
      (t.cluster 0).window.map (·.op) == [.int 0 64 0x200000001]) = true ∧
    leaves (.accAddAf lane0 .f32 (.row (.v 3)) 1 0) (one ((memo .accrue 17 [] []).rowSet (.v 3) (row32 (fun _ => 0x3FC00000)))) (fun t =>
      (t.cluster 0).window.length == 1) = true := by decide +kernel

/-- O40: two elements into an empty window, one that merges with what waits there, and one that finds the window full. -/
theorem wit_accrue :
    (let i : Instr := .accAddI32 .plain (.row (.v 1)) 1 3
     owns ac .w ∧ lanesOf i ac ≠ 0 ∧ hLegal (ac.me.hget 1) = true ∧ hSpace (ac.me.hget 1) = .accrue ∧ reservedDie (hBase (ac.me.hget 1)) = false ∧
      vaDie (hBase (ac.me.hget 1)) ≠ 31 ∧ hFmt (ac.me.hget 1) = some .int32 ∧ ac.me.pure = false ∧ (hBase (ac.me.hget 1)).toNat % elemBytes 32 = 0 ∧
      readable ac [.row (.v 1)] ∧ (ac.cluster 0).window = [] ∧
      ((insideElems (tileOf (ac.me.hget 1) 32) (picks 32 (lanesOf i ac) (fun e => (ac.sget 3).toNat + e))).map (·.va)).Nodup) ∧
    (let e : AccEntry := { handle := hand .accrue 3 0, va := 0x300078, op := .int 0 32 1 }
     ∃ o, e.same { e with op := .int 0 32 7 } = true ∧ e.op.merge (.int 0 32 7) = some o ∧ e.same { e with va := 0x30007C } = false) ∧
    (let e (n : Nat) : AccEntry := { handle := hand .accrue 3 0, va := 0x301000 + BitVec.ofNat 56 (4 * n), op := .int 0 32 1 }
     let s := ac.setCluster 0 { window := (List.range 64).map e }
     let i : Instr := .accAddI32 lane0 (.row (.v 1)) 1 3
     ∃ y q, (s.cluster 0).window = y :: q ∧ q.length = 63 ∧ (s.cluster 0).staging.length + 1 < 65536 ∧
      ((s.clusters.flatMap (fun z => z.2.staging)).filter (AccEntry.of y.id y.lin)).length + 1 < ((stitchOf s y.id y.lin).map (·.stageQ)).getD 65536 ∧
      (∀ z ∈ (s.cluster 0).window, z.va ≠ 0x300078) ∧
      (insideElems (tileOf (s.me.hget 1) 32) (picks 32 (lanesOf i (one s)) (fun e => (s.sget 3).toNat + e))).length = 1) := by
  unfold lanesOf
  refine ⟨by decide +kernel, ⟨.int 0 32 8, by decide +kernel⟩, ⟨_, _, rfl, by decide +kernel⟩⟩

/-- Relaxed at die scope: 64-bit signed, 32-bit unsigned. -/
def w64 : AmoF := ⟨.relaxed, .die, true, false⟩
/-- The same of 32 bits, unsigned. -/
def u32 : AmoF := ⟨.relaxed, .die, false, true⟩
/-- The same of 32 bits, signed. -/
def w32 : AmoF := ⟨.relaxed, .die, false, false⟩

/-- A Loose region of INT64 whose element 31 is -2; s3 = 31, s9 = 5, s10 = 6. -/
def am : State := memo .loose 4 [(3, 31), (9, 5), (10, 6)] [(0x3000F8, 8, 2 ^ 64 - 2)]
/-- A Loose region of INT32 whose element 31 is -2; s9 = -2, s10 = 6. -/
def an : State := memo .loose 3 [(3, 31), (9, 0xFFFFFFFE), (10, 6)] [(0x30007C, 4, 2 ^ 32 - 2)]

/-- R288, R289: the old value in the register, sign-extended or not, the new one in memory. -/
theorem test_atomics :
    ([(.amoSwap .plain w64 9 1 3, 5), (.amoCas .plain w64 9 1 3, 2 ^ 64 - 2), (.amoAdd .plain w64 9 1 3, 3), (.amoMin .plain w64 9 1 3, 2 ^ 64 - 2),
      (.amoMax .plain w64 9 1 3, 5), (.amoAnd .plain w64 9 1 3, 4), (.amoOr .plain w64 9 1 3, 2 ^ 64 - 1)] : List (Instr × Nat)).all
      (fun e => leaves e.1 am (fun t => t.me.sget 9 == -2 && t.num 0x3000F8 8 == e.2)) = true ∧
    leaves (.amoCas .plain w32 9 1 3) an (fun t => t.me.sget 9 == -2 && t.num 0x30007C 4 == 6) = true ∧
    leaves (.amoMin .plain u32 9 1 3) an (fun t => t.me.sget 9 == 0xFFFFFFFE && t.num 0x30007C 4 == 2 ^ 32 - 2) = true := by decide +kernel

/-- O41: the last element of the tile, of 64 bits and of 32. -/
theorem wit_atomics :
    (let hb := am.me.hget 1
     let va := ((tileOf hb 64).addr (am.sget 3).toNat).1
     passes (.amoCas .plain w64 9 1 3) am ∧ owns am .w ∧ fits hb .loose 64 ∧ am.me.pure = false ∧ (am.sget 3).toNat < (tileOf hb 64).count ∧
      va.toNat % 8 = 0 ∧ am.me.amoReply = none ∧ am.me.taken = none ∧ homeCheck am am.myTenant hb false 8 [(0, va)] = .ok ∧
      placed am .loose va { rd := true, wr := true } 0x3000F8 ∧ pendingPage am .loose (pageAt am .loose va) = false) ∧
    (let hb := an.me.hget 1
     let va := ((tileOf hb 32).addr (an.sget 3).toNat).1
     fits hb .loose 32 ∧ (an.sget 3).toNat < (tileOf hb 32).count ∧ va.toNat % 4 = 0 ∧ homeCheck an an.myTenant hb false 4 [(0, va)] = .ok ∧
      placed an .loose va { rd := true, wr := true } 0x30007C) := by
  and_intros <;> (try unfold placed) <;> decide +kernel

/-- A core with tokens 5 in q3 and 60 in q0, WPTR 1 = 256, an entry on engine 1; s4 = 256, s5 = 257. -/
def bt : State := (mach [(4, 256), (5, 257)] [] []).setKore
  { part := 0x80, portmap := 0, full := 0#512 - 1, band := [(5, ⟨7, true⟩)]
    tok := [(0, { count := 60 }), (3, { count := 5 })], wptr := [(1, 256)], eng := [(1, { comp := [77] })] }

/-- R191, R193, R197-R199: rows freed, tokens taken and given, a target reached, an entry removed, and the waits. -/
theorem test_band :
    leaves (.bfree .plain 5 2) bt (fun t => !t.kore.isFull 5 && !t.kore.isFull 6 && t.kore.isFull 7 && t.kore.isFull 4 && !(tget {} t.kore.band 5).poison) = true ∧
    leaves (.tokTake .plain 3 5 1) bt (fun t => (t.kore.tq 3).count == 0) = true ∧
    leaves (.tokGive .plain 0 4) bt (fun t => t.kore.tq 0 == { count := 63, ovf := true }) = true ∧
    leaves (.cpwait .plain 1 4 0) bt (fun t => t.me.pc == 0x1008) = true ∧ nine bt (.rdwptr .plain 9 1) = some 256 ∧ nine bt (.cqpop .plain 9 1 0) = some 77 ∧
    leaves (.tokTake .plain 3 6 1) bt (fun t => t.me.wait == some ⟨.tok 3 6, 0, some 16⟩ && t.me.pc == 0x1000) = true ∧
    leaves (.cpwait .plain 1 5 0) bt (fun t => t.me.tcause == 9 && t.me.tval == 0x2100001000000101) = true ∧
    leaves (.cqpop .plain 9 2 0) bt (fun t => t.me.tcause == 9 && t.me.tval == 0x5200000000000000) = true := by decide +kernel

/-- O42: the last band row, counts equal and one short, a take and a pop behind an older one, a target reached and one passed, an
entry and none. -/
theorem wit_band :
    passes (.bfree .plain 511 1) bt ∧ ((511 : BitVec 9).toNat + (1 : BitVec 12).toNat ≤ 512) ∧ bt.me.pure = false ∧
    (5 : BitVec 6).toNat ≤ (bt.kore.tq 3).count ∧ (bt.kore.tq 3).count < (6 : BitVec 6).toNat ∧
    (bt.kore.wptrOf 1 - bt.sget 4).msb = false ∧ (bt.kore.wptrOf 1 - bt.sget 5).msb = true ∧ (bt.kore.engine 1).comp = [77] ∧
    (bt.kore.engine 2).comp = [] ∧ olderTake bt bt.myCore 3 (ageOf bt bt.cur) (numOf bt.cur) = false ∧ olderPops bt 1 = 0 ∧
    (let s := { (bt.setStrand 1 { phase := .running, wait := some ⟨.tok 3 9, 4, none⟩ }).setStrand 2 { phase := .running, wait := some ⟨.cqpop 1, 4, none⟩ }
                with cycle := 5 }
     olderTake s s.myCore 3 (ageOf s s.cur) (numOf s.cur) = true ∧ olderPops s 1 = 1 ∧ (s.kore.engine 1).comp.length ≤ 1) := by decide +kernel

/-- R179, R190, R240: a command is captured with its scalar and sequence number; a full queue makes the strand wait. -/
theorem test_commands :
    ([(.cpin .plain 1 5 1 3 none (some 2), 0), (.cpout .plain 1 5 1 3 (some 1) none, 0), (.saccAdd .plain .i32 1 5 6 3, 2), (.saccMin .plain .i32 1 5 6 3, 2),
      (.saccMax .plain .i64 1 5 6 3, 2), (.saccAnd .plain .i32 1 5 6 3, 2), (.saccOr .plain .i32 1 5 6 3, 2), (.saccXor .plain .i32 1 5 6 3, 2)] : List (Instr × Nat)).all
      (fun e => leaves e.1 (filled .loose) (fun t => match (t.kore.engine e.2).queue with
        | [c] => c.scalar == 24 && c.seq == 0 && c.handle == t.me.hget 1 && (t.kore.engine e.2).nextSeq == 1
        | _ => false)) = true ∧
    leaves (.cpin .plain 1 5 1 3 none none) ((filled .loose).setKore ((filled .loose).kore.setEngine 0 { queue := List.replicate 16 {} }))
      (fun t => t.me.wait == some ⟨.cmdq 0, 0, some 64⟩) = true := by decide +kernel

/-- A machine in which strand 1 of core 0 waits on engine 0's queue for longer than strand 0. -/
def behind : State := { (filled .loose).setStrand 1 { strand0 [] [] with wait := some ⟨.cmdq 0, 0, some 64⟩ } with cycle := 5 }

/-- O43: an empty queue, a full one, one with a place for an older command, and a handle of the host window. -/
theorem wit_commands :
    (let s := filled .loose
     passes (.cpin .plain 1 5 1 3 none none) s ∧ owns s .m ∧ owns s .w ∧ hLegal (s.me.hget 1) = true ∧ reservedDie (hBase (s.me.hget 1)) = false ∧ s.me.pure = false ∧
      (s.kore.engine 0).queue.length < 16 ∧ olderCmds s 0 = 0 ∧ olderCmds s 2 = 0) ∧
    ((behind.kore.engine 0).queue.length + olderCmds behind 0 < 16 ∧ olderCmds behind 0 ≠ 0 ∧ behind.me.wait = none ∧
      passes (.cpin .plain 1 5 1 3 none none) behind) ∧
    (let s := (filled .loose).setKore ((filled .loose).kore.setEngine 0 { queue := List.replicate 16 {} })
     16 ≤ (s.kore.engine 0).queue.length ∧ s.me.wlim ≠ 0 ∧ s.me.wait = none) ∧
    (let h := hand .accrue 3 (31 * 2 ^ 51)
     hLegal h = true ∧ reservedDie (hBase h) = false ∧ vaDie (hBase h) = 31) := by decide +kernel

/-- Core 0 holds a lease of cluster 0 with one command left; h1 names a Fixed region of BF16 in its vault. -/
def ml : State := (memo .fixed 10 [(1, 3), (2, 4)] []).setCluster 0 { lease := some { core := 0, left := 1 } }

/-- R225-R238: the commands are captured and use the budget; without the lease LEASE (15); `lease` asks, `unlease` ends. -/
theorem test_matrix :
    ([.mzero .plain, .mma .plain .none .bf16 .bf16 false false false 0 1 .lx, .mdrain .plain .fp32 false false false 1 (some 5), .msave .plain 1, .mrestore .plain 1] :
      List Instr).all (fun i => leaves i ml (fun t => (t.cluster 0).queue.length == 1 && (t.cluster 0).lease.any (fun l => l.left == 0) && t.me.tcause == 0)) = true ∧
    leaves (.mzero .plain) (filled .loose) (fun t => t.me.tcause == 15) = true ∧
    leaves (.mma .plain .none .bf16 .e4m3 false false false 0 1 .lx) ml (fun t => t.me.tcause == 14 && t.me.tval == 0x20) = true ∧
    leaves (.lease .plain 256) (filled .loose) (fun t => (t.cluster 0).requests.map (·.budget) == [256] && t.me.wait == some ⟨.lease, 0, none⟩) = true ∧
    leaves (.leaseCyc .plain 9) ml (fun t => t.me.tcause == 15) = true ∧
    leaves (.unlease .plain) ml (fun t => (t.cluster 0).lease == none) = true := by decide +kernel

/-- O44: a lease with a unit left, a legal panel in the vault, a request granted, a lease with a command queued and without one. -/
theorem wit_matrix :
    (let l : Lease := { core := 0, left := 1 }
     let hb := ml.me.hget 1
     leased ml l ∧ passes (.mzero .plain) ml ∧ owns ml .t ∧ (ml.cluster ml.myCluster).queue.length < 16 ∧ olderCmds ml 1 = 0 ∧ hLegal hb = true ∧
      (∀ c ∈ pendingCmds (ml.cluster ml.myCluster), c.opc = 0x386 → c.done = true) ∧ comboOk .bf16 .bf16 false .none false = true ∧
      (projected (ml.cluster ml.myCluster)).1 = 0 ∧ hSpace hb = .fixed ∧ reservedDie (hBase hb) = false ∧
      rgnBase ml ml.myDie (hRegion hb) ≤ vaOff (hBase hb) ∧
      inArea ml ml.myCluster hb ((0 + (0 : BitVec 5).toNat) / stepsPerGranule .bf16 * 16384 + 16384) = true ∧
      (tagCheck ml ml.myCluster hb (0 / stepsPerGranule .bf16 * 16384) ((0 + (0 : BitVec 5).toNat) / stepsPerGranule .bf16 * 16384 + 16384)).toOption = some () ∧
      ml.me.pure = false ∧ (∃ g, hFmt hb = some g ∧ drainFmtOk g = true) ∧ ml.me.wait = none) ∧
    (let s := filled .loose
     (s.cluster s.myCluster).lease = none ∧ (s.cluster s.myCluster).requests = [] ∧ passes (.lease .plain 256) s ∧ owns s .t ∧
      hLegal (s.me.hget 1) = true ∧ hLegal (s.me.hget 0) = false) ∧
    (let s := ml.setMe { ml.me with wait := some ⟨.lease, 0, none⟩ }
     s.me.wait = some ⟨.lease, 0, none⟩ ∧ ∀ r ∈ (s.cluster s.myCluster).requests, r.strand ≠ s.cur) ∧
    (let x : Cluster := { lease := some { core := 0, left := 1 }, queue := [{}] }
     let s := (filled .loose).setCluster 0 x
     passes (.unlease .plain) s ∧ (s.cluster s.myCluster).requests = [] ∧ (s.cluster s.myCluster).lease = some { core := 0, left := 1 } ∧
      (s.cluster s.myCluster).queue ≠ []) := by
  unfold leased
  refine ⟨⟨by decide +kernel, by decide +kernel, by decide +kernel, (by decide +kernel), by decide +kernel, by decide +kernel, by decide +kernel,
    (by decide +kernel), by decide +kernel, by decide +kernel, by decide +kernel, (by decide +kernel), by decide +kernel, by decide +kernel,
    by decide +kernel, ⟨.bf16, by decide +kernel⟩, by decide +kernel⟩, ?_⟩
  and_intros <;> decide +kernel

/-! ### Rejected units, barrier, recasts, records and collectives -/

/-- O4: three prefix words of different kinds, one of a kind that stands there, a word with T = 1, an instruction that takes no prefix. -/
theorem wit_rejected :
    let pfx : List Pfx := [.round .rne 0, .arith true false false, .imm 1]
    pfx ≠ [] ∧ pfx.all Pfx.wf = true ∧ (pfx.map Pfx.kind).Nodup ∧ Pfx.wf (.imm 2) = true ∧ pfx[2]? = some (.imm 1) ∧ Pfx.kind (.imm 1) = Pfx.kind (.imm 2) ∧
      (Instr.nop ⟨[], true, .none⟩).wf = true ∧ (Instr.nop .plain).wf = true ∧ (Instr.nop .plain).hdr = some .plain ∧
      (Hdr.plain.t = false) ∧ pfx.find? (fun p => !(Instr.nop .plain).accepts.ok p) = some (.round .rne 0) := by and_intros <;> decide +kernel

/-- Record 1 runs with two strands in its barrier. -/
def barred (count : Nat) : State := { launched with
  dies := [(0, { die0 with recx := [(1, { launch := 1, barCount := count, barSize := 2 })] })]
  cores := [(0, { part := 0x000080, portmap := 0, stitch := some { id := ⟨0, 1, 1⟩, sections := 1 } })] }

/-- R223, R242, R243: an arrival below the size waits, the last one completes the phase; `stitch.end` keeps its word. -/
theorem test_barrier :
    leaves (.cbar .plain 7) (barred 0) (fun t => t.me.arrived && (t.recx 0 1).barCount == 1 && t.me.wait == some ⟨.cbar, 0, some 112⟩) = true ∧
    leaves (.cbar .plain 7) (barred 1) (fun t => (t.recx 0 1).barCount == 0 && (t.recx 0 1).barPhase == 1 && t.me.pc == 0x1008) = true ∧
    leaves (.stitchEnd .plain 1) (barred 0) (fun t => t.me.phase == .ended && t.me.endWord == some 7 && t.me.pc == 0x1000) = true := by decide +kernel

/-- O45: a last arrival and one before it, a strand without a stitch, a phase that has completed. -/
theorem wit_barrier :
    passes (.cbar .plain 7) (barred 0) ∧ (barred 0).me.wait = none ∧ (barred 0).me.arrived = false ∧
    (barred 0).kore.stitch = some { id := ⟨0, 1, 1⟩, sections := 1 } ∧ ((barred 0).recx 0 1).barCount + 1 < ((barred 0).recx 0 1).barSize ∧
    ((barred 1).recx 0 1).barSize ≤ ((barred 1).recx 0 1).barCount + 1 ∧ (mach [] [] []).kore.stitch = none ∧
    (let s := (barred 0).setMe { (barred 0).me with wait := some ⟨.cbar, 0, some 112⟩ }
     passes (.cbar .plain 7) s ∧ s.me.arrived = false) := by and_intros <;> decide +kernel

/-- R293-R295: a posted party count; the only arrival begins the recast to the Stream role; an arrival of no bolts in place
is refused (ROLE, sub-code 2); `recast.wait` refreshes, or waits while a recast is pending. -/
theorem test_recasts :
    let s := memo .loose 3 [(3, 0), (4, 1), (5, 3)] []
    leaves (.rgnParties .plain 1 9) s (fun t => (t.die 0).parties == [⟨t.myLaunch, 0, s.me.hget 1, 9⟩] && t.me.pc == 0x1008) = true ∧
    leaves (.recastArrive .plain .fixed false false 1 3 4) s (fun t => rgnState t 0 1 == 2 && arrivedOf t 0 1 == 1 && hSpace (t.me.hget 1) == .fixed) = true ∧
    leaves (.recastArrive .plain .fixed false false 1 3 5) s (fun t => t.me.tcause == 0x20A && rgnState t 0 1 == 1) = true ∧
    leaves (.recastArrive .plain .fixed false false 1 3 5) (s.setKore { s.kore with stitch := some {} })
      (fun t => t.me.tcause == 0x20A && t.kore.stitch.any (fun y => !y.restartable)) = true ∧
    leaves (.recastWait .plain 1 3) s (fun t => t.me.hget 1 == s.me.hget 1 && t.me.pc == 0x1008) = true ∧
    leaves (.recastWait .plain 1 3) (s.setRgnx 0 1 { s.rgnx 0 1 with poisoned := [(6, 0, 1)] }) (fun t => (t.me.hget 1).getLsbD 253) = true ∧
    leaves (.recastWait .plain 1 3) (s.setRgnx 0 1 { s.rgnx 0 1 with poisoned := [(6, 1, 2)] }) (fun t => !(t.me.hget 1).getLsbD 253) = true ∧
    leaves (.recastWait .plain 1 3) (s.setRgnWord 0 1 0x10 (1 + 1 * 2 ^ 48)) (fun t => t.me.wait == some ⟨.recast 1 (s.me.hget 1), 0, some 48⟩) = true := by
  decide +kernel

/-- O46: a handle on a live region; the only arrival, and one that is refused; a recast pending and none; two generations. -/
theorem wit_recasts :
    let s := memo .loose 3 [(3, 0), (4, 1), (5, 3)] []
    let hb := s.me.hget 1
    let q : Ask := ⟨.fixed, false, false, 0, 1⟩
    passes (.recastArrive .plain .fixed false false 1 3 4) s ∧ owns s .w ∧ owns s .m ∧ hLegal hb = true ∧ reservedDie (hBase hb) = false ∧
      s.me.pure = false ∧ (s.die (homeOf (hBase hb))).parties = [] ∧ s.clusters = [] ∧ rgnState s 0 1 = 1 ∧
      askAllowed s s.myTenant hb 0 1 q = true ∧ askRefused s 0 1 q 0 1 = 0 ∧ arrivedOf s 0 1 < 4095 ∧
      askRefused s 0 1 ⟨.fixed, false, false, 0, 3⟩ 0 3 = 2 ∧ s.kore.stitch = none ∧ hRegion hb ≠ 0 ∧
      bits (s.rgnWord 0 1 0x18) 24 7 = s.myTenant ∧ vaDie (hBase hb) = rgnDie 0 1 ∧ rgnBase s 0 1 ≤ vaOff (hBase hb) ∧
      extentEnd hb < rgnBase s 0 1 + 65536 * rgnBolts s 0 1 ∧ waitingRuns s hb = [] ∧ extentRuns s hb = [(0, .loose, 5)] ∧
      waitingRuns (s.setRgnWord 0 1 0x10 (1 + 1 * 2 ^ 48)) hb = [(0, .loose, 5)] ∧ 
      (let t := s.setKore { s.kore with stitch := some {} }
       t.kore.stitch = some {} ∧ askAllowed t t.myTenant hb 0 1 q = true ∧ askRefused t 0 1 ⟨.fixed, false, false, 0, 3⟩ 0 3 = 2) ∧
      (let t := put s [(0x100108, 8, 2 + 6 * 2 ^ 32 + 1 * 2 ^ 48 + 1 * 2 ^ 60), (0x100148, 8, 1 + 3 * 2 ^ 32 + 6 * 2 ^ 34)]
       extentRuns t (hand .loose 3 0xFFF0) = [(0, .loose, 5), (1, .loose, 6)] ∧ waitingRuns t (hand .loose 3 0xFFF0) = []) := by and_intros <;> decide +kernel

/-- Records 0 to 3 of die 0, of tenant 0, in states Idle, Armed (WAITC 1), Running and Done (STATUS 9, REUSED); s1-s4 name them. -/
def rc : State := mach [(2, 1), (3, 2), (4, 3), (5, 2 ^ 17), (6, 0x12345)] []
  [(0x200100, 8, 2), (0x200110, 8, 1 * 2 ^ 16), (0x200200, 8, 4), (0x200300, 8, 5 + 2 ^ 9 + 9 * 2 ^ 32), (0x200328, 8, 3)]

/-- R298-R308, R322: arms, patches, waits, counts and names; PERM's sub-codes. -/
theorem test_records :
    leaves (.lrecPatch .plain 1 2 6) rc (fun t => t.me.tcause == 0x40C) = true ∧
    leaves (.lrecPatch .plain 4 9 6) rc (fun t => t.recWord 0 3 0x48 == 0x12345 && t.recWord 0 3 0x28 == 2 && t.recWord 0 3 0 == 1 && t.me.pc == 0x1008) = true ∧
    leaves (.lrecPatch .plain 3 9 6) rc (fun t => t.me.tcause == 0x30C && t.me.tval == 2) = true ∧
    leaves (.lrecArm .plain 1) rc (fun t => t.recState 0 0 == 3 && (t.job 0 0).count == 1 && (t.recx 0 0).launch == 1) = true ∧
    leaves (.lrecArm .plain 2) rc (fun t => t.recState 0 1 == 3 && (t.job 0 0).count == 0 && bits (t.recWord 0 1 0x10) 16 16 == 0) = true ∧
    nine rc (.lrecWait .plain 9 4 0) = some (BitVec.ofNat 64 (5 + 8 + 9 * 2 ^ 32)) ∧
    leaves (.lrecWait .plain 9 3 2) rc (fun t => t.me.wait == some ⟨.lrec 2, 0, some 32⟩) = true ∧
    leaves (.lrecWait .plain 9 5 2) rc (fun t => t.me.tcause == 0x10C) = true ∧
    nine (rc.setJob 0 1 { count := 3 }) (.jobCount .plain 9 2) = some 3 ∧
    leaves (.jobWait .plain 2 0) (rc.setJob 0 1 { count := 3 }) (fun t => t.me.tcause == 9 && t.me.tval == BitVec.ofNat 64 (5 * 2 ^ 60 + 3)) = true ∧
    leaves (.jobWait .plain 2 0) rc (fun t => t.me.pc == 0x1008) = true ∧
    leaves (.sinval .plain) (rc.setDie 0 { rc.die 0 with sampler := [{ tenant := 1 }, {}] }) (fun t => (t.die 0).sampler.map (·.tenant) == [1]) = true := by
  decide +kernel

/-- O47: a patch taken and refused, arms in every state, a record under way and one done, a full and an empty job, a name that
is none and one of another tenant. -/
theorem wit_records :
    rc.me.pure = false ∧ passes (.lrecPatch .plain 4 9 6) rc ∧ owns rc .w ∧ rc.recTenant 0 3 = rc.myTenant ∧
    patchRefused rc 0 3 9 0x12345 = none ∧ patchLimited rc 0 rc.myTenant 9 0x12345 = false ∧ patchRefused rc 0 2 9 0 = some 3 ∧
    (rc.recState 0 0 = 0 ∧ rc.recState 0 1 = 2 ∧ rc.recState 0 2 = 4 ∧ rc.recState 0 3 = 5) ∧
    (let jd := (rc.recJob 0 0).1
     let j := (rc.recJob 0 0).2
     (rc.job jd j).tenant.toNat = rc.myTenant ∧ (rc.job jd j).count ≠ BitVec.allOnes 32 ∧
     ((rc.setJob jd j { count := BitVec.allOnes 32 }).job jd j).count = BitVec.allOnes 32 ∧
     ((rc.setJob jd j { tenant := 1 }).job jd j).tenant.toNat ≠ rc.myTenant) ∧
    (migHolds rc (BitVec.ofNat 56 (rc.recWord 0 0 8)) = false ∧ rc.me.wait = none ∧
      migHolds (rc.setDie 0 { rc.die 0 with migQueue := [⟨false, 0, 0⟩] }) (BitVec.ofNat 56 (rc.recWord 0 0 8)) = true) ∧
    (rc.job 0 1).count = 0 ∧ ((rc.setJob 0 1 { count := 3 }).job 0 1).count ≠ 0 ∧
    ¬ ((rc.sget 5).toNat < 2 ^ 17 ∧ nameDie (rc.sget 5) ≤ 23) ∧ (put rc [(0x200302, 1, 2 ^ 7)]).recTenant 0 3 ≠ rc.myTenant := by and_intros <;> decide +kernel

/-- A descriptor at 3 MiB + 32 KiB: one member, INT64, four elements of one dimension, no exchange; h1 names it. -/
def cl : State := (memo .loose 4 [(3, 24)] [(0x308000, 8, 1 + 2 ^ 8 + 2 ^ 11 + 2 ^ 24), (0x308008, 8, 1 + 2 ^ 16 + 2 ^ 32),
  (0x308010, 8, 8 + 4 * 2 ^ 16 + 2 ^ 32 + 2 ^ 48), (0x308018, 8, 0xFF + 0xFF * 2 ^ 16), (0x308020, 32, (hand .loose 3 0).toNat),
  (0x308040, 32, (hand .loose 3 0x1000).toNat), (0x308060, 8, 1)]).setMe (((memo .loose 4 [(3, 24)] []).me.hset 1 (hand .loose 4 0x8000)).hset 2
    (hand .loose 4 0x9000))

/-- R357, R359: an accepted collective starts, one that is not completes at once; `cwait` reads its word or waits. -/
theorem test_collectives :
    leaves (.reshard .plain 9 1) cl (fun t => (t.die 0).colls.map (·.num) == [0] && (t.die 0).collNext == 1 && t.me.pc == 0x1008) = true ∧
    leaves (.reshard .plain 9 2) cl (fun t => (t.die 0).colls == [] && (t.die 0).collWords == [(0, BitVec.ofNat 64 (2 ^ 40 + 2 ^ 39 + 3 * 2 ^ 36))]) = true ∧
    leaves (.cwait .plain 9 0 4) cl (fun t => t.me.wait == some ⟨.cwait 0, 0, some 64⟩) = true ∧
    nine (cl.setDie 0 { cl.die 0 with collNext := 1, collWords := [(0, 77)] }) (.cwait .plain 9 0 4) = some 77 := by decide +kernel

/-- O48: an accepted descriptor and one of zeros, both reached; a word that is held and one that is not. -/
theorem wit_collectives :
    let go (h : BitVec 4) (ok : Bool) : Prop :=
      let s := cl
      let hb := s.me.hget h
      let some' (lo n : Nat) : List Byte := (List.range n).map (fun j => s.byte (BitVec.toNat (hBase hb + BitVec.ofNat 56 (lo + j))))
      let head := some' 0 0x100
      let size := if (lpM head == lpMembers head) then 4 * lpM head else 0
      let desc := head ++ some' 0x100 size
      passes (.reshard .plain 9 h) s ∧ owns s .w ∧ fits hb .loose (hWidth hb) ∧ s.me.pure = false ∧ s.me.taken = none ∧ s.me.absent = [] ∧
        reaches s hb .loose { rd := true } false 8 (descElems hb 0 0x100) BitVec.toNat ∧
        reaches s hb .loose { rd := true } false 8 (descElems hb 0x100 size) BitVec.toNat ∧ (s.die 0).colls.length < 64 ∧
        ((lpM head == lpMembers head) && lpAccepted desc (((s.die 0).module_).toNat, 0)) = ok ∧ lpTrk desc = false ∧
        (s.die 0).colls = [] ∧ (s.die 0).tracks = [] ∧ (s.kore.engine 3).queue = [] ∧ olderCmds s 3 = 0 ∧ (s.kore.engine 3).blocked = false ∧
          s.frozen s.myCore = false
    go 1 true ∧ go 2 false ∧ ((cl.kore.setEngine 3 { heldEntries := [(0, none)] }).engine 3).blocked = true ∧ collWord cl 0 = none ∧ collWord (cl.setDie 0 { cl.die 0 with collNext := 1, collWords := [(0, 77)] }) 0 = some 77 := by
  refine ⟨⟨by decide +kernel, by decide +kernel, by decide +kernel, (by decide +kernel), by decide +kernel, by decide +kernel,
    reached ⟨rfl, rfl⟩ (by decide +kernel) (by decide +kernel), reached ⟨rfl, rfl⟩ (by decide +kernel) (by decide +kernel), by decide +kernel, by decide +kernel,
    by decide +kernel, (by decide +kernel), by decide +kernel⟩, ⟨by decide +kernel, by decide +kernel, by decide +kernel, (by decide +kernel), by decide +kernel, by decide +kernel,
    reached ⟨rfl, rfl⟩ (by decide +kernel) (by decide +kernel), reached ⟨rfl, rfl⟩ (by decide +kernel) (by decide +kernel), by decide +kernel, by decide +kernel,
    by decide +kernel, (by decide +kernel), by decide +kernel⟩, by decide +kernel, by decide +kernel⟩

/-! ### Events of strands, engines and arrays -/

/-- `bt` with strand 0 in a wait since cycle 0 with a limit of 16 cycles, at cycle 16. -/
def wt (w : WaitKind) : State := { bt.setMe { bt.me with wait := some ⟨w, 0, some 16⟩ } with cycle := 16 }

/-- R55, R113: at the limit WAIT (9) is raised; a cycle earlier nothing happens. -/
theorem test_expiry :
    leaves (.tokTakeExpiry 0) (wt (.tok 3 6)) (fun t => t.me.tcause == 9 && t.me.tval == BitVec.ofNat 64 (2 ^ 60 + 3 * 2 ^ 56 + 5 * 2 ^ 28 + 6) && t.me.wait == none) = true ∧
    leaves (.tokTakeExpiry 0) { wt (.tok 3 6) with cycle := 15 } (fun t => t.me.tcause == 0 && t.me.wait.isSome && t.cycle == 16) = true ∧
    leaves (.cbarExpiry 0) { (barred 1).setMe { (barred 1).me with arrived := true, wait := some ⟨.cbar, 0, some 16⟩ } with cycle := 16 }
      (fun t => t.me.tcause == 9 && (t.recx 0 1).barCount == 0) = true := by decide +kernel

/-- O49: a wait of each kind at its limit that still fails. -/
theorem wit_expiry :
    (let s := wt (.tok 3 6)
     s.me.wait = some ⟨.tok 3 6, 0, some 16⟩ ∧ s.me.phase = .running ∧ s.frozen 0 = false ∧ 16 ≤ (s.cycle - 0).toNat ∧ s.me.arrived = false ∧
      (s.kore.tq 3).count < 6) ∧
    bt.me.wait = none ∧ ((wt (.bandFull 0)).kore.isFull 0 = true ∧ (bt.setKore { bt.kore with full := 0 }).kore.isFull 5 = false) ∧
    canTake (wt (.bandEmpty 7)) 0 7 = false ∧ ((wt (.cpwait 1 257)).kore.wptrOf 1 - 257).msb = true ∧ ((wt (.cqpop 2)).kore.engine 2).comp = [] ∧
    (let q : Cmd := { parcels := 0x386 * 2 ^ 20 }
     let s := (wt .mrestore).setCluster 0 { queue := List.replicate 16 {} ++ [q] }
     16 ≤ (s.cluster 0).queue.length ∧ q ∈ pendingCmds (s.cluster 0) ∧ q.opc = 0x386 ∧ q.done = false) ∧
    (let s := wt (.cmdq 0)
     (16 ≤ ((s.setKore (s.kore.setEngine 0 { queue := List.replicate 16 {} })).kore.engine 0).queue.length + olderCmds s 0) ∧
      (let t := (wt (.cmdq 1)).setCluster 0 { queue := List.replicate 16 {} }
       16 ≤ (t.cluster 0).queue.length + olderCmds t 1) ∧
      (let t := behind.setKore (behind.kore.setEngine 0 { queue := List.replicate 15 {} })
       16 ≤ (t.kore.engine 0).queue.length + olderCmds t 0)) ∧
    (let s := rg (pointers 4 4 2 0 0 0 0)
     ringN s 0 1 ≤ ringPtr s 0 1 0 - ringPtr s 0 1 2 ∧ ringPtr s 0 1 0 ≤ ringPtr s 0 1 1) ∧
    (waitingRuns ((memo .loose 3 [] []).setRgnWord 0 1 0x10 (1 + 1 * 2 ^ 48)) (hand .loose 3 0)).map (·.2.2) = [5] ∧
    (let s := rc.setJob 0 1 { count := 3 }
     s.recState 0 1 ≠ 5 ∧ s.recState 0 1 ≠ 6 ∧ (s.job 0 1).count ≠ 0) ∧
    collWord (wt (.cwait 0)) 0 = none ∧
    (let s := (wt .collectives).setDie 0 { colls := List.replicate 64 {}, tracks := List.replicate 250 {} }
     64 ≤ (s.die 0).colls.length ∧ 256 < (s.die 0).tracks.length + 7) ∧
    (let s := { (barred 1).setMe { (barred 1).me with arrived := true, wait := some ⟨.cbar, 0, some 16⟩ } with cycle := 16 }
     s.me.arrived = true ∧ s.kore.stitch.isSome = true) := by and_intros <;> decide +kernel

/-- What an outcome leaves; the state after reset where it stops. -/
def out (o : Host.Outcome State Fault Refusal) : State :=
  match o with
  | .next t => t
  | _ => State.reset

/-- A `cpin` on channel 1 into band row 5 of h1's tile, posting to queue 2, captured; the tile's element 31 is 9. -/
def ci : State := out (exec (.cpin .plain 1 5 1 3 none (some 2)) (filled .loose))
/-- A `cpout` of band row 5, full of l + 3 and poisoned, that waits for a token of queue 1, which has one. -/
def co : State :=
  let s := (filled .loose).setKore { (filled .loose).kore with full := 0#512 - 1, band := [(5, { row32 (· + 3) with poison := true })], tok := [(1, { count := 1 })] }
  out (exec (.cpout .plain 1 5 1 3 (some 1) none) s)
/-- A `sacc.add.i32` of two updates on indices of row 5, values of row 6, captured. -/
def ca (n : Word) (h : BitVec 4) : State :=
  let s := (memo .accrue 3 [(3, n)] []).setMe ((memo .accrue 3 [(3, n)] []).me.hset 2 (hand .loose 3 0))
  let s := s.setKore { s.kore with full := 0#512 - 1, band := [(5, row32 (fun l => 30 + l)), (6, row32 (· + 3))] }
  out (exec (.saccAdd .plain .i32 h 5 6 3) s)

/-- A run of instructions and events. -/
def runs (l : List Instr) (s : State) : State := l.foldl (fun s i => out (exec i s)) s

/-- R179-R184, R195, R196: the command takes its token, moves its row, WPTR goes on by 256, the entry and the token are placed;
a queue of 32 entries holds both. -/
theorem test_copies :
    (let t := runs [.engineCommandStart 0 0 1, .copyRowDelivery 0 1] ci
     elem 32 (tget {} t.kore.band 5).bits 0 == 7 && elem 32 (tget {} t.kore.band 5).bits 31 == 9 && elem 32 (tget {} t.kore.band 5).bits 32 == 0 &&
      t.kore.isFull 5 && t.kore.wptrOf 1 == 256) = true ∧
    (let t := runs [.engineCommandStart 0 0 1, .copyRowDelivery 0 1, .engineCompletion 0 0 1] ci
     (t.kore.engine 0).comp == [0x100000100] && (t.kore.tq 2).count == 1 && (t.kore.engine 0).running == []) = true ∧
    (let s := runs [.engineCommandStart 0 0 1, .copyRowDelivery 0 1] ci
     let t := out (exec (.engineCompletion 0 0 1) (s.setKore (s.kore.setEngine 0 { s.kore.engine 0 with comp := List.replicate 32 1 })))
     (t.kore.engine 0).heldEntries == [(0x100000100, some 2)] && (t.kore.tq 2).count == 0) = true ∧
    (let t := runs [.engineCommandStart 0 0 1, .copyRowDelivery 0 1] co
     t.num 0x300000 4 == 3 && t.num 0x30007C 4 == 34 && t.num 0x300080 4 == 0 && t.blockPoison 0x300000 && t.kore.isFull 5 && (t.kore.tq 1).count == 0) = true := by decide +kernel

/-- R171's table: C is strand 1 at a unit that first issued in cycle `age`, S is strand 2 at `stl h1, s20, v4`; 672 rows each. -/
def banks (unit : Instr) (age : Word) (cRuns sRuns : Bool) : State :=
  let code := [(0x1100, unit), (0x1200, .stl .plain .w32 false (.row (.v 4)) 1 20)].flatMap (fun e => (encode e.2).zipIdx.map (fun w => (e.1 + 4 * w.2, 4, w.1)))
  let x := strand0 [(20, 4)] [(1, hand .loose 3 0)]
  { (mach [] [] (region1 .loose ++ code)).setKore { part := 0x2A2A2A } with
    cycle := 11
    strands := [(1, { x with pc := 0x1100, age := some age, phase := if cRuns then .running else .idle }),
                (2, { x with pc := 0x1200, age := some 10, phase := if sRuns then .running else .idle })] }

/-- R171: cycles 10 and 11 of its table; a strand alone, and rows of other banks, lose nothing. -/
theorem test_banks :
    leaves (.bankReplay 0 4) (banks (.vadd .plain .f32 0 (.v 5) (.row (.v 4)) (.row (.v 6))) 10 true true) (fun t =>
      t.kore.bankloss == [(4, 1)] && (t.strand 1).got == [4] && (t.strand 2).got == []) = true ∧
    leaves (.bankReplay 0 4) (banks (.vmul .plain .f32 0 (.v 7) (.row (.v 4)) (.row (.v 8))) 11 true true) (fun t =>
      t.kore.bankloss == [(4, 1)] && (t.strand 1).got == [] && (t.strand 2).got == [4]) = true ∧
    leaves (.bankReplay 0 4) (banks (.vmul .plain .f32 0 (.v 7) (.row (.v 4)) (.row (.v 8))) 11 false true) (fun t => t.kore.bankloss == []) = true ∧
    leaves (.bankReplay 0 8) (banks (.vmul .plain .f32 0 (.v 7) (.row (.v 4)) (.row (.v 8))) 11 true true) (fun t => t.kore.bankloss == []) = true ∧
    leaves (.bankReplay 0 4) (banks (.vmul .plain .f32 0 (.v 7) (.row (.v 3)) (.row (.v 8))) 11 true true) (fun t => t.kore.bankloss == []) = true := by
  decide +kernel

/-- R195, R241: a handle of another space gives a poisoned zero row and a status; scatter updates go to the window. -/
theorem test_scatter :
    (let s := out (exec (.cpin .plain 1 5 1 3 none none) (filled .accrue))
     let t := runs [.engineCommandStart 0 0 1, .copyRowDelivery 0 1] s
     tget {} t.kore.band 5 == ⟨0, true⟩ && ((t.kore.engine 0).running.map (·.status)) == [10]) = true ∧
    leaves (.engineCommandStart 0 2 0) (ca 2 1) (fun t => (t.cluster 0).window.map (fun e => (e.va, e.op)) ==
      [(0x300078, .int 0 32 3), (0x30007C, .int 0 32 4)] && ((t.kore.engine 2).running.map (·.count)) == [2]) = true ∧
    leaves (.engineCommandStart 0 2 0) (ca 8193 1) (fun t => ((t.kore.engine 2).running.map (fun q => (q.status, q.poison, q.done))) == [(1, true, true)]) = true ∧
    leaves (.heldEntryEnter 0 1) (ci.setKore (ci.kore.setEngine 1 { heldEntries := [(8, none)], comp := [7] })) (fun t => (t.kore.engine 1).comp == [7, 8]) = true := by
  decide +kernel

/-- O50: starts with a token, with none and with no wait; a queue of scatter commands of no, two and too many updates; a row of
each direction and one whose handle fails; entries that are placed and held. -/
theorem wit_engines :
    ((ci.kore.engine 0).heldEntries = [] ∧ ci.frozen 0 = false ∧ (ci.kore.engine 0).running = [] ∧
      (ci.kore.engine 0).queue.map (fun c => (c.chan, c.waitQ)) = [(1, none)] ∧
      (ci.kore.engine 0).comp.length < 32 ∧ scatterNext ci (clusterOf 0) ≠ some 0) ∧
    ((List.range 3).filter (needsBank (banks (.vadd .plain .f32 0 (.v 5) (.row (.v 4)) (.row (.v 6))) 10 true true) 4) = [1, 2] ∧
      (List.range 3).filter (needsBank ci 4) = []) ∧
    ((co.kore.engine 0).queue.map (fun c => (c.waitQ, c.tokenTaken)) = [(some 1, false)] ∧ 0 < (co.kore.tq 1).count ∧
      (co.kore.engine 0).queue.all (fun c => !olderTake co 0 1 (c.tokSince.getD co.cycle) (3 + 1)) = true ∧
      ((co.setKore (co.kore.setTq 1 {})).kore.tq 1).count = 0 ∧
      (let s := out (exec (.engineCommandStart 0 0 1) (co.setKore (co.kore.setTq 1 {})))
       (s.kore.engine 0).queue.map (·.tokSince) = [some co.cycle])) ∧
    ([0, 2, 8193] : List Word).all (fun n => let y := (ca n 1).kore.engine 2
     y.heldEntries.isEmpty && y.running.isEmpty && scatterNext (ca n 1) (clusterOf 0) == some 0 &&
     y.queue.map (fun c => (c.scalar, c.rows, c.saccW, hSpace c.handle, c.band, c.valueBand)) == [(n, 0, 32, .accrue, 5, 6)]) = true ∧
    ((ca 2 1).kore.isFull 5 = true ∧ (ca 2 1).kore.isFull 6 = true ∧ ∀ j, j < 2 → elem 32 (tget {} (ca 2 1).kore.band 5).bits j < hCount (hand .accrue 3 0)) ∧
    (let s := runs [.engineCommandStart 0 0 1] ci
     let h := hand .loose 3 0
     (runningCmd (s.kore.engine 0) 0 1).any (fun c => !c.done && c.status == 0 && copyCause c == none && !c.isOut && c.handle == h && c.strand == 0 &&
      c.band == 5 && bandFree s 0 5 c.issued) = true ∧ s.me.taken = none ∧
      reaches s h .loose { rd := true } false (hWidth h) ((tileRowElems h 0).filter
        (fun q => (if hSpace h = .fixed then replicaOf s h q.va else none).isNone)) BitVec.toNat) ∧
    (let s := runs [.engineCommandStart 0 0 1] co
     let h := hand .loose 3 0
     (runningCmd (s.kore.engine 0) 0 1).any (fun c => !c.done && c.status == 0 && copyCause c == none && c.isOut && c.handle == h && c.band == 5) = true ∧
      s.kore.isFull 5 = true ∧ reaches s h .loose { wr := true } false (hWidth h) (tileRowElems h 0) BitVec.toNat ∧ ∀ q ∈ tileRowElems h 0, trackFull s q.va = false) ∧
    (runningCmd ((runs [.engineCommandStart 0 0 1] (out (exec (.cpin .plain 1 5 1 3 none none) (filled .accrue)))).kore.engine 0) 0 1).any
      (fun c => copyCause c == some 10) = true ∧
    (let s := runs [.engineCommandStart 0 0 1, .copyRowDelivery 0 1] ci
     (runningCmd (s.kore.engine 0) 0 1).any (fun c => c.done && c.postQ == some 2) = true ∧ (s.kore.engine 0).heldEntries = [] ∧ (s.kore.engine 0).comp.length < 32 ∧
      (s.kore.tq 2).count < 63) := by
  refine ⟨by decide +kernel, by decide +kernel, by decide +kernel, (by decide +kernel), by decide +kernel, ⟨by decide +kernel, by decide +kernel,
      reached (by decide +kernel) (by decide +kernel) (by decide +kernel)⟩,
    ⟨by decide +kernel, by decide +kernel, reached (by decide +kernel) (by decide +kernel) (by decide +kernel), by decide +kernel⟩, by decide +kernel,
    by decide +kernel⟩

/-- Row 0 of A and column 0 of B of a K-step: BF16 1.5 and 2.0, then 0; INT8 -3 × 5 and 2 × 7. -/
def ks (a b : List Nat) (w : Nat) : StepData := { a := joinElems w a, md := 0, scale := 0, cols := [joinElems w b], bscale := [] }

/-- R38, R203: an accumulator takes the rounded sum of its products, or the integer sum mod 2^32. -/
theorem test_products :
    let f : MmaOp := { ta := .bf16, tb := .bf16, tc := false, st := false, sp := false, x := .none, n := 1, first := 0, fromLx := false }
    let i : MmaOp := { f with ta := .i8, tb := .i8, tc := true }
    (elementStep f [ks [0x3FC0, 0x3F80] [0x4000, 0x3F80] 16] 0 0 0x3F800000).1 = 0x40A00000 ∧
    (elementStep f [ks [0x7F80] [0] 16] 0 0 0).2.nv = true ∧
    (elementStep i [ks [0xFD, 2] [5, 7] 8] 0 0 0xFFFFFFFF).1 = BitVec.ofInt 32 (-2) := by decide +kernel

/-- A cluster whose array runs a command of core 0, with accumulators 0 and 300 set and the invalid flag. -/
def ar (c : Cmd) : State := (filled .loose).setCluster 0
  { arr := { acc := [(0, 0x3F800000), (300, 0x40000000)], aflags := 1, poison := true, kcur := 4 }, running := some c }

/-- Parcels of an `mdrain` of FP32 into band rows from 8. -/
def md8 : Cmd := { parcels := BitVec.ofNat 64 (0x384 * 2 ^ 20 + 0x108 * 2 ^ 32 + (OutFmt.fp32).code * 2 ^ 60), started := true }

/-- R209-R212, R225, R236, R239: a grant, the end of a lease in cycles, `mzero`, a drained row, AFLAGS after one that overflows FP16, an
entry. -/
theorem test_array :
    (let s := (filled .loose).setKore { (filled .loose).kore with stitch := some { id := ⟨0, 1, 1⟩, dkeep := 9 } }
     let s := s.setCluster 0 { arr := { acc := [(7, 1)], kcur := 3 }, requests := [{ core := 0, budget := 5 }] }
     leaves (.leaseGrant 0) s (fun t => (t.cluster 0).lease.any (fun l => l.left == 5) && (t.cluster 0).arr.acc == [] && (t.cluster 0).arr.dkeep == 9 &&
      (t.cluster 0).grants == 1 && (t.cluster 0).requests == [])) = true ∧
    (let s := { filled .loose with cycle := 50 }
     leaves (.leaseCycleExpiry 0) (s.setCluster 0 { lease := some { byCycles := true, left := 50 }, queue := [{ seq := 3 }, { seq := 4 }] }) (fun t =>
      (t.cluster 0).lease == none && (t.cluster 0).disc == 2 && (t.kore.engine 1).comp == [0x00030F1000000002])) = true ∧
    leaves (.matrixCommandStart 0) ((filled .loose).setCluster 0 { arr := { acc := [(7, 1)], kcur := 3 }, queue := [{ parcels := 0x382 * 2 ^ 20 }] }) (fun t =>
      (t.cluster 0).arr.acc == [] && (t.cluster 0).arr.kcur == 0 && (t.cluster 0).running.any (·.done)) = true ∧
    leaves (.matrixCommandStart 0) (ar { md8 with rows := 1 }) (fun t => elem 32 (tget {} t.kore.band 12).bits 44 == 0x40000000 &&
      (tget {} t.kore.band 12).poison && t.kore.isFull 15 && !t.kore.isFull 16 && (t.cluster 0).running.any (fun c => c.rows == 2 && !c.done)) = true ∧
    leaves (.matrixCommandStart 0) ((ar { md8 with rows := 1, parcels := BitVec.ofNat 64 (0x384 * 2 ^ 20 + 0x108 * 2 ^ 32 + (OutFmt.fp16).code * 2 ^ 60) }).setCluster 0
      { (ar md8).cluster 0 with arr := { acc := [(300, 0x7F000000)], aflags := 1 }, running := some { md8 with rows := 1, parcels := BitVec.ofNat 64 (0x384 * 2 ^ 20 + 0x108 * 2 ^ 32 + (OutFmt.fp16).code * 2 ^ 60) } })
      (fun t => (t.cluster 0).arr.aflags == 21 && (t.cluster 0).arr.acc == [(300, 0x7F000000)]) = true ∧
    leaves (.matrixCommandComplete 0) (ar { md8 with done := true, count := 65536, seq := 2 }) (fun t => (t.cluster 0).running == none &&
      (t.kore.engine 1).comp == [BitVec.ofNat 64 (2 * 2 ^ 48 + 2 ^ 36 + 2 ^ 31 + 65536)]) = true := by decide +kernel

/-- O51: a request of the only stitch, a lease in cycles at its end with and without commands, and commands of each kind. -/
theorem wit_array :
    (let s := (filled .loose).setKore { (filled .loose).kore with stitch := some { id := ⟨0, 1, 1⟩ } }
     let s := s.setCluster 0 { requests := [{ core := 0, budget := 5 }] }
     bestRequest s (s.cluster 0).requests = some { core := 0, budget := 5 } ∧ (s.cluster 0).lease = none ∧ (s.core 0).stitch.isSome = true ∧
      (let t := s.setKore { s.kore with stitch := none }
       bestRequest t (t.cluster 0).requests = some { core := 0, budget := 5 } ∧ (t.core 0).stitch = none)) ∧
    (let s := { filled .loose with cycle := 50 }
     s.frozen 0 = false ∧ 50 ≤ (s.cycle - 0).toNat ∧ (∀ j, j < 8 → ((s.core (8 * 0 + j)).engine 1).heldEntries = []) ∧
      (s.kore.engine 1).comp.length < 32 ∧ ({ byCycles := true, left := 50 } : Lease).reload = none) ∧
    (let c : Cmd := { md8 with rows := 255 }
     let x := (ar c).cluster 0
     c.opc = 0x384 ∧ tableWf 0 x.arr.acc = true ∧ x.arr.tc = false ∧ c.drainRes = false ∧ c.drainDrop = false ∧ c.drainWh = false ∧ c.rows < 256 ∧ c.out = [] ∧
      c.drainBand = some 8 ∧ outFmt (bits c.parcels.toNat 60 4) = .fp32 ∧ ∀ j, j < 4 → bandFree (ar c) 0 ((8 + c.rows * 4 + j) % 512) c.issued = true) ∧
    (let s := ar { md8 with done := true }
     ((s.kore.engine 1).heldEntries = [] ∧ (s.kore.engine 1).comp.length < 32 ∧ (s.cluster 0).lease = none)) ∧
    (Cmd.opc { parcels := 0x382 * 2 ^ 20 } = 0x382) := by and_intros <;> decide +kernel

/-- O52: an INT8 and a BF16 step, from full band rows and from lx. -/
theorem wit_step :
    let c (p : Nat) (code : Nat) : Cmd := { parcels := BitVec.ofNat 64 (0x383 * 2 ^ 20 + code * 2 ^ 32 + p), started := true }
    let bf := c 0 0x308
    let i8 := c ((MTy.i8).code * 2 ^ 60 + (MTy.i8).code * 2 ^ 56 + 2 ^ 55) 0x108
    let s := (ar i8).setKore { (ar i8).kore with full := BitVec.allOnes 512 }
    (bf.opc = 0x383 ∧ (mmaOf bf).x = .none ∧ (mmaOf bf).sp = false ∧ (mmaOf bf).fromLx = true ∧
      comboOk (mmaOf bf).ta (mmaOf bf).tb (mmaOf bf).tc .none false = true) ∧
    (comboOk (mmaOf i8).ta (mmaOf i8).tb (mmaOf i8).tc .none false = true ∧ (mmaOf i8).tc = true ∧ s.frozen 0 = false ∧
      ∀ j, j < 32 → s.kore.isFull (((mmaOf i8).first + 0 + j) % 512) = true) ∧
    panelPending (ar bf) bf.handle (4 / stepsPerGranule (mmaOf bf).tb * 16384) = false ∧ ((ar bf).cluster 0).arr.tc = (mmaOf bf).tc ∧ tableWf 0 ((ar bf).cluster 0).arr.acc = true := by and_intros <;> decide +kernel

/-! ### The queue manager -/

/-- Record 1 of die 0 in a state, for cluster 0, its save blocks at 8 MiB; record 2 Ready at priority 5. Both have a pricking of 10 elements
in tiles of 4, free placement on core 0, a section of strand 0 at parcel 2 of 0x1000, and h0. -/
def qm (st : Nat) (x : RecX) (more : List (Nat × Nat × Nat)) : State :=
  let pk (a : Nat) : List (Nat × Nat × Nat) := [(a, 8, 1 + 2 ^ 8 + 2 ^ 11 + 2 ^ 13 + 2 ^ 16), (a + 0x10, 4, 10), (a + 0x28, 4, 4), (a + 0x58, 8, 0x80),
    (a + 0x88, 8, 0x1000), (a + 0x90, 8, 2), (a + 0xA0, 32, (hand .loose 3 0).toNat)]
  put { State.reset with
    boot := { state := .running }
    dies := [(0, { die0 with recx := [(1, x)] })] }
    ([(0x200100, 8, st), (0x200108, 8, 0x500000), (0x200110, 8, 1), (0x200130, 8, 0x800000)] ++ pk 0x500000 ++ region1 .loose ++ more)

/-- The stitch of record 1 on core 0, at position 1. -/
def st1 : Stitch := { id := ⟨0, 1, 1⟩, pos := 1, sections := 1 }

/-- Record 1 runs that stitch, with strand 0's section ended with 5, and record 2 is Ready at priority 5. -/
def qr (p : Phase) : State :=
  let s := qm 4 { launch := 1, next := 2, total := 3 } [(0x200200, 8, 3 + 5 * 2 ^ 10), (0x200208, 8, 0x500000), (0x200210, 8, 1)]
  { s with
    strands := [(0, { phase := p, sect := true, endWord := some 5 })]
    cores := [(0, { part := 0x80, portmap := 0, stitch := some st1, prev := some ⟨0, 1, 1⟩ })]
    dies := [(0, { die0 with recx := [(1, { launch := 1, next := 2, total := 3 }), (2, { launch := 1 })] })] }

/-- R81, R217, R219, R309, R381: a Ready record runs and starts position 0; a Running one starts its last position with a short
valid count; an illegal pricking fails the record and tells firmware. -/
theorem test_queue :
    leaves (.recordDispatch 0) (qm 3 { launch := 1 } []) (fun t => t.recState 0 1 == 4 && (t.recx 0 1).total == 3 && (t.core 0).stitch.any (fun y => y.pos == 0) &&
      (t.strand 0).pc == 0x1008 && (t.strand 0).sget 8 == 4 && (t.strand 0).hget 0 == hand .loose 3 0) = true ∧
    leaves (.stitchStart 0) (qm 4 { launch := 1, next := 2, total := 3 } []) (fun t => (t.core 0).stitch.any (fun y => y.pos == 2) && (t.strand 0).sget 1 == 2 &&
      (t.strand 0).sget 8 == 2 && (t.strand 1).phase == .idle && (t.recx 0 1).next == 3) = true ∧
    leaves (.recordDispatch 0) (qm 3 { launch := 1 } [(0x500000, 1, 2)]) (fun t => t.recState 0 1 == 6 && bits (t.recWord 0 1 0) 32 32 == 1 &&
      (t.die 0).notices == [.dispatch 1 1 0]) = true := by decide +kernel

/-- R82, R186, R220, R243, R310, R313: retirement, the end of a budget, a pre-emption, and aging at the limit and at 47. -/
theorem test_stitches :
    leaves (.stitchRetire 0) (qr .ended) (fun t => (t.core 0).stitch == none && (t.recx 0 1).retired == 1 && (t.recx 0 1).orWord == 5) = true ∧
    leaves (.stitchBudgetExpiry 0) { qr .running with cycle := BitVec.ofNat 64 (2 ^ 32) } (fun t => (t.strand 0).tcause == 0x12 && (t.strand 0).phase == .stopped) = true ∧
    leaves (.preemptStitch 0 true) (qr .running) (fun t => (t.core 0).stitch == none && (t.recx 0 1).suspended.map (·.pos) == [1]) = true ∧
    leaves (.eprioAging 0 1) { qm 3 { launch := 1 } [(0x200101, 1, 46 * 4)] with cycle := 0x100000 } (fun t => t.recEprio 0 1 == 47 && (t.recx 0 1).readyAt == 0x100000) = true ∧
    leaves (.eprioAging 0 1) { qm 3 { launch := 1 } [(0x200101, 1, 47 * 4)] with cycle := 0x100000 } (fun t => t.recEprio 0 1 == 47) = true := by decide +kernel

/-- The stitch of `qr` has read the ring of region 1 of die 0, to which the stitch b of record 1 is bound: W, R, C, RROW are 4, 3, 2, 1. -/
def ringed (p : Phase) (b : Nat) : State :=
  let s := put (qr p) (region1 .stream ++ pointers 4 3 2 0 1 0 (2 ^ 63 + 2 ^ 34 + b))
  s.setCore 0 { s.core 0 with stitch := some { st1 with rings := [(0, 1)] } }

/-- R247: C takes R when the bound consumer retires; R takes C and RROW 0 when it is discarded; of another stitch's ring nothing changes. -/
theorem test_ring_ends :
    leaves (.stitchRetire 0) (ringed .ended 0) (fun t => t.num 0x300430 8 == 3 && t.num 0x300428 8 == 3 && t.num 0x300440 8 == 1) = true ∧
    leaves (.stitchRetire 0) (ringed .ended 1) (fun t => (t.core 0).stitch == none && t.num 0x300430 8 == 2) = true ∧
    leaves (.preemptStitch 0 true) (ringed .running 0) (fun t => t.num 0x300430 8 == 2 && t.num 0x300428 8 == 2 && t.num 0x300440 8 == 0) = true ∧
    leaves (.preemptStitch 0 true) (ringed .running 1) (fun t => t.num 0x300428 8 == 3 && t.num 0x300440 8 == 1) = true := by decide +kernel

/-- O53: the pointer words of a ring that a stitch has read, which is its bound consumer or not. -/
theorem wit_ring_ends : ∀ p ∈ [Phase.ended, Phase.running],
    let st : Stitch := { st1 with rings := [(0, 1)] }
    let place (_ _ w : Nat) : Nat := 0x300420 + 8 * w
    let s := ringed p 0
    (s.core 0).stitch = some st ∧ ringsReach s st = true ∧ ringsAt s st place ∧ consumes s st place (0, 1) = true ∧
    ringsAt (ringed p 1) st place ∧ consumes (ringed p 1) st place (0, 1) = false ∧
    coreBusy s 0 = false ∧ collBusy s 0 = false ∧ s.frozen 0 = false ∧ (s.core 0).stopReq = false ∧ preemptWaits s 0 = false ∧
    (p = .running → mayPreempt s 0 = true ∧ s.recState 0 1 = 4 ∧ (s.cluster 0).lease = none ∧ (s.strand 0).arrived = false) := by
  intro p h
  simp only [List.mem_cons, List.not_mem_nil, or_false] at h
  obtain rfl | rfl := h <;> dsimp only [ringsAt, placed] <;> and_intros <;> decide +kernel

/-- What holds of a table's default and of all its entries holds of what it gives. -/
theorem tget_all {α : Type} (p : α → Bool) (d : α) (hd : p d = true) (n : Nat) :
    ∀ l : List (Nat × α), l.all (fun e => p e.2) = true → p (tget d l n) = true
  | [], _ => hd
  | e :: l, h => by
    simp only [List.all_cons, Bool.and_eq_true] at h
    unfold tget
    split
    · exact h.1
    · exact tget_all p d hd n l h.2

/-- With the flat translations, nothing pending and nothing moving, an address below 16 GiB is open at its own place. -/
theorem open_flat {s : State} (h : s.dies.all (fun e => e.2.skein.isEmpty && e.2.migQueue.isEmpty) = true ∧
      (s.die 0).tlb = die0.tlb ∧ (s.die 0).raf = die0.raf) {need : Need} (va : BitVec 56) (hv : va.toNat < 2 ^ 34) :
    pendingPage s .loose (pageAt s .loose va) = false ∧ migHolds s va = false ∧ placed s .loose va need va.toNat := by
  have hd (j : Nat) : (s.die j).skein = [] ∧ (s.die j).migQueue = [] := by
    have := tget_all (fun x : Die => x.skein.isEmpty && x.migQueue.isEmpty) {} rfl j s.dies h.1
    rw [← State.die] at this
    simpa only [Bool.and_eq_true, List.isEmpty_iff] using this
  refine ⟨by simp [pendingPage, hd], by simp [migHolds, hd], ?_⟩
  have := flat_placed (sp := .loose) h.2 va.toNat hv need
  rwa [BitVec.ofNat_toNat, BitVec.setWidth_eq] at this

/-- O53: a Ready record that passes and one that fails, positions left and none, a bad PART, a discarded stitch to run again, a stitch
whose strand has ended, a failed one, one past its budget, and one that a record of higher priority wants. -/
theorem wit_queue :
    let a := qm 3 { launch := 1 } []
    let b := qm 3 { launch := 1 } [(0x500000, 1, 2)]
    let c := qm 4 { launch := 1, next := 2, total := 3 } []
    let p := qm 4 { launch := 1, next := 2, total := 3 } [(0x500058, 8, 0x8080)]
    let v := qm 4 { launch := 1, next := 3, total := 3, suspended := [{ pos := 1 }] } []
    let e := qr .ended
    let r := { qr .running with cycle := BitVec.ofNat 64 (2 ^ 32) }
    let bs := pkOf c 0 1
    winner a 0 = some (1, .dispatch) ∧ dispatchFails a 0 1 (pkOf a 0 1) = none ∧ pkPure bs = false ∧ pkFree bs = true ∧ pkTotal bs = 3 ∧
    placed a .fixed (BitVec.ofNat 56 (a.recWord 0 1 8)) { rd := true } 0x500000 ∧
    winner b 0 = some (1, .dispatch) ∧ dispatchFails b 0 1 (pkOf b 0 1) = some (1, 0) ∧ bit (b.recWord 0 1 0x20) 63 = false ∧
    winner c 0 = some (1, .fresh 2) ∧ wordAt bs 0x40 = 0 ∧ c.kore.partNext = none ∧ c.kore.portNext = none ∧ partLegal bs (pkPart bs) = true ∧
    linearOf bs 2 < 2 ^ 32 ∧ (coresOf c 0 1 bs)[0]? = some 0 ∧
    (winner p 0 = some (1, .fresh 2) ∧ partLegal (pkOf p 0 1) (pkPart (pkOf p 0 1)) = false ∧ wordAt (pkOf p 0 1) 0x40 = 0) ∧
    winner v 0 = some (1, .rerun 0) ∧
    (e.kore.stitch = some st1 ∧ (∀ i, i < 3 → (e.strand i).phase ≠ .running) ∧ e.kore.stopReq = false ∧ coreBusy e 0 = false ∧ collBusy e 0 = false ∧
      e.frozen 0 = false ∧ ringsReach e st1 = true ∧ (e.recx 0 1).launch = 1 ∧ e.clusters = [] ∧ st1.rings = [] ∧ st1.failed = false) ∧
    2 ^ 32 ≤ (r.cycle - (r.strand 0).stcyc).toNat ∧ (r.strand 0).phase = .running ∧
    (preemptWaits r 0 = false ∧ mayPreempt r 0 = true ∧ r.recState 0 1 = 4 ∧ (r.cluster 0).lease = none ∧ (r.strand 0).arrived = false ∧
      st1.restartable = true) := by
  and_intros <;> (try unfold placed) <;> decide +kernel

/-- O53: a stitch that cannot run again from its start, with every row of its block open, and a saved one, with a section of 256 rows
of strand 0, that fits and one that does not. -/
theorem wit_saves :
    (let r := { qr .running with cycle := BitVec.ofNat 64 (2 ^ 32) }
     let v := r.setCore 0 { r.core 0 with stitch := some { st1 with restartable := false } }
     let base := blockVa v 0 1 0
     preemptWaits v 0 = false ∧ mayPreempt v 0 = true ∧ v.recState 0 1 = 4 ∧ (v.cluster 0).lease = none ∧ (v.cluster 0).requests = [] ∧
      (v.strand 0).arrived = false ∧ ∀ va ∈ (List.range 544).map (fun a => base + BitVec.ofNat 56 (256 * a)) ++
        (strandAreas v 0 base).flatMap (fun a => (List.range (32 + partSize v.kore.part a.1)).map (fun i => a.2 + BitVec.ofNat 56 (256 * i))),
        pendingPage v .loose (pageAt v .loose va) = false ∧ migHolds v va = false ∧
        ∃ p, placed v .loose va { wr := true } p ∧ (p + 256 ≤ recKey v 0 1 ∨ recKey v 0 1 + 256 ≤ p)) ∧
    (let m (version : Nat) := qm 4 { launch := 1, suspended := [{ pos := 1, saved := true, stitch := st1 }] }
       [(0x800000, 1, version), (0x800008, 8, 0x10), (0x822000, 4, 0x1000FE01)]
     let s := m 1
     let part : BitVec 24 := BitVec.ofNat 24 (s.num 0x800008 8)
     winner s 0 = some (1, .resume 0) ∧ (∀ j, j < 3 → pkSect (pkOf s 0 1) j = decide (j = 0)) ∧ blockVa s 0 1 0 = 0x800000 ∧
      s.num 0x800000 1 = 1 ∧ (m 2).num 0x800000 1 = 2 ∧ winner (m 2) 0 = some (1, .resume 0) ∧ partSize part 0 = 256 ∧
      headerFits 256 ((List.range (32 + 256)).map (fun a => s.rowAt (0x822000 + 256 * a))) = true ∧
      bit (s.recWord 0 1 0x20) 63 = false ∧
      (∀ a, a < 544 → placed s .loose (0x800000 + BitVec.ofNat 56 (256 * a)) { rd := true } (0x800000 + BitVec.ofNat 56 (256 * a)).toNat) ∧
      ∀ a, a < 32 + 256 → let va : BitVec 56 := 0x800000 + BitVec.ofNat 56 (0x22000 + 0 + 256 * a)
        pendingPage s .loose (pageAt s .loose va) = false ∧ migHolds s va = false ∧ placed s .loose va { rd := true } (0x822000 + 256 * a)) := by
  let r := { qr .running with cycle := BitVec.ofNat 64 (2 ^ 32) }
  let v := r.setCore 0 { r.core 0 with stitch := some { st1 with restartable := false } }
  have bits' (n : Nat) (h : n < 2 ^ 34) : (0x800000 + BitVec.ofNat 56 n).toNat = 0x800000 + n := by
    rw [BitVec.toNat_add, BitVec.toNat_ofNat]; simp; omega
  have far (n : Nat) (h : n < 2 ^ 33) : 0x200200 ≤ (0x800000 + BitVec.ofNat 56 n).toNat ∧ (0x800000 + BitVec.ofNat 56 n).toNat < 2 ^ 34 := by
    rw [bits' n (by omega)]; omega
  have hb : blockVa v 0 1 0 = 0x800000 := by decide +kernel
  have ha : strandAreas v 0 0x800000 = [(0, 0x800000 + BitVec.ofNat 56 0x22000)] := by decide +kernel
  have hp : partSize v.kore.part 0 = 2048 := by decide +kernel
  have low : ∀ va ∈ (List.range 544).map (fun a => blockVa v 0 1 0 + BitVec.ofNat 56 (256 * a)) ++
      (strandAreas v 0 (blockVa v 0 1 0)).flatMap (fun a => (List.range (32 + partSize v.kore.part a.1)).map (fun i => a.2 + BitVec.ofNat 56 (256 * i))),
      0x200200 ≤ va.toNat ∧ va.toNat < 2 ^ 34 := by
    rw [hb, ha]
    intro va h
    simp only [List.flatMap_cons, List.flatMap_nil, List.append_nil, hp, List.mem_append, List.mem_map, List.mem_range] at h
    obtain ⟨a, h, rfl⟩ | ⟨a, h, rfl⟩ := h
    · exact far _ (by omega)
    · rw [BitVec.add_assoc, ← BitVec.ofNat_add]
      exact far _ (by omega)
  refine ⟨⟨by decide +kernel, by decide +kernel, by decide +kernel, (by decide +kernel), by decide +kernel, by decide +kernel, fun va hv => ?_⟩,
    by decide +kernel, by decide +kernel, by decide +kernel, (by decide +kernel), by decide +kernel, by decide +kernel, by decide +kernel,
    (by decide +kernel), by decide +kernel, fun a ha => (open_flat (by decide +kernel) _ (by rw [bits' _ (by omega)]; omega)).2.2,
    fun a ha => ?_⟩
  · obtain ⟨hlo, hhi⟩ := low va hv
    obtain ⟨h1, h2, h3⟩ := open_flat (s := v) (need := { wr := true }) (by decide +kernel) va hhi
    exact ⟨h1, h2, va.toNat, h3, .inr (Nat.le_trans (by decide +kernel) hlo)⟩
  · obtain ⟨h1, h2, h3⟩ := open_flat (s := qm 4 { launch := 1, suspended := [{ pos := 1, saved := true, stitch := st1 }] }
      [(0x800000, 1, 1), (0x800008, 8, 0x10), (0x822000, 4, 0x1000FE01)]) (need := { rd := true }) (by decide +kernel)
      (0x800000 + BitVec.ofNat 56 (0x22000 + 0 + 256 * a)) (by rw [bits' _ (by omega)]; omega)
    refine ⟨h1, h2, ?_⟩
    rwa [bits' _ (by omega), show 0x800000 + (0x22000 + 0 + 256 * a) = 0x822000 + 256 * a by omega] at h3

/-! ### Homes, recasts, migration -/

/-- Die 0 with no translations in its TLB; the page of the first 16 GiB of the Loose space has the leaf entry at 0x41000. -/
def pg (leaf : Nat) (x : Die → Die) : State := put { State.reset with
  boot := { state := .running }
  strands := [(0, { strand0 [] [] with amoReply := some (.pending 0), wait := some ⟨.held, 0, none⟩, taken := some ⟨0, 1, .loose, [48]⟩ })]
  cores := [(0, { part := 0x80, portmap := 0 })]
  dies := [(0, x { die0 with tlb := [], raf := [(96, BitVec.ofNat 64 (2 ^ 63 + 3 * 2 ^ 60 + 0x40000))] })] }
  ([(0x40000, 8, 0x41001), (0x41000, 8, leaf), (0x300010, 8, 40), (0x300018, 8, 9)] ++ region1 .loose)

/-- A skein entry at 3 MiB + 16: a store of one byte that poisons its block, or an addition of 5. -/
def sk (amo : Bool) : SkeinEntry :=
  { va := 0x300010, handle := hand .loose 3 0, op := if amo then .amo 0 0 2 ⟨.relaxed, .die, true, false⟩ 5 0 else .store [(1, 0xAB, .full)] [0] }

/-- A machine whose core 0 is frozen by a tenant limit or a late reply since cycle 2, at cycle 65,538; in fixed-latency mode. -/
def fr (f : Freeze) : State := { sc.setKore { sc.kore with freeze := some f, stitch := some { id := ⟨0, 1, 1⟩ } } with
  cycle := 65538
  dies := [(0, { die0 with frz := [(0, 1)], dmode := 1#64 <<< 63 })] }

/-- R260-R274, R293, R314, R368: a posted count; a mapped page; stores and atomics replayed; a page given up; thaw and LATE. -/
theorem test_homes :
    leaves (.homeAccess 0) (pg 0 (fun x => { x with parties := [⟨{}, 0, hand .loose 3 0, 9⟩] })) (fun t => bits (t.rgnWord 0 1 8) 48 12 == 9 && (t.die 0).parties == []) = true ∧
    leaves (.pageMap 0 .loose 0x300000 7) (pg 0 id) (fun t => t.num 0x41000 8 == 7 && (translate t .loose 0x300010 { wr := true }).2 == .ok 0x300010) = true ∧
    leaves (.skeinReplay 0) (pg 7 (fun x => { x with skein := [sk false, sk true] })) (fun t => t.num 0x300010 8 == 40 + 0xAB00 && (t.die 0).skein == [sk true]) = true ∧
    leaves (.skeinReplay 0) (pg 7 (fun x => { x with skein := [sk true] })) (fun t => t.num 0x300010 8 == 45 && t.me.amoReply == some (.old 40)) = true ∧
    leaves (.pageUnmappable 0 .loose 0x300000) (pg 0 (fun x => { x with skein := [sk true] })) (fun t => (t.die 0).skein == [] &&
      t.me.amoReply == some (.failed 0x0B) && t.me.absent == [(.loose, 0)]) = true ∧
    leaves (.tlbInvalidatePage 0 .loose 0x300000) (filled .loose) (fun t => (t.die 0).tlb == [flat .fixed, flat .stream, flat .accrue]) = true ∧
    leaves (.tlbInvalidateAll 0 .fixed) (filled .loose) (fun t => (t.die 0).tlb == [flat .stream, flat .accrue, flat .loose]) = true ∧
    leaves (.coreThaw 0 false) (fr { limit := 1, since := 2 }) (fun t => t.kore.freeze == none && t.me.stcyc == 65536 && (t.die 0).frz == []) = true ∧
    leaves (.lateFreeze 0 70000) ((fr {}).setKore { (fr {}).kore with freeze := none }) (fun t => t.kore.freeze == some { late := 70000, since := 65538 } && t.me.stcyc == 65536) = true ∧
    leaves (.lateExpiry 0) (fr { late := 70000, since := 2 }) (fun t => t.kore.freeze == none && t.me.tcause == 0x11 && t.me.phase == .stopped) = true := by
  decide +kernel

/-- O54: posted counts of a live region and of none; entries of every kind on a present, an absent and a read-only page; frozen cores. -/
theorem wit_homes :
    (let h := hand .loose 3 0
     let s := pg 0 id
     homeOf (hBase h) = 0 ∧ hRegion h ≠ 0 ∧ rgnState s 0 1 = 1 ∧ bits (s.rgnWord 0 1 0x18) 24 7 = 0 ∧ (boltOf s 0 1 (hBase h)).isSome = true ∧
      pageLeaf s .loose 0x300000 = some 0x41000 ∧ (translate s .loose 0x300010 {}).2 = .absent) ∧
    (let s := (pg 7 id).setDie 0 { (pg 7 id).die 0 with tlb := [flat .loose] }
     placed s .loose 0x300010 { wr := true } 0x300010 ∧ placed s .loose 0x300010 { rd := true, wr := true } 0x300010 ∧ 0x300000 % 256 = 0 ∧
      s.me.amoReply = some (.pending 0)) ∧
    (let s := (pg 7 id).setDie 0 { (pg 7 id).die 0 with tlb := [{ flat .loose with leaf := 3 }] }
     translate s .loose 0x300010 { wr := true } = (s, .perm)) ∧
    (let s := fr { limit := 1, since := 2 }
     (s.die 0).frz = [(0, 1)] ∧ s.kore.freeze = some { limit := 1, since := 2 } ∧ (s.die 0).released = []) ∧
    (let s := launched.setDie 0 { launched.die 0 with frz := [(0, 1)] }
     s.kore.stitch = some { id := ⟨0, 1, 1⟩ } ∧ s.recState 0 1 = 4 ∧ (s.recx 0 1).launch = 1 ∧ bit (s.recWord 0 1 0x20) 63 = false) ∧
    (let s := (mach [] [] []).setDie 0 { die0 with dmode := 1#64 <<< 63 }
     s.kore.stitch = none ∧ s.me.phase = .running ∧ s.frozen 0 = false ∧ bit (s.die (dieOfCore 0)).dmode.toNat 63 = true) ∧
    (let s := fr { late := 70000, since := 2 }
     bit (s.die 0).dmode.toNat 63 = true ∧ 65536 ≤ (s.cycle - 2).toNat ∧ s.kore.stitch.isSome = true ∧ s.me.phase = .running) := by
  and_intros <;> (try unfold placed) <;> decide +kernel

/-- A recast of the only bolt of region 1 to the Fixed role, begun, with releases and bounds. -/
def fl1 (sp : Space) (rs : List AccEntry) : State :=
  let s := put (memo sp 3 [] []) [(0x100100, 8, 0x300000 + 2 ^ 62), (0x100110, 8, 1 + 1 * 2 ^ 48)]
  s.setDie 0 { s.die 0 with released := rs, bounds := [(2 ^ 47 + 0x300000 / 16, 4)] }

/-- A released addition of 5 to INT32 element 0, of a launch that is under way. -/
def rel (prior : Bool) : AccEntry := { id := ⟨0, 1, 1⟩, handle := hand .accrue 3 0, va := 0x300000, op := .int 0 32 5, prior := prior }

/-- R42, R222, R248, R258, R261: the flip gives the bolt its role and generation 6; a held update waits, another is performed. -/
theorem test_flips :
    leaves (.recastFlip 0 1) (fl1 .accrue []) (fun t => rgnState t 0 1 == 1 && rgnRunList t 0 1 == [(0, .fixed, 6)] && (t.die 0).bounds == [] &&
      arrivedOf t 0 1 == 0) = true ∧
    leaves (.recastFlip 0 1) (fl1 .accrue [rel true]) (fun t => rgnState t 0 1 == 2) = true ∧
    leaves (.accrueEntryPerform 0) (fl1 .accrue [rel false]) (fun t => (t.die 0).released.length == 1) = true ∧
    leaves (.accrueEntryPerform 0) ((memo .accrue 3 [] [(0x300000, 4, 7)]).setDie 0 { die0 with released := [{ rel false with poison := true }] }) (fun t =>
      t.num 0x300000 4 == 12 && t.blockPoison 0x300000 && (t.die 0).released == []) = true ∧
    leaves (.accrueEntryPerform 0) ((memo .accrue 17 [] [(0x100118, 8, 0x11 * 2 ^ 32)]).setDie 0 { die0 with
      released := [{ rel false with handle := hand .accrue 17 0, op := .af 5 (some 2) }] }) (fun t =>
      t.num 0x300000 16 == (afApply 0 0 5 (some 2)).1 && tget 0 (t.die 0).bounds (2 ^ 47 + 0x300000 / 16) == 2) = true := by decide +kernel

/-- O55: a flip that is due and one that waits; a held update and one that is reached, one of another role. -/
theorem wit_flips :
    (let s := fl1 .accrue []
     let q := pendingAsk s 0 1
     let old := rgnRunList s 0 1
     rgnState s 0 1 = 2 ∧ q = ⟨.fixed, false, false, 0, 1⟩ ∧ Space.stream ∉ (runsOver old 1 0 1).map (·.2.1) ∧
      Fmt.ofCode (bits (s.rgnWord 0 1 0x18) 32 6) ≠ some .af128 ∧ (s.rgnx 0 1).alone = none ∧ old.Pairwise (fun a b => a.1 < b.1) ∧
      (old.head?).map (·.1) = some 0 ∧ rgnBolts s 0 1 = 1 ∧ (newRuns old 1 q 6).length ≤ 16 ∧ (s.die 0).skein = [] ∧
      (∀ m ∈ (s.die 0).bounds, m.1 / 2 ^ 47 = 1 → m.2 ≠ 0xFFFFFFFF) ∧ noneTaken s 0 (fun t block => t == 1 && blockInBolts s 0 1 0 1 block) = true) ∧
    (boltOf (fl1 .accrue []) 0 1 0x300000 = some 0 ∧ inRecast (fl1 .accrue []) 0 1 0 = true) ∧
    (let s := (fl1 .accrue [rel true]).setMe { (fl1 .accrue []).me with taken := some ⟨0, 1, .accrue, [48]⟩ }
     pendingAsk s 0 1 = ⟨.fixed, false, false, 0, 1⟩ ∧ (s.die 0).released = [rel true] ∧ hRegion (rel true).handle = 1 ∧
      boltOf s 0 1 (rel true).va = some 0 ∧ (∃ m ∈ s.strands, m.2.taken = some ⟨0, 1, .accrue, [48]⟩) ∧ boltOf s 0 1 (BitVec.ofNat 56 (65536 * 48)) = some 0) ∧
    (let s := memo .accrue 3 [] [(0x300000, 4, 7)]
     let e := rel false
     homeOf e.va = 0 ∧ inRecast s 0 1 0 = false ∧ s.frozen 0 = false ∧ migHolds s e.va = false ∧ boltOf s 0 1 e.va = some 0 ∧ homeCheck s e.tenant e.handle e.prior e.op.size [(0, e.va)] = .ok ∧
      placed s .accrue e.va { wr := true } 0x300000 ∧ pendingPage s .accrue (pageAt s .accrue e.va) = false) ∧
    (homeCheck (memo .accrue 3 [] []) 1 (rel false).handle false 4 [(0, 0x300000)] = .perm [0]) ∧
    (hAflsb (hand .accrue 17 0) = sext 12 (bits ((memo .accrue 17 [] [(0x100118, 8, 0x11 * 2 ^ 32)]).rgnWord 0 1 0x18) 40 12)) := by
  and_intros <;> (try unfold placed) <;> decide +kernel

/-- `cl` with values 1 and 2 in its source, and a collective of its descriptor under way for a stitch of core 0; messages on their way. -/
def fb (tiles : List Nat) (unsent : Nat) (left : List (Nat × Nat)) (ms : List Message) : State :=
  let s := put cl [(0x300000, 4, 1), (0x30007C, 4, 2)]
  let desc := s.bytes 0x308000 0x104
  { s.setKore { s.kore with stitch := some {} } with
    messages := ms
    dies := [(0, { s.die 0 with collNext := 1, colls := [{ src := hand .loose 3 0, dst := hand .loose 3 0x1000, desc := desc, tiles := tiles
                                                           unsent := unsent, left := left }] })] }

/-- A message of two elements for that collective. -/
def ms2 : Message := { cells := [(0, 77), (31, 78)], fmt := .int32 }

/-- R325, R350-R358: a tile is sent, a message written, the collective ends with its word; cancelled with WAIT; a link's state. -/
theorem test_fabric :
    leaves (.tileTransfer 0) (fb [0] 0 [(0, 32)] []) (fun t => t.messages.map (fun m => (m.cells.length, m.cells.head?, m.cells.getLast?)) == [(32, some (0, 1), some (31, 2))] &&
      (t.die 0).colls.map (fun c => (c.tiles, c.unsent)) == [([], 1)]) = true ∧
    leaves (.messageDelivery ms2) (fb [] 1 [(0, 32)] [ms2]) (fun t => t.num 0x301000 4 == 77 && t.num 0x30107C 4 == 78 && t.messages == [] &&
      (t.die 0).colls.map (fun c => (c.left, c.wrote)) == [([(0, 30)], 64)]) = true ∧
    leaves (.messageDelivery { ms2 with check := 1, sender := 1 }) (fb [] 0 [(0, 32)] [{ ms2 with check := 1, sender := 1 }]) (fun t => (t.die 0).colls == [] &&
      (t.die 0).collWords == [(0, BitVec.ofNat 64 (2 ^ 40 + 3 * 2 ^ 36))]) = true ∧
    leaves (.collectiveComplete 0 0) (fb [] 0 [] []) (fun t => (t.die 0).collWords == [(0, BitVec.ofNat 64 (3 * 2 ^ 36))] && (t.kore.engine 3).comp.length == 1) = true ∧
    leaves (.collectiveCancel 0 0) (fb [] 1 [(0, 32)] []) (fun t => (t.die 0).collWords == [(0, BitVec.ofNat 64 (9 * 2 ^ 40 + 3 * 2 ^ 36))]) = true ∧
    leaves (.portLinkUpChange 0 0 true) cl (fun t => (t.die 0).portUp == 1) = true ∧
    leaves (.flitRetry 0 3) cl (fun t => t.cycle == 1 && t.dies == cl.dies) = true := by decide +kernel

/-- O56: a message for another module, one of a live collective and one of another check word; a tile to send and none; a collective that
has ended, one that has not, and none; a port of the die and one of another. -/
theorem wit_fabric :
    (let s := fb [] 1 [(0, 32)] [ms2]
     let c := (s.die 0).colls.headD {}
     c.started = true ∧ c.dstFail = 0 ∧ c.lin = 0 ∧ (ms2.sender = 0 ∧ ({ ms2 with sender := 1 }).sender ≠ ms2.die) ∧
      s.messages = [] ++ ms2 :: [] ∧ (s.die 0).module_.toNat = ms2.module_ ∧ { ms2 with module_ := 1 }.module_ ≠ (s.die 0).module_.toNat ∧
      (s.die 0).colls = [c] ∧ lpTag c.desc = ms2.tag ∧ c.check = ms2.check ∧ 0 < tget 0 c.left ms2.member ∧ s.frozen c.core = false ∧
      s.kore.stitch = some {} ∧ c.id = {} ∧ s.me.taken = none ∧ lpReduces c.desc = false ∧ hLegal c.dst = true ∧ dieWrong c.dst (some (hSpace c.dst)) = false ∧
      (hBase c.dst).toNat % 4 = 0 ∧ (s.die 0).matching = []) ∧
    (let s := fb [] 1 [(0, 32)] [ms2]
     let h := hand .loose 3 0x1000
     let els : List Elem := ms2.cells.zipIdx.map (fun e => ⟨e.2, 0, (elemAddr h 32 e.1.1).1, (elemAddr h 32 e.1.1).2⟩)
     reaches s h .loose { wr := true } false 32 els BitVec.toNat ∧ ∀ q ∈ els, trackFull s q.va = false) ∧
    (let s := fb [0] 0 [(0, 32)] []
     let c := (s.die 0).colls.headD {}
     c.tiles = [0] ∧ c.started = true ∧ c.srcFail = 0 ∧ ((s.die 0).colls.map (·.num)).Nodup ∧ hSpace c.src ≠ .fixed ∧ (s.die 0).tracks = [] ∧ tileElems c.desc 0 = [List.range 32] ∧ dieWrong c.src (some (hSpace c.src)) = false ∧ (hBase c.src).toNat % 4 = 0) ∧
    (let s := fb [0] 0 [(0, 32)] []
     let h := hand .loose 3 0
     reaches s h .loose { rd := true } false 32 ((List.range 32).zipIdx.map (fun e => ⟨e.2, 0, (elemAddr h 32 e.1).1, (elemAddr h 32 e.1).2⟩)) BitVec.toNat) ∧
    (((fb [] 0 [] []).die 0).colls.find? (fun q => q.num.toNat == 0)).any (fun c => c.tiles == [] && c.unsent == 0 && c.left == []) = true ∧
    ((fb [] 0 [] []).die 0).colls.find? (fun q => q.num.toNat == 5) = none ∧ portDie 0 = 0 ∧ portDie 31 ≠ 0 := by
  refine ⟨by decide +kernel, ⟨reached (by decide +kernel) (by decide +kernel) (by decide +kernel), by decide +kernel⟩, by decide +kernel,
    reached (by decide +kernel) (by decide +kernel) (by decide +kernel), by decide +kernel⟩

/-- Die 0 with 64 KiB pages in the Loose space; the page at 3 MiB has its leaf at 0x43180 and holds 5, poisoned. -/
def mg (x : Die → Die) : State := (put { State.reset with
  boot := { state := .running, linkRate := 64, linkWidth := 16 }
  dies := [(0, x { die0 with tlb := [{ flat .loose with psize := 0, page := 0x300000 }], raf := [(96, BitVec.ofNat 64 (2 ^ 63 + 0x40000))] })] }
  ([(0x40000, 8, 0x41001), (0x41000, 8, 0x42001), (0x42000, 8, 0x43001), (0x43180, 8, 0x300007), (0x300123, 1, 5)] ++ region1 .loose)).setBlockPoison 0x300100 true

/-- MIGCMD: GO, the Loose space, frame 0x310000 of HBM, an epoch. -/
def go (epoch : Nat) (host : Bool) : Word := BitVec.ofNat 64 (2 ^ 63 + (if host then 2 ^ 62 else 0) + 3 * 2 ^ 57 + 0x310000 + epoch)

/-- R327-R329: a request with the page's epoch waits for its flip, another ends with MOVED, one for a page of die 1 with REFUSED; the flip
moves bytes, poison and leaf; a page that has no leaf by then is refused. -/
theorem test_migration :
    leaves (.migrationRequest 0 false 0x300000 (go 0 true)) (mg id) (fun t => (t.die 0).migQueue == [⟨false, 0x300000, go 0 true⟩]) = true ∧
    leaves (.migrationRequest 0 true 0x300000 (go 1 true)) (mg id) (fun t => (t.die 0).migQueue == [] && (t.die 0).migHost.res == BitVec.ofNat 64 (2 * 2 ^ 61)) = true ∧
    leaves (.migrationRequest 0 true 0x8000000300000 (go 0 true)) (mg id) (fun t => (t.die 0).migQueue == [] && (t.die 0).migHost.res == BitVec.ofNat 64 (4 * 2 ^ 61)) = true ∧
    leaves (.migrationFlip 0) (mg (fun x => { x with migQueue := [⟨false, 0x300000, go 0 false ^^^ 2 ^ 57⟩] })) (fun t => (t.die 0).migQueue == [] &&
      (t.die 0).migFw.res == BitVec.ofNat 64 (4 * 2 ^ 61)) = true ∧
    leaves (.migrationFlip 0) (mg (fun x => { x with migQueue := [⟨false, 0x300000, go 0 false⟩] })) (fun t => t.byte 0x310123 == 5 && t.blockPoison 0x310100 &&
      t.num 0x43180 8 == 0x310007 && (t.die 0).tlb == [] && (t.die 0).migFw.res == BitVec.ofNat 64 (2 ^ 61 + 1)) = true := by decide +kernel

/-- O57: a copy whose request has not ended; a request taken, one of another epoch, one for another die's page; a flip that is due, and one of a pinned page. -/
theorem wit_migration :
    (mg id).boot.state = .running ∧ memOpen (mg id) = true ∧ ({ cmd := go 0 true } : MigRegs).cmd.getLsbD 63 = true ∧ (0 : Word).getLsbD 63 = false ∧ (go 0 true).getLsbD 63 = true ∧
    migCheck (mg id) 0 ⟨false, 0x300000, go 0 true⟩ = none ∧ (go 1 true).toNat % 256 ≠ (pageEpoch die0 0x300000).toNat ∧
    vaDie 0x300000 = 0 ∧ vaDie 0x8000000300000 ≠ 0 ∧ migPinned (mg id) ⟨false, 0x300000, go 0 false ^^^ 2 ^ 57⟩ = true ∧ migPinned (mg id) ⟨false, 0x300000, go 0 false⟩ = false ∧
    (let q : MigReq := ⟨false, 0x300000, go 0 false⟩
     let s := mg (fun x => { x with migQueue := [q] })
     s.Inv ∧ (s.die 0).migQueue = [q] ∧ pageLeaf s q.space q.va = some 0x43180 ∧ (s.die 0).skein = [] ∧ migPage s q = 0x300000 ∧ migSize s q = 0 ∧
      noneTaken s 0 (fun _ block => pageOf 0 (BitVec.ofNat 56 (65536 * block)) == 0x300000) = true ∧ (∀ m ∈ s.dies, m.2.forwards = []) ∧ memOpen s = true ∧
      leafPlace 0x300000 0 0x300007 {} = .ok 0x300000 ∧ leafPlace 0x300000 0 0x310007 {} = .ok 0x310000 ∧ 0x300000 + 2 ^ pageBits 0 ≤ 0x310000) := by
  and_intros <;> decide +kernel

/-- Ring 2 of die 0: slots from 6 MiB + 0x10000, NEXT 5 and a kick of slot 5; its packet is of record 1, with an arm, and SEQ 5. -/
def hosted (r : HostRing) (more : List (Nat × Nat × Nat)) : State :=
  let s := put { rc with cycle := 5000, boot := { state := .running, linkRate := 64, linkWidth := 16 } } ([(0x200100, 8, 0), (0x610280, 8, 1), (0x610288, 8, 0x500000), (0x610290, 8, 7 + 3 * 2 ^ 16), (0x610298, 8, 4), (0x6102F8, 4, 5)] ++ more)
  s.setDie 0 { s.die 0 with hsqBase := 0x600000, hostRings := [(2, r)] }

/-- An enabled ring at slot 5, kicked. -/
def ok5 : HostRing := { en := true, next := 5, upto := some 5 }

/-- R330-R333: a packet is applied whole; an unknown name gives PERM; a kick far ahead and a slot that stays unwritten stop the ring. -/
theorem test_host_rings :
    leaves (.seqPoll 0 2) (hosted ok5 []) (fun t => t.recState 0 1 == 1 && t.recWord 0 1 8 == 0x500000 && t.recEprio 0 1 == 7 && (t.ring 0 2).next == 6 && (t.ring 0 2).upto == none) = true ∧
    leaves (.seqPoll 0 2) (hosted ok5 [(0x6102A8, 8, 1)]) (fun t => t.recState 0 1 == 3) = true ∧
    leaves (.seqPoll 0 2) (hosted ok5 [(0x610280, 8, 0x1001)]) (fun t => (t.ring 0 2).err == 0x80000C0100000005 && (t.ring 0 2).next == 6) = true ∧
    leaves (.seqPoll 0 2) (hosted ok5 [(0x6102F8, 4, 4)]) (fun t => (t.ring 0 2).firstRead == some 5000 && (t.ring 0 2).next == 5) = true ∧
    leaves (.hostKick 0 2 300) (hosted ok5 []) (fun t => (t.ring 0 2).err == 0x800013020000012C && t.boot.irqs == 1) = true ∧
    leaves (.hostKick 0 2 (5 - 257)) (hosted ok5 []) (fun t => (t.ring 0 2).err == 0x80001302FFFFFF04) = true ∧
    leaves (.hostKick 0 2 (5 - 256)) (hosted ok5 []) (fun t => (t.ring 0 2).err == 0 && (t.ring 0 2).kick == 0xFFFFFF05 && (t.ring 0 2).upto == some 5) = true ∧
    leaves (.seqPoll 0 2) (hosted { ok5 with firstRead := some 4936 } []) (fun t => (t.ring 0 2).next == 6) = true ∧
    leaves (.seqPoll 0 2) (hosted { ok5 with firstRead := some 4935 } []) (fun t => (t.ring 0 2).next == 5) = true ∧
    leaves (.hostKick 0 2 260) (hosted ok5 []) (fun t => (t.ring 0 2).upto == some 260) = true ∧
    leaves (.stalepktTimeout 0 2) (hosted { ok5 with firstRead := some 904 } []) (fun t => (t.ring 0 2).err == 0x8000130100000005) = true ∧
    leaves (.hsqerrClear 0 2) (hosted { ok5 with err := 0x8000130100000005 } []) (fun t => (t.ring 0 2).err == 0x0000130100000005) = true := by decide +kernel

/-- O58: kicks at both ends of the window, past it, at the last one outside it (2^32 - 257 ahead) and at the first of those behind it
(2^32 - 256), reads on the grid of 64 cycles and off it, a stopped, a disabled and an idle ring, packets that match, of no record and
of another tenant's, a slot at its limit. -/
theorem wit_host_rings :
    ok5.stopped = false ∧ ({ ok5 with err := 0x8000130100000005 } : HostRing).stopped = true ∧ ok5.upto ≠ none ∧
    ((260 : BitVec 32) - 5).toNat = 255 ∧ ((261 : BitVec 32) - 5).toNat = 256 ∧ ((4 : BitVec 32) - 5).toNat = 2 ^ 32 - 1 ∧
    ((5 - 257 : BitVec 32) - 5).toNat = 2 ^ 32 - 257 ∧ ((5 - 256 : BitVec 32) - 5).toNat = 2 ^ 32 - 256 ∧
    ((hosted ok5 []).boot.state = .running ∧ memOpen (hosted ok5 []) = true) ∧ ((5000 : Word) - 4936).toNat % 64 = 0 ∧
    ((5000 : Word) - 4935).toNat % 64 ≠ 0 ∧ ((5000 : Word) - 4936).toNat < 4096 ∧
    (let s := hosted ok5 []
     let p := packetKey s 0 2 5
     s.num (p + 0x78) 4 = 5 ∧ s.num p 8 = 1 ∧ s.recTenant 0 1 = 0 ∧ bit (s.num (p + 0x28) 8) 0 = false ∧
      (∀ f ∈ packetFields s p, patchRefused s 0 1 f.1 f.2 = none)) ∧
    (let s := hosted ok5 [(0x6102A8, 8, 1)]
     let p := packetKey s 0 2 5
     let j := s.num (p + 0x18) 8
     let moving := s.setDie 0 { s.die 0 with migQueue := [⟨false, 0x500000, go 0 true⟩] }
     bit (s.num (p + 0x28) 8) 0 = true ∧ (∀ f ∈ packetFields s p, patchRefused s 0 1 f.1 f.2 = none) ∧
      (s.job (bits j 12 5) (bits j 0 12)).tenant = 0 ∧ (s.job (bits j 12 5) (bits j 0 12)).count ≠ BitVec.allOnes 32 ∧
      migHolds s (BitVec.ofNat 56 (s.num (p + 8) 8)) = false ∧ migHolds moving (BitVec.ofNat 56 (s.num (p + 8) 8)) = true ∧
      ((s.setJob 0 4 { tenant := 3 }).job 0 4).tenant ≠ 0 ∧ ((s.setJob 0 4 { count := BitVec.allOnes 32 }).job 0 4).count = BitVec.allOnes 32) ∧
    (let s := hosted { ok5 with tenant := 3 } [(0x6102F8, 4, 4)]
     s.num (packetKey s 0 2 5 + 0x78) 4 ≠ 5 ∧ s.recTenant 0 1 ≠ 3) ∧
    (¬ ((0x1001 : Nat) < 2 ^ 17 ∧ 0x1001 / 2 ^ 12 % 32 = 0)) ∧ 4096 ≤ ((hosted ok5 []).cycle - 904).toNat := by and_intros <;> decide +kernel

/-- R274, R300, R323, R326, R370, R382: register writes, a STATE, a tenant's Sampler entries, throttling. -/
theorem test_firmware :
    leaves (.fwRegisterWrite 0 0x1018 0xFFFF) rc (fun t => (t.die 0).skThr == 0x7FFF) = true ∧
    leaves (.fwRegisterWrite 0 0x1110 (-1)) rc (fun t => tget 0 (t.die 0).raf 2 == 0xB0FFFFFFFFFFF000) = true ∧
    leaves (.fwRegisterWrite 0 0x5008 (-1)) rc (fun t => tlimMt (t.die 0) 1 == 1024) = true ∧
    leaves (.firmwareWritesState 0 2 6) (put rc [(0x200201, 3, 0x0A2C)]) (fun t => t.recState 0 2 == 6 && t.recEprio 0 2 == bits (t.recWord 0 2 0) 16 6) = true ∧
    leaves (.firmwareWritesState 0 0 3) rc (fun t => t.recState 0 0 == 3 && (t.recx 0 0).launch == 1) = true ∧
    leaves (.tenantSamplerRemoval 4) (rc.setDie 0 { rc.die 0 with sampler := [{ tenant := 4 }, {}] }) (fun t => (t.die 0).sampler.length == 1) = true ∧
    leaves (.powerThrottle 0) rc (fun t => (t.die 0).throttled) = true ∧ leaves (.diePowerWithinCap 0) rc (fun t => !(t.die 0).throttled) = true := by decide +kernel

/-- Below 0x7000 there is no register of a cluster. -/
theorem no_cluster {off : Nat} (h : off < 0x7000) : clusterReg off = none := by
  have (c r : Nat) : off ≠ clusterAt c + r := by unfold clusterAt; omega
  simp [clusterReg, List.findSome?_eq_none_iff, this]

/-- Nor one of a job. -/
theorem no_job {off : Nat} (h : off < 0x7000) : regIdx off jobsAt 8 jobCount = none := by
  have : ¬ jobsAt ≤ off := by unfold jobsAt clusterAt; omega
  simp [regIdx, this]

/-- A write to an offset below 0x7000 that is in none of the tables of registers changes nothing. -/
theorem no_reg {s : State} {off : Nat} {v : Word} (h : off < 0x7000) (h1 : (writeDieReg s 0 off v).isNone = true)
    (h2 : (writeIdxReg s 0 off v).isNone = true) (h3 : (writeEdgeReg s off v).isNone = true) : writeReg s 0 off v = s := by
  simp only [Option.isNone_iff_eq_none] at h1 h2 h3
  simp [writeReg, h1, h2, h3, no_cluster h, no_job h]

/-- R224, R252, R274, R310, R326, R333, R366, R368, R382: the last register of each table. -/
theorem test_last_registers :
    leaves (.fwRegisterWrite 0 0x14F8 (-1)) rc (fun t => tget 0 (t.die 0).raf 127 == 0xB0FFFFFFFFFFF000) = true ∧
    leaves (.fwRegisterWrite 0 0x1500 (-1)) rc (fun t => tget 0 (t.die 0).hostRaf 0 == 0xB0FFFFFFFFFFF000 && (t.die 0).raf == die0.raf) = true ∧
    leaves (.fwRegisterWrite 1 0x18F8 (-1)) rc (fun t => t.dies == rc.dies) = true ∧
    leaves (.fwRegisterWrite 0 0x18F8 (-1)) rc (fun t => tget 0 (t.die 0).hostRaf 127 == 0xB0FFFFFFFFFFF000) = true ∧
    leaves (.fwRegisterWrite 0 0x2408 (-1)) rc (fun t => tget 0 (t.die 0).squota 127 == 8192) = true ∧
    leaves (.fwRegisterWrite 0 0x2410 (-1)) rc (fun t => (t.die 0).hits == 0xFFFFFFFF && (t.die 0).squota == []) = true ∧
    leaves (.fwRegisterWrite 0 0x3178 (-1)) rc (fun t => (t.ring 0 15).en && (t.ring 0 15).tenant == 127) = true ∧
    leaves (.fwRegisterWrite 0 0x3278 9) rc (fun t => (t.ring 0 15).kick == 9) = true ∧
    leaves (.fwRegisterWrite 0 0x3378 (-1)) (rc.setRing 0 15 { err := -1 }) (fun t => (t.ring 0 15).err == 0x7FFFFFFFFFFFFFFF) = true ∧
    leaves (.fwRegisterWrite 0 0x53F8 0) rc (fun t => tlimMt (t.die 0) 127 == 0 && tlimMt (t.die 0) 126 == 1024) = true ∧
    leaves (.fwRegisterWrite 0 0x6FF8 5) rc (fun t => tget 0 (t.die 0).tkey 127 == 5 * 2 ^ 192) = true ∧
    leaves (.fwRegisterWrite 0 0x0288 1) rc (fun t => tget 0 t.boot.hdmOpen 17 == 1) = true ∧
    readReg (rc.setDie 0 { rc.die 0 with tkey := [(127, -1)] }) 0 0x6FF8 false = 0 ∧
    readReg rc 0 0x14F8 false = 0 ∧ readReg rc 0 0x0100 false = 3 := by and_intros <;> decide +kernel

/-- R14: the offsets behind them, and others without a register. -/
theorem test_no_registers : ∀ off ∈ [0x0000, 0x0110, 0x0290, 0x1020, 0x1900, 0x2418, 0x2810, 0x3180, 0x3280, 0x3380, 0x5400],
    writeReg rc 0 off (-1) = rc := by
  intro off h
  have h' : off < 0x7000 ∧ (writeDieReg rc 0 off (-1)).isNone = true ∧ (writeIdxReg rc 0 off (-1)).isNone = true ∧
      (writeEdgeReg rc off (-1)).isNone = true := by
    revert off; decide +kernel
  exact no_reg h'.1 h'.2.1 h'.2.2.1 h'.2.2.2

/-- O59: a running module, the last register of each table, the registers of a cluster and the last job, an offset of none, a die
with frozen cores and one without, a cluster whose array is leased and one whose array is free. -/
theorem wit_firmware :
    rc.boot.state = .running ∧ (∀ q ∈ (rc.die 0).colls, q.num ≠ 7) ∧
    regIdx 0x14F8 0x1100 8 128 = some 127 ∧ regIdx 0x18F8 0x1500 8 128 = some 127 ∧ regIdx 0x2408 0x2010 8 128 = some 127 ∧
    regIdx 0x3178 0x3100 8 16 = some 15 ∧ regIdx 0x3378 0x3300 8 16 = some 15 ∧ regIdx 0x53F8 0x5000 8 128 = some 127 ∧
    regIdx 0x6FF8 0x6000 8 512 = some 511 ∧ 0x0288 = 0x0200 + 8 * 17 ∧ regIdx 0x5400 0x5000 8 128 = none ∧
    (∀ r ∈ [0, 8, 16], 0x7000 ≤ clusterAt 0 + r ∧ clusterReg (clusterAt 0 + r) = some (0, r)) ∧
    (0x7000 ≤ jobsAt + 8 * 4095 ∧ clusterReg (jobsAt + 8 * 4095) = none) ∧
    (clusterReg 0x5400 = none ∧ regIdx 0x5400 jobsAt 8 4096 = none) ∧
    (rc.die 0).frz = [] ∧ ((fr {}).die 0).frz = [(0, 1)] ∧ (rc.cluster 0).lease = none ∧
    (ml.cluster 0).lease = some { core := 0, left := 1 } ∧ ml.frozen 0 = false ∧ rc.recState 0 2 = 4 ∧ memOpen (hosted ok5 []) = true := by
  have late (i : Nat) (h : i < 16) : clusterAt i + 24 ≤ jobsAt := by
    unfold jobsAt
    have all : ∀ i ∈ upto 16, clusterAt i ≤ clusterAt 15 := by
      simp [clusterAt, upto]
      and_intros <;> omega
    have := all i ((by decide : ∀ i, i < 16 → i ∈ upto 16) i h)
    omega
  have job : clusterReg (jobsAt + 8 * 4095) = none := by
    simp only [clusterReg, List.findSome?_eq_none_iff]
    intro c hc r hr
    have hc : c < 16 := by
      have : ∀ c ∈ upto 16, c < 16 := by decide
      exact this c hc
    have hr : r ≤ 16 := by
      have : ∀ r ∈ [0, 8, 16], r ≤ 16 := by decide
      exact this r hr
    have := late c hc
    rw [if_neg (by omega)]
  refine ⟨by decide +kernel, by decide +kernel, by decide +kernel, (by decide +kernel), by decide +kernel, by decide +kernel, by decide +kernel,
    (by decide +kernel), by decide +kernel, by decide +kernel, by decide +kernel, ?_, ⟨?_, job⟩, ⟨no_cluster (by decide), no_job (by decide)⟩, by decide +kernel, by decide +kernel,
    by decide +kernel, (by decide +kernel), by decide +kernel, by decide +kernel, by decide +kernel⟩
  · intro r h
    refine ⟨by unfold clusterAt; omega, ?_⟩
    simp only [List.mem_cons, List.not_mem_nil, or_false] at h
    obtain rfl | rfl | rfl := h <;> simp [clusterReg, upto]
  · have := late 0 (by decide)
    unfold clusterAt at this
    omega

/-- A module whose link runs at 64 GT/s on 16 lanes, in a state of BOOTST, with granule 0 open. -/
def bo (st : BootState) : State := { rc with boot := { state := st, linkRate := 64, linkWidth := 16, hdmOpen := [(0, 1)] } }

/-- R361-R366, R371: open and closed granules; transfers; a status; a report; a reset keeps the host's memory. -/
theorem test_boot :
    leaves (.hostHdmRead 0x200100 2) (bo .running) (fun t => t.boot.hostRead == [2, 0] && !t.boot.hostReadPoison) = true ∧
    leaves (.hostHdmRead 0x3FFFFFFF 2) (bo .running) (fun t => t.boot.hostRead == [] && t.boot.hostReadPoison) = true ∧
    leaves (.hostHdmWrite 0x200100 [7, 8]) (bo .running) (fun t => t.num 0x200100 2 == 0x0807) = true ∧
    leaves (.hostHdmWrite 0x40000000 [7]) (bo .running) (fun t => t.boot.hdmDrop == 1 && t.mem == rc.mem) = true ∧
    leaves (.transferPart [1, 2]) (bo .dark) (fun t => t.boot.state == .receiving && t.boot.image == [1, 2]) = true ∧
    leaves .transferEnd (bo .receiving) (fun t => t.boot.state == .verifying) = true ∧
    leaves .transferAbort (bo .verifying) (fun t => t.boot.state == .verifying && t.boot.mailboxCode == .busy) = true ∧
    leaves (.imageVerify 0) (bo .verifying) (fun t => t.boot.reports == [(0, 1)]) = true ∧
    leaves .statusRead (bo .receiving) (fun t => t.boot.mailbox == [1, 0, 0, 0, 0, 0, 0, 0]) = true ∧
    leaves (.getAttestation 0) (bo .verifying) (fun t => t.boot.mailboxCode == .busy) = true ∧
    leaves (.linkTrain 32 8) (bo .dark) (fun t => t.boot.err == 5 && t.boot.linkWidth == 8) = true ∧
    leaves .powerOnReset (put (bo .running) [(2 ^ 57, 1, 9)]) (fun t => t.byte (2 ^ 57) == 9 && t.byte 0x200100 == 0 && t.boot.state == .dark) = true ∧
    leaves (.thermalReset 5) (bo .running) (fun t => t.dies == [] && t.cycle == 1) = true := by decide +kernel

/-- R365: SHA-384 of `abc` (FIPS 180-4), the base point of the curve doubled, and the public key of party A of RFC 7027. -/
theorem test_crypto :
    sha384 [0x61, 0x62, 0x63] = 0xcb00753f45a35e8bb5a03d699ac65007272c32ab0eded1631a8b605a43ff5bed8086072ba1e7cc2358baeca134c825a7 ∧
    (curveAdd curveG curveG).any (fun p => onCurve p.1 p.2) = true ∧
    onCurve 0x68B665DD91C195800650CDD363C625F4E742E8134667B767B1B476793588F885AB698C852D4A6E77A252D6380FCAF068
      0x55BC91A39C9EC01DEE36017B7D673A931236D2F1F5C83942D049E3FA20607493E0D038FF2FD30C2AB67D15C85F7FAA59 = true := by and_intros <;> decide +kernel

/-- O60: an open granule to its last byte and a closed one, each state, the last report and one before it. -/
theorem wit_boot :
    (let b := (bo .running).boot
     b.linkWidth ≠ 0 ∧ 64 ≤ b.linkRate ∧ (∀ j, j < 4 → (tget 0 b.hdmOpen ((0x3FFFFFFC + j) / 2 ^ 30 / 64)).getLsbD ((0x3FFFFFFC + j) / 2 ^ 30 % 64) = true) ∧
      (tget 0 b.hdmOpen (2 ^ 30 / 2 ^ 30 / 64)).getLsbD (2 ^ 30 / 2 ^ 30 % 64) = false) ∧
    (State.reset.boot.state ≠ .running ∧ (bo .dark).boot.linkWidth ≠ 0 ∧ (bo .dark).boot.state ≠ .running ∧ 0x0118 ≠ 0x0100) ∧
    State.reset.boot.linkWidth = 0 ∧ (bo .receiving).boot.state = .receiving ∧ (bo .verifying).boot.state = .verifying ∧
    (let reports : List (Nat × BitVec 8) := (List.range 23).map (fun d => (d + 1, 0))
     reports.length = 23 ∧ (∀ e ∈ reports, e.1 ≠ 0) ∧ (∀ r ∈ reports, r.2 = 0 ∧ r.1 < 24) ∧ ((reports ++ [(0, 1)]).map Prod.fst).Nodup ∧
      imageErr (imageAt { (bo .verifying).boot with reports := reports } 0) 0 = 1) ∧ memOpen (bo .running) = true ∧ descOf (bo .running) 0x300000 = none := by and_intros <;> decide +kernel

end Sys2Proof.Tests
end

section
/-! SUPPORT. Every step keeps memory and the poison bits in canonical form (R9, R31): one lemma for each function of the model that
answers a state, in the model's order. -/

namespace Sys2Proof.Machine
open Sys2Proof

/-! ### What an answer carries -/

/-- The invariant of the machine, as a predicate that the kernel compares without unfolding the states it is about. -/
def State.Canon (s : State) : Prop := s.Inv

/-- A state with the memory and the poison bits of another. -/
theorem canon_same {s : State} {cycle : Word} {cur freeCtr : Nat} {agenda : List Turn} {boot : Boot} {strands : List (Nat × Strand)}
    {cores : List (Nat × Core)} {clusters : List (Nat × Cluster)} {dies : List (Nat × Die)} {messages : List Message}
    (h : s.Canon) : State.Canon ⟨cycle, cur, agenda, freeCtr, boot, s.mem, s.poison, strands, cores, clusters, dies, messages⟩ := h

theorem setByte_canon {s : State} {k : Nat} {b : Byte} (hs : s.Canon) : (s.setByte k b).Canon := setByte_inv k b hs
theorem setBytes_canon {s : State} {k : Nat} {bs : List Byte} (hs : s.Canon) : (s.setBytes k bs).Canon := setBytes_inv k bs hs
theorem setNum_canon {s : State} {k n v : Nat} (hs : s.Canon) : (s.setNum k n v).Canon := setNum_inv k n v hs
theorem setBlockPoison_canon {s : State} {k : Nat} {p : Bool} (hs : s.Canon) : (s.setBlockPoison k p).Canon :=
  setBlockPoison_inv k p hs
theorem setRowAt_canon {s : State} {k : Nat} {r : PRow} (hs : s.Canon) : (s.setRowAt k r).Canon := setRowAt_inv k r hs
theorem moveBytes_canon {s : State} {src dst n : Nat} (hs : s.Canon) : (moveBytes s src dst n).Canon := moveBytes_inv src dst n hs
theorem resetState_canon {s : State} (hs : s.Canon) : (resetState s).Canon :=
  ⟨resetState_mem hs, tableWf_filter false _ _ hs.2⟩

/-- A choice between two states. -/
theorem canon_ite {c : Prop} [Decidable c] {s t : State} (hs : s.Canon) (ht : t.Canon) : (if c then s else t).Canon := by
  split
  · exact hs
  · exact ht

/-- Steps taken one after another along a list. -/
theorem canon_foldl {α : Type} {f : State → α → State} {l : List α} {s : State} (h : s.Canon)
    (hf : ∀ t a, t.Canon → (f t a).Canon) : (l.foldl f s).Canon :=
  List.foldlRecOn l f h (fun t ht a _ => hf t a ht)

/-- The same with something carried along. -/
theorem canon_foldl_fst {α β : Type} {f : State × β → α → State × β} {l : List α} {p : State × β} (h : p.1.Canon)
    (hf : ∀ q a, q.1.Canon → (f q a).1.Canon) : (l.foldl f p).1.Canon :=
  List.foldlRecOn (motive := fun q => q.1.Canon) l f h (fun q hq a _ => hf q a hq)

/-- A choice between two states with something carried along. -/
theorem canon_ite_fst {β : Type} {c : Prop} [Decidable c] {p q : State × β} (hp : p.1.Canon) (hq : q.1.Canon) :
    (if c then p else q).1.Canon := by
  split
  · exact hp
  · exact hq

/-- The state of a pair that an equation names. -/
theorem canon_fst {α : Type} {p : State × α} {s : State} {a : α} (h : p.1.Canon) (e : p = (s, a)) : s.Canon := by
  subst e; exact h

/-- An answer of a meaning's body: what it carries on with has a property, and where it halts the state is in canonical form. -/
def Keeps {α : Type} (P : α → Prop) : Except Halt α → Prop
  | .ok a => P a
  | .error (.trap s _) => s.Canon
  | .error (.wait s _ _) => s.Canon
  | .error (.stop _) => True

theorem Keeps.bind {α β : Type} {P : α → Prop} {Q : β → Prop} {x : Except Halt α} {f : α → Except Halt β} (hx : Keeps P x)
    (hf : ∀ a, P a → Keeps Q (f a)) : Keeps Q (x >>= f) :=
  match x, hx with
  | .ok a, hx => hf a hx
  | .error (.trap _ _), hx => hx
  | .error (.wait _ _ _), hx => hx
  | .error (.stop _), _ => trivial

theorem Keeps.ite {α : Type} {P : α → Prop} {c : Prop} [Decidable c] {x y : Except Halt α} (hx : Keeps P x) (hy : Keeps P y) :
    Keeps P (if c then x else y) := by
  split
  · exact hx
  · exact hy

/-- A step that is taken in two ways, and what follows it. -/
theorem Keeps.ite_bind {α β : Type} {P : α → Prop} {Q : β → Prop} {c : Prop} [Decidable c] {x y : Except Halt α} {f : α → Except Halt β}
    (hx : Keeps P x) (hy : Keeps P y) (hf : ∀ a, P a → Keeps Q (f a)) : Keeps Q (if c then x >>= f else y >>= f) := by
  split
  · exact hx.bind hf
  · exact hy.bind hf

theorem Keeps.map {α β : Type} {P : α → Prop} {Q : β → Prop} {f : α → β} {x : Except Halt α} (hx : Keeps P x)
    (hf : ∀ a, P a → Q (f a)) : Keeps Q (x.map f) :=
  match x, hx with
  | .ok a, hx => hf a hx
  | .error (.trap _ _), hx => hx
  | .error (.wait _ _ _), hx => hx
  | .error (.stop _), _ => trivial

theorem Keeps.of_ok {α : Type} {P : α → Prop} {x : Except Halt α} {a : α} (h : Keeps P x) (e : x = .ok a) : P a := by
  subst e; exact h

theorem Keeps.of_trap {α : Type} {P : α → Prop} {x : Except Halt α} {s : State} {t : TrapInfo} (h : Keeps P x)
    (e : x = .error (.trap s t)) : s.Canon := by
  subst e; exact h

theorem Keeps.of_wait {α : Type} {P : α → Prop} {x : Except Halt α} {s : State} {k : WaitKind} {lim : Option Nat} (h : Keeps P x)
    (e : x = .error (.wait s k lim)) : s.Canon := by
  subst e; exact h

/-- A state, if one is answered, is in canonical form. -/
def OkCanon {ε : Type} : Except ε State → Prop
  | .ok s => s.Canon
  | .error _ => True

theorem OkCanon.ite {ε : Type} {c : Prop} [Decidable c] {x y : Except ε State} (hx : OkCanon x) (hy : OkCanon y) :
    OkCanon (if c then x else y) := by
  split
  · exact hx
  · exact hy

theorem OkCanon.of_forall {ε : Type} {x : Except ε State} (h : ∀ s, x = .ok s → s.Canon) : OkCanon x := by
  cases x with
  | ok s => exact h s rfl
  | error _ => exact trivial

theorem OkCanon.of_ok {ε : Type} {x : Except ε State} {s : State} (h : OkCanon x) (e : x = .ok s) : s.Canon := by
  subst e; exact h

/-- A state, if there is one, is in canonical form. -/
def SomeCanon : Option State → Prop
  | some s => s.Canon
  | none => True

theorem SomeCanon.ite {c : Prop} [Decidable c] {x y : Option State} (hx : SomeCanon x) (hy : SomeCanon y) :
    SomeCanon (if c then x else y) := by
  split
  · exact hx
  · exact hy

theorem SomeCanon.of_some {x : Option State} {s : State} (h : SomeCanon x) (e : x = some s) : s.Canon := by
  subst e; exact h

theorem getD_canon {x : Option State} {s : State} (hx : SomeCanon x) (hs : s.Canon) : (x.getD s).Canon :=
  match x, hx with
  | some _, hx => hx
  | none, _ => hs

/-- The first state that a search along a list finds. -/
theorem findSome_canon {α : Type} {f : α → Option State} {l : List α} (hf : ∀ a, SomeCanon (f a)) : SomeCanon (l.findSome? f) := by
  induction l with
  | nil => exact trivial
  | cons a l ih =>
    rw [List.findSome?_cons]
    split
    · rename_i e
      exact (hf a).of_some e
    · exact ih

/-- The next state, if there is one, is in canonical form. -/
def NextCanon : Host.Outcome State Fault Refusal → Prop
  | .next s => s.Canon
  | _ => True

theorem NextCanon.ite {c : Prop} [Decidable c] {x y : Host.Outcome State Fault Refusal} (hx : NextCanon x) (hy : NextCanon y) :
    NextCanon (if c then x else y) := by
  split
  · exact hx
  · exact hy

theorem NextCanon.of_next {x : Host.Outcome State Fault Refusal} {s : State} (h : NextCanon x) (e : x = .next s) : s.Canon := by
  subst e; exact h

/-- The state of an engine's answer is in canonical form. -/
def Eng.Canon {α : Type} : Eng α → Prop
  | .ok s _ => s.Canon
  | .wait s _ => s.Canon
  | .fail s _ => s.Canon
  | .stop _ => True

theorem Eng.Canon.ite {α : Type} {c : Prop} [Decidable c] {x y : Eng α} (hx : x.Canon) (hy : y.Canon) :
    (if c then x else y : Eng α).Canon := by
  split
  · exact hx
  · exact hy

theorem Eng.Canon.of_ok {α : Type} {x : Eng α} {s : State} {a : α} (h : x.Canon) (e : x = .ok s a) : s.Canon := by
  subst e; exact h
theorem Eng.Canon.of_wait {α : Type} {x : Eng α} {s : State} {t : Option HeldReq} (h : x.Canon) (e : x = .wait s t) : s.Canon := by
  subst e; exact h
theorem Eng.Canon.of_fail {α : Type} {x : Eng α} {s : State} {c : BitVec 8} (h : x.Canon) (e : x = .fail s c) : s.Canon := by
  subst e; exact h

/-- The state that a home leaves of an update is in canonical form. -/
def Taken.Canon : Taken → Prop
  | .done s => s.Canon
  | .failed s _ => s.Canon
  | .held s => s.Canon
  | .nowhere _ => True

theorem Taken.Canon.ite {c : Prop} [Decidable c] {x y : Taken} (hx : x.Canon) (hy : y.Canon) :
    (if c then x else y : Taken).Canon := by
  split
  · exact hx
  · exact hy

theorem Taken.Canon.of_done {x : Taken} {s : State} (h : x.Canon) (e : x = .done s) : s.Canon := by subst e; exact h
theorem Taken.Canon.of_failed {x : Taken} {s : State} {c : BitVec 8} (h : x.Canon) (e : x = .failed s c) : s.Canon := by
  subst e; exact h
theorem Taken.Canon.of_held {x : Taken} {s : State} (h : x.Canon) (e : x = .held s) : s.Canon := by subst e; exact h

/-- The state that a delivery leaves is in canonical form. -/
def Delivered.Canon : Delivered → Prop
  | .done s _ _ => s.Canon
  | .held s _ => s.Canon
  | _ => True

theorem Delivered.Canon.ite {c : Prop} [Decidable c] {x y : Delivered} (hx : x.Canon) (hy : y.Canon) :
    (if c then x else y : Delivered).Canon := by
  split
  · exact hx
  · exact hy

theorem Delivered.Canon.of_done {x : Delivered} {s : State} {n : Nat} {p : Bool} (h : x.Canon) (e : x = .done s n p) : s.Canon := by
  subst e; exact h
theorem Delivered.Canon.of_held {x : Delivered} {s : State} {t : Option HeldReq} (h : x.Canon) (e : x = .held s t) : s.Canon := by
  subst e; exact h

/-! ### The state of the machine -/

theorem reset_canon : State.reset.Canon := ⟨rfl, rfl⟩

/-! ### Reading and writing the state of strands, cores, clusters and dies -/

theorem setStrand_canon {s : State} {n : Nat} {x : Strand} (hs : s.Canon) : (State.setStrand s n x).Canon := canon_same hs

theorem setCore_canon {s : State} {n : Nat} {x : Core} (hs : s.Canon) : (State.setCore s n x).Canon := canon_same hs

theorem setCluster_canon {s : State} {n : Nat} {x : Cluster} (hs : s.Canon) : (State.setCluster s n x).Canon := canon_same hs

theorem setDie_canon {s : State} {n : Nat} {x : Die} (hs : s.Canon) : (State.setDie s n x).Canon := canon_same hs

theorem setMe_canon {s : State} {x : Strand} (hs : s.Canon) : (State.setMe s x).Canon := setStrand_canon hs

theorem setKore_canon {s : State} {x : Core} (hs : s.Canon) : (State.setKore s x).Canon := setCore_canon hs

theorem sset_canon {s : State} {r : BitVec 5} {w : Word} (hs : s.Canon) : (State.sset s r w).Canon := setMe_canon hs

theorem rowSet_canon {s : State} {r : Row} {v : PRow} (hs : s.Canon) : (State.rowSet s r v).Canon := by
  unfold State.rowSet
  split
  · exact setKore_canon hs
  · exact setKore_canon hs
  · exact setMe_canon hs

theorem free_canon {s : State} (hs : s.Canon) : (State.free s).Canon := canon_same hs

/-! ### Memory -/

theorem translate_canon {s : State} {sp : Space} {va : BitVec 56} {need : Need} (hs : s.Canon) : (translate s sp va need).1.Canon := by
  unfold translate
  extract_lets
  refine canon_ite_fst hs ?_
  split
  · exact hs
  split
  · exact hs
  · exact hs
  · exact setDie_canon hs
  · exact setDie_canon hs

/-! ### The skein of a die -/

theorem skeinAdd_canon {s : State} {d : Nat} {e : SkeinEntry} (hs : s.Canon) : (skeinAdd s d e).Canon := setDie_canon hs

theorem freezeCore_canon {s : State} {d c limit : Nat} (hs : s.Canon) : (freezeCore s d c limit).Canon :=
  setDie_canon (setCore_canon hs)

/-! ### Launch records, jobs and forwarding -/

theorem setRecWord_canon {s : State} {d n off v : Nat} (hs : s.Canon) : (State.setRecWord s d n off v).Canon := setNum_canon hs

theorem setRecBits_canon {s : State} {d n off lo w v : Nat} (hs : s.Canon) : (State.setRecBits s d n off lo w v).Canon :=
  setRecWord_canon hs

theorem setRecx_canon {s : State} {d n : Nat} {x : RecX} (hs : s.Canon) : (State.setRecx s d n x).Canon := setDie_canon hs

theorem hwRead_canon {s : State} {sp : Space} {va : BitVec 56} {n : Nat} (hs : s.Canon) : (hwRead s sp va n).1.Canon := by
  unfold hwRead
  split
  · rename_i e₁
    exact canon_fst (translate_canon hs) e₁
  · rename_i e₂
    exact canon_fst (translate_canon hs) e₂

theorem recPricking_canon {s : State} {d n : Nat} (hs : s.Canon) : (recPricking s d n).1.Canon := hwRead_canon hs

theorem makeReady_canon {s : State} {d n : Nat} (hs : s.Canon) : (makeReady s d n).Canon :=
  setRecBits_canon (setDie_canon (setRecx_canon hs))

theorem decWait_canon {s : State} {d n : Nat} (hs : s.Canon) : (decWait s d n).Canon :=
  canon_ite (makeReady_canon (setRecBits_canon hs)) (setRecBits_canon hs)

theorem setJob_canon {s : State} {d j : Nat} {x : Job} (hs : s.Canon) : (State.setJob s d j x).Canon := setDie_canon hs

theorem armRecord_canon {s : State} {tenant d n : Nat} (hs : s.Canon) : OkCanon (armRecord s tenant d n) := by
  unfold armRecord
  split
  · exact decWait_canon hs
  · exact trivial
  · exact trivial
  · exact trivial
  split
  extract_lets
  refine OkCanon.ite trivial (OkCanon.ite trivial ?_)
  split
  · rename_i e₁
    refine OkCanon.ite (makeReady_canon (setRecWord_canon (canon_fst (recPricking_canon (setJob_canon hs)) e₁))) ?_
    exact setRecWord_canon (canon_fst (recPricking_canon (setJob_canon hs)) e₁)

theorem jobDone_canon {s : State} {job : Nat × Nat} (hs : s.Canon) : (jobDone s job).Canon := setJob_canon hs

theorem forwardRecord_canon {s : State} {d : Nat} {f : Forward} (hs : s.Canon) : (forwardRecord s d f).Canon := by
  unfold forwardRecord
  extract_lets
  refine canon_ite hs ?_
  split
  extract_lets v₁
  refine canon_ite (setRecBits_canon hs) ?_
  split
  · exact setRecBits_canon hs
  · exact setRecBits_canon hs
  split
  · rename_i e₁
    refine (armRecord_canon ?_).of_ok e₁
    unfold v₁
    split
    · exact hs
    · exact setRecBits_canon (setNum_canon hs)
  · exact setRecBits_canon hs

theorem endForward_canon {s : State} {d : Nat} {f : Forward} (hs : s.Canon) : (endForward s d f).Canon := by
  unfold endForward
  split
  exact canon_ite (setDie_canon hs) (jobDone_canon (forwardRecord_canon hs))

theorem endRecord_canon {s : State} {d n : Nat} {out : Option HBits} (hs : s.Canon) : (endRecord s d n out).Canon :=
  endForward_canon hs

theorem heldForwards_canon {s : State} (hs : s.Canon) : (heldForwards s).Canon :=
  canon_foldl hs (fun _ _ h₁ => canon_foldl (setDie_canon h₁) (fun _ _ h₂ => endForward_canon h₂))

theorem recOut_canon {s : State} {d n : Nat} (hs : s.Canon) : (recOut s d n).1.Canon := by
  unfold recOut
  split
  · rename_i e₁
    exact canon_fst (recPricking_canon hs) e₁
  · rename_i e₂
    exact canon_fst (recPricking_canon hs) e₂

theorem stopStitches_canon {s : State} {id : LaunchId} (hs : s.Canon) : (stopStitches s id).Canon := canon_same hs

theorem endSaved_canon {s : State} {id : LaunchId} {xs : List Suspended} (hs : s.Canon) : (endSaved s id xs).Canon :=
  canon_same hs

theorem dropEprio_canon {s : State} {d n : Nat} (hs : s.Canon) : (dropEprio s d n).Canon := setRecBits_canon hs

theorem failRecord_canon {s : State} {id : LaunchId} {cause : BitVec 8} (hs : s.Canon) : (failRecord s id cause).Canon := by
  unfold failRecord
  extract_lets
  refine canon_ite hs ?_
  split
  · exact dropEprio_canon
      (endRecord_canon (setRecx_canon (endSaved_canon (stopStitches_canon (setRecBits_canon (setRecBits_canon hs))))))
  · exact setRecBits_canon (setRecBits_canon hs)
  · exact hs

/-- What is left of `failDispatch` once the record and the notices are written. -/
def dispatchFailed (s : State) (d n : Nat) (status sub : BitVec 8) : State :=
  let s := s.setDie d { s.die d with notices := .dispatch n status sub :: (s.die d).notices }
  let (s, out) := recOut s d n
  endRecord s d n out
theorem dispatchFailed_canon {s : State} {d n : Nat} {status sub : BitVec 8} (hs : s.Canon) :
    (dispatchFailed s d n status sub).Canon :=
  endRecord_canon (recOut_canon (setDie_canon hs))
theorem failDispatch_eq (s : State) (d n : Nat) (status sub : BitVec 8) :
    failDispatch s d n status sub =
      dispatchFailed ((s.setRecBits d n 0 0 3 6).setRecBits d n 0 32 32 status.toNat) d n status sub := rfl
theorem failDispatch_canon {s : State} {d n : Nat} {status sub : BitVec 8} (hs : s.Canon) :
    (failDispatch s d n status sub).Canon := by
  rw [failDispatch_eq]
  exact dispatchFailed_canon (setRecBits_canon (setRecBits_canon hs))

theorem doneRecord_canon {s : State} {d n : Nat} {status : BitVec 32} {reused : Bool} {out : Option HBits} (hs : s.Canon) :
    (doneRecord s d n status reused out).Canon :=
  canon_ite (dropEprio_canon (endRecord_canon (setRecWord_canon hs))) (endRecord_canon (setRecWord_canon hs))

theorem countTag_canon {s : State} {d : Nat} {tag : BitVec 32} {n : Nat} (hs : s.Canon) : (countTag s d tag n).Canon := by
  unfold countTag
  extract_lets
  split
  · exact hs
  · exact canon_ite (setDie_canon hs) (decWait_canon (setDie_canon hs))

/-! ### Handles and tiles -/

theorem poisonRun_canon {s : State} {e : SkeinEntry} {va : BitVec 56} {n : Nat} (hs : s.Canon) : (poisonRun s e va n).Canon := by
  unfold poisonRun
  refine canon_foldl hs (fun s₁ x₁ h₁ => ?_)
  extract_lets
  split
  rename_i e₁
  refine canon_ite (skeinAdd_canon (canon_fst (translate_canon h₁) e₁)) ?_
  split
  · exact setBlockPoison_canon (canon_fst (translate_canon h₁) e₁)
  · exact canon_fst (translate_canon h₁) e₁

theorem poisonExtent_canon {s : State} {t : Stitch} (hs : s.Canon) : (poisonExtent s t).Canon :=
  canon_foldl hs (fun _ _ h₁ => poisonRun_canon h₁)

/-! ### The shared operations -/

theorem abandonUnit_canon {s : State} {n : Nat} (hs : s.Canon) : (abandonUnit s n).Canon :=
  canon_ite (setCore_canon (setStrand_canon hs)) (setCluster_canon (setCore_canon (setStrand_canon hs)))

theorem stopCore_canon {s : State} {c : Nat} (hs : s.Canon) : (stopCore s c).Canon :=
  canon_foldl hs (fun _ _ h₁ => canon_ite (setStrand_canon (abandonUnit_canon h₁)) (abandonUnit_canon h₁))

theorem failStitch_canon {s : State} {n : Nat} {cause : BitVec 8} (hs : s.Canon) : (failStitch s n cause).Canon := by
  unfold failStitch
  extract_lets
  split
  · exact stopCore_canon hs
  · exact failRecord_canon (canon_ite (poisonExtent_canon (setCore_canon (stopCore_canon hs))) (setCore_canon (stopCore_canon hs)))

theorem deliverTrap_canon {s : State} {n : Nat} {t : TrapInfo} (hs : s.Canon) : (deliverTrap s n t).Canon :=
  canon_ite (setStrand_canon (abandonUnit_canon hs))
    (canon_ite (setDie_canon (failStitch_canon (setStrand_canon (abandonUnit_canon hs))))
       (failStitch_canon (setStrand_canon (abandonUnit_canon hs))))

theorem tick_canon {s : State} (hs : s.Canon) : (State.tick s).Canon := canon_same hs

theorem raise_canon {α : Type} {s : State} {cause : BitVec 8} {tval : optParam Word 0} {sub : optParam (BitVec 8) 0}
    {lanes : optParam Word 0} {P : α → Prop} (hs : s.Canon) :
    Keeps P (raise s cause tval sub lanes) :=
  hs

theorem ill_canon {α : Type} {s : State} {i : Instr} {P : α → Prop} (hs : s.Canon) : Keeps P (ill s i) := raise_canon hs

theorem completeUnit_canon {i : Instr} {s : State} {g : Go} (hs : s.Canon) : (completeUnit i s g).Canon := setMe_canon hs

theorem beginWait_canon {s : State} {k : WaitKind} {lim : Option Nat} (hs : s.Canon) : (beginWait s k lim).Canon := setMe_canon hs

theorem setRgnWord_canon {s : State} {d r off v : Nat} (hs : s.Canon) : (State.setRgnWord s d r off v).Canon := setNum_canon hs

theorem withdrawArrival_canon {s : State} {n : Nat} (hs : s.Canon) : (withdrawArrival s n).Canon := by
  unfold withdrawArrival
  extract_lets
  refine canon_ite hs ?_
  split
  · exact setStrand_canon hs
  · exact setRecx_canon (setStrand_canon hs)

theorem expireWait_canon {s : State} {n : Nat} {k : WaitKind} (hs : s.Canon) : (expireWait s n k).Canon :=
  deliverTrap_canon (withdrawArrival_canon hs)

theorem settle_canon {i : Instr} {s0 : State} {r : Body} (hr : Keeps (·.1.Canon) r) : NextCanon (settle i s0 r) := by
  unfold settle
  split
  · exact tick_canon (completeUnit_canon hr)
  · exact tick_canon (deliverTrap_canon hr)
  · exact NextCanon.ite (tick_canon (expireWait_canon hr)) (tick_canon (beginWait_canon hr))
  · exact trivial

theorem uniformOr_canon {i : Instr} {pre : State → Option TrapInfo} {off : State → State} {body : State → Body} {s : State}
    (hoff : ∀ t, t.Canon → (off t).Canon) (hbody : ∀ t, t.Canon → Keeps (·.1.Canon) (body t)) (hs : s.Canon) :
    NextCanon (uniformOr i pre off body s) := by
  unfold uniformOr
  split
  · exact settle_canon hs
  · exact NextCanon.ite (settle_canon (hbody _ hs)) (settle_canon (hoff _ hs))

theorem uniform_canon {i : Instr} {pre : State → Option TrapInfo} {body : State → Body} {s : State}
    (hbody : ∀ t, t.Canon → Keeps (·.1.Canon) (body t)) (hs : s.Canon) :
    NextCanon (uniform i pre body s) :=
  uniformOr_canon (fun _ h₁ => h₁) (fun _ h₂ => hbody _ h₂) hs

theorem perLane_canon {i : Instr} {pre : State → Option TrapInfo} {body : Word → State → Body} {s : State}
    (hbody : ∀ y₁ t, t.Canon → Keeps (·.1.Canon) (body y₁ t)) (hs : s.Canon) :
    NextCanon (perLane i pre body s) := by
  unfold perLane
  split
  · exact settle_canon hs
  · exact NextCanon.ite (settle_canon hs) (settle_canon (hbody _ _ hs))

theorem fetchParcel_canon {s : State} {a : Nat} (hs : s.Canon) : (fetchParcel s a).1.Canon := by
  unfold fetchParcel
  refine canon_ite_fst hs ?_
  split
  · rename_i e₁
    exact canon_fst (translate_canon hs) e₁
  · rename_i e₂
    exact canon_fst (translate_canon hs) e₂

theorem checkTarget_canon {s : State} {t : Word} (hs : s.Canon) : Keeps State.Canon (checkTarget s t) := by
  unfold checkTarget
  refine Keeps.ite (raise_canon hs) (Keeps.ite ?_ hs)
  split
  · rename_i e₁
    exact Keeps.ite (raise_canon (canon_fst (fetchParcel_canon hs) e₁)) (canon_fst (fetchParcel_canon hs) e₁)
  · rename_i e₂
    exact canon_fst (fetchParcel_canon hs) e₂
  · rename_i e₃
    exact canon_fst (fetchParcel_canon hs) e₃
  · rename_i e₄
    exact raise_canon (canon_fst (fetchParcel_canon hs) e₄)
  · exact trivial
  · rename_i e₅
    exact canon_fst (fetchParcel_canon hs) e₅

theorem purity_canon {α : Type} {s : State} {sub : Nat} {P : α → Prop} (hs : s.Canon) : Keeps P (purity s sub) := raise_canon hs

/-! ### Scalar integer and FP32 instructions -/

theorem sreg3_canon {f : Word → Word → Word} {d a b : BitVec 5} {s : State} (hs : s.Canon) : Keeps (·.1.Canon) (sreg3 f d a b s) :=
  sset_canon hs

theorem sregImm_canon {f : Word → Word → Word} {d a : BitVec 5} {imm : Word} {s : State} (hs : s.Canon) :
    Keeps (·.1.Canon) (sregImm f d a imm s) :=
  sset_canon hs

theorem scalarUnc_canon {form : CForm} {pe pd : BitVec 3} {s : State} (hs : s.Canon) : (scalarUnc form pe pd s).Canon :=
  canon_ite (setMe_canon hs) hs

theorem compareBody_canon {form : CForm} {c : State → Bool} {pe pd : BitVec 3} {s : State} (hs : s.Canon) :
    Keeps (·.1.Canon) (compareBody form c pe pd s) :=
  setMe_canon hs

theorem putFloat_canon {m : Mods} {d : BitVec 5} {r : Rounded} {s : State} (hs : s.Canon) : (putFloat m d r s).Canon :=
  setMe_canon hs

theorem floatBody_canon {u : Hdr} {d : BitVec 5} {f : Mods → State → FVal × Flags} {s : State} (hs : s.Canon) :
    Keeps (·.1.Canon) (floatBody u d f s) := by
  unfold floatBody
  extract_lets
  split
  exact putFloat_canon hs

theorem codeBody_canon {d : BitVec 5} {f : State → Nat} {s : State} (hs : s.Canon) : Keeps (·.1.Canon) (codeBody d f s) :=
  sset_canon hs

/-! ### Control transfer -/

theorem transfer_canon {t : Word} {effect : State → State} {s : State} (heffect : ∀ t, t.Canon → (effect t).Canon)
    (hs : s.Canon) :
    Keeps (·.1.Canon) (transfer t effect s) :=
  Keeps.bind (checkTarget_canon hs) (fun _ h₁ => heffect _ h₁)

theorem chunksReach_canon {s : State} {need : Need} {va : BitVec 56} {k : Nat} (hs : s.Canon) : (chunksReach s need va k).1.Canon := by
  induction k generalizing s need va with
  | zero =>
    unfold chunksReach
    exact hs
  | succ _ ih =>
    unfold chunksReach
    split
    · rename_i e₁
      refine canon_ite_fst (canon_fst (translate_canon hs) e₁) ?_
      exact canon_ite_fst (canon_fst (translate_canon hs) e₁) (ih (canon_fst (translate_canon hs) e₁))
    · rename_i e₂
      exact canon_fst (translate_canon hs) e₂

theorem putChunk_canon {s : State} {c : Chunk} (hs : s.Canon) : (putChunk s c).Canon := by
  unfold putChunk
  split
  · rename_i e₁
    refine canon_ite (skeinAdd_canon (canon_fst (translate_canon hs) e₁)) ?_
    extract_lets
    split
    · exact setBlockPoison_canon (setBytes_canon (canon_fst (translate_canon hs) e₁))
    · exact setBytes_canon (canon_fst (translate_canon hs) e₁)
  · rename_i e₂
    exact canon_fst (translate_canon hs) e₂

theorem setPartRow_canon {s : State} {off : Int} {v : PRow} (hs : s.Canon) : (State.setPartRow s off v).Canon := setKore_canon hs

theorem window_canon {α : Type} {s : State} {sub : Nat} {P : α → Prop} (hs : s.Canon) : Keeps P (window s sub) := raise_canon hs

theorem spillFrame_canon {s : State} {f : Nat} (hs : s.Canon) : Keeps State.Canon (spillFrame s f) := by
  unfold spillFrame
  extract_lets
  split
  · exact trivial
  · rename_i e₁
    exact canon_fst (chunksReach_canon hs) e₁
  · rename_i e₂
    extract_lets
    split
    · exact freezeCore_canon (canon_fst (chunksReach_canon hs) e₂)
    · exact canon_fst (chunksReach_canon hs) e₂
    · exact setMe_canon (canon_foldl (canon_fst (chunksReach_canon hs) e₂) (fun _ _ h₁ => putChunk_canon h₁))
  · rename_i e₃
    exact window_canon (canon_fst (chunksReach_canon hs) e₃)

theorem spillFrames_canon {s : State} {l : List Nat} (hs : s.Canon) : Keeps State.Canon (spillFrames s l) := by
  induction l generalizing s with
  | nil =>
    unfold spillFrames
    exact hs
  | cons _ _ ih =>
    unfold spillFrames
    exact Keeps.bind (spillFrame_canon hs) (fun _ h₁ => ih h₁)

theorem callBody_canon {t : Word} {frm len : Nat} {s : State} (hs : s.Canon) : Keeps (·.1.Canon) (callBody t frm len s) := by
  unfold callBody
  refine Keeps.bind (checkTarget_canon hs) (fun _ h₁ => ?_)
  refine Keeps.ite (window_canon h₁) ?_
  exact Keeps.ite (window_canon h₁) (Keeps.ite (window_canon h₁) (Keeps.bind (spillFrames_canon h₁) (fun _ h₂ => setMe_canon h₂)))

theorem refilled_canon {s : State} {f : Nat} {va : BitVec 56} (hs : s.Canon) : (refilled s f va).Canon :=
  setMe_canon (canon_foldl hs (fun _ _ h₁ => setPartRow_canon h₁))

theorem refillFrame_canon {s : State} {f : Nat} (hs : s.Canon) : Keeps State.Canon (refillFrame s f) := by
  unfold refillFrame
  extract_lets
  refine Keeps.ite (window_canon hs) ?_
  split
  · exact trivial
  · rename_i e₁
    exact canon_fst (chunksReach_canon hs) e₁
  · rename_i e₂
    exact refilled_canon (canon_fst (chunksReach_canon hs) e₂)
  · rename_i e₃
    exact window_canon (canon_fst (chunksReach_canon hs) e₃)

theorem retBody_canon {s : State} (hs : s.Canon) : Keeps (·.1.Canon) (retBody s) := by
  unfold retBody
  refine Keeps.ite (window_canon hs) ?_
  refine Keeps.ite (window_canon hs) ?_
  refine Keeps.ite (raise_canon hs) ?_
  refine Keeps.ite (Keeps.bind (refillFrame_canon hs) (fun _ h₁ => setMe_canon h₁)) ?_
  exact Keeps.bind (P := State.Canon) (setMe_canon hs) (fun _ h₂ => setMe_canon h₂)

/-! ### The home of an address -/

theorem holdTaken_canon {s : State} {h : HBits} {sp : Space} {vas : List (BitVec 56)} (hs : s.Canon) :
    (holdTaken s h sp vas).Canon :=
  setMe_canon hs

theorem holdRows_canon {s : State} {vas : List (BitVec 56)} (hs : s.Canon) : (holdRows s vas).Canon := setMe_canon hs

theorem rowSaved_canon {s : State} (hs : s.Canon) : (rowSaved s).Canon := setMe_canon hs

theorem translatePages_canon {s : State} {sp : Space} {need : Need} {l : List (BitVec 56)} (hs : s.Canon) :
    (translatePages s sp need l).1.Canon := by
  induction l generalizing s sp need with
  | nil =>
    unfold translatePages
    exact hs
  | cons _ _ ih =>
    unfold translatePages
    split
    rename_i e₁
    split
    · rename_i e₂
      exact canon_fst (ih (canon_fst (translate_canon hs) e₁)) e₂

theorem countTracked_canon {s : State} {va : BitVec 56} {n : Nat} (hs : s.Canon) : (countTracked s va n).Canon :=
  canon_ite hs (canon_same hs)

theorem setPart_canon {s : State} {k : Nat} {b : Byte} {p : Part} (hs : s.Canon) : (State.setPart s k b p).Canon := by
  unfold State.setPart
  split <;> exact setByte_canon hs

theorem samplerInvalidate_canon {s : State} {d r : Nat} (hs : s.Canon) : (samplerInvalidate s d r).Canon := canon_same hs

theorem forgetRegion_canon {s : State} {d r : Nat} (hs : s.Canon) : (forgetRegion s d r).Canon :=
  setDie_canon (samplerInvalidate_canon hs)

theorem freeRegions_canon {s t : State} {ks : List Nat} (ht : t.Canon) : (freeRegions s t ks).Canon :=
  canon_foldl ht (fun _ _ h₁ => canon_ite (forgetRegion_canon h₁) h₁)

theorem storeCells_canon {s0 : State} {cells : List (Nat × Byte × Part)} {pblocks : List Nat} {clean : optParam (List Nat) []}
    (hs0 : s0.Canon) :
    (storeCells s0 cells pblocks clean).Canon :=
  canon_foldl (freeRegions_canon (canon_foldl hs0 (fun _ _ h₁ => setPart_canon h₁)))
    (fun _ _ h₂ => canon_ite (setBlockPoison_canon h₂) (canon_ite (setBlockPoison_canon h₂) h₂))

theorem hereCheck_canon {s : State} {h : HBits} {n : Nat} {els : List Elem} (hs : s.Canon) :
    Keeps (fun _ => True) (hereCheck s h n els) := by
  unfold hereCheck
  extract_lets
  refine Keeps.ite trivial (Keeps.ite hs (Keeps.ite hs ?_))
  split
  · exact raise_canon hs
  · exact Keeps.ite hs trivial

theorem openAccess_canon {s : State} {h : HBits} {sp : Space} {need : Need} {hre : Bool} {n : Nat} {els : List Elem}
    (hs : s.Canon) :
    Keeps (·.1.Canon) (openAccess s h sp need hre n els) := by
  unfold openAccess
  refine Keeps.ite (Keeps.bind (hereCheck_canon hs) (fun _ _ => hs)) (Keeps.ite hs ?_)
  split
  · exact hs
  · exact raise_canon hs
  · exact hs
  split
  rename_i e₁
  split
  · exact trivial
  · exact canon_fst (translatePages_canon hs) e₁

theorem makeReplica_canon {s : State} {h : HBits} {va : BitVec 56} (hs : s.Canon) : (makeReplica s h va).Canon := by
  unfold makeReplica
  extract_lets
  split
  · refine canon_ite hs ?_
    split
    exact setRgnWord_canon (setDie_canon hs)
  · exact hs

theorem homeElems_canon {s : State} {h : HBits} {sp : Space} {hre : Bool} {w : Nat} {els : List Elem} (hs : s.Canon) :
    Keeps (·.1.Canon) (homeElems s h sp hre w els) :=
  Keeps.bind (openAccess_canon hs) (fun _ h₁ => Keeps.ite (holdTaken_canon h₁) h₁)

theorem loadElems_canon {s : State} {h : HBits} {sp : Space} {hre : Bool} {w : Nat} {els : List Elem} (hs : s.Canon) :
    Keeps (·.1.Canon) (loadElems s h sp hre w els) := by
  unfold loadElems
  extract_lets near far
  refine Keeps.bind (homeElems_canon hs) (fun r hr => ?_)
  obtain ⟨t, got, absent, perm, poison⟩ := r
  dsimp -zeta only
  extract_lets u
  show u.Canon
  unfold u
  split
  · exact canon_ite (makeReplica_canon hr) hr
  · exact hr

theorem storeElems_canon {s : State} {h : HBits} {sp : Space} {hre : Bool} {w : Nat} {ordered tracked : Bool}
    {poison : Elem → Bool} {els : List (Elem × Nat)} (hs : s.Canon) :
    Keeps (·.1.Canon) (storeElems s h sp hre w ordered tracked poison els) := by
  unfold storeElems
  refine Keeps.bind (openAccess_canon hs) (fun x₁ h₁ => Keeps.ite (holdTaken_canon h₁) ?_)
  split
  · exact freezeCore_canon (holdTaken_canon h₁)
  · exact holdTaken_canon h₁
  · refine canon_ite ?_ ?_
    · exact canon_foldl (canon_foldl (storeCells_canon h₁) (fun _ _ h₂ => skeinAdd_canon h₂))
        (fun _ _ h₃ => countTracked_canon h₃)
    · exact canon_foldl (storeCells_canon h₁) (fun _ _ h₄ => skeinAdd_canon h₄)

/-! ### Feature words -/

theorem sysWrite_canon {s : State} {r : SysReg} {w : Word} (hs : s.Canon) : (sysWrite s r w).Canon := by
  unfold sysWrite
  extract_lets
  split
  · exact setMe_canon hs
  · exact setMe_canon hs
  · exact canon_ite hs (setMe_canon hs)
  · exact setMe_canon hs
  · exact setKore_canon hs
  · exact setKore_canon hs
  · exact setMe_canon hs
  · exact setMe_canon hs
  · exact setMe_canon hs
  · exact setMe_canon hs
  · exact setMe_canon hs
  · exact setMe_canon hs
  · exact setMe_canon hs
  · exact setMe_canon hs
  · exact setMe_canon hs
  · exact setMe_canon hs
  · exact setKore_canon hs
  · exact setKore_canon hs
  · exact hs
  · exact hs
  · exact hs
  · exact hs
  · exact hs
  · exact hs
  · exact hs
  · exact hs
  · exact hs
  · exact hs
  · exact hs
  · exact hs

theorem storeRows_canon {s : State} {x : BitVec 56} {l : List PRow} (hs : s.Canon) : Keeps State.Canon (storeRows s x l) := by
  induction l generalizing s x with
  | nil =>
    unfold storeRows
    exact hs
  | cons _ _ ih =>
    unfold storeRows
    extract_lets
    split
    · exact trivial
    · rename_i e₁
      exact canon_fst (canon_ite_fst hs (translate_canon hs)) e₁
    rename_i e₂
    refine Keeps.ite (canon_fst (canon_ite_fst hs (translate_canon hs)) e₂) (Keeps.ite ?_ ?_)
    · extract_lets
      split
      · exact freezeCore_canon (holdRows_canon (canon_fst (canon_ite_fst hs (translate_canon hs)) e₂))
      · exact holdRows_canon (canon_fst (canon_ite_fst hs (translate_canon hs)) e₂)
      · exact ih (rowSaved_canon (skeinAdd_canon (canon_fst (canon_ite_fst hs (translate_canon hs)) e₂)))
    split
    · exact ih (rowSaved_canon (setRowAt_canon (canon_fst (canon_ite_fst hs (translate_canon hs)) e₂)))
    · exact ih (rowSaved_canon (canon_fst (canon_ite_fst hs (translate_canon hs)) e₂))

theorem loadRows_canon {s : State} {area : List (BitVec 56)} {x : BitVec 56} {k : Nat} (hs : s.Canon) :
    Keeps (·.1.Canon) (loadRows s area x k) := by
  induction k generalizing s area x with
  | zero =>
    unfold loadRows
    exact hs
  | succ _ ih =>
    unfold loadRows
    refine Keeps.ite hs (Keeps.ite hs (Keeps.ite (holdRows_canon hs) ?_))
    split
    · exact trivial
    · rename_i e₁
      exact canon_fst (translate_canon hs) e₁
    · rename_i e₂
      exact Keeps.bind (P := State.Canon ∘ Prod.fst) (ih (canon_fst (translate_canon hs) e₂)) (fun _ h₁ => h₁)
    · rename_i e₃
      exact holdRows_canon (canon_fst (translate_canon hs) e₃)

theorem execCtxrestore_canon {u : Hdr} {a : BitVec 5} {s : State} (hs : s.Canon) : NextCanon (execCtxrestore u a s) :=
  uniform_canon (fun _ h₁ =>
      Keeps.ite (raise_canon h₁)
        (Keeps.bind (loadRows_canon h₁) (fun _ h₂ => Keeps.ite (window_canon h₂) (setMe_canon (setKore_canon h₂))))) hs

/-! ### Vector operands and the order of reads and writes -/

theorem readRefs_canon {s : State} {l : List Ref} {l₁ : List PRow} (hs : s.Canon) :
    Keeps (fun _ => True) (readRefs s l l₁) := by
  induction l generalizing l₁ with
  | nil => exact trivial
  | cons r rs ih =>
    cases r with
    | lx => exact ih
    | row r =>
      cases r with
      | b n =>
        unfold readRefs
        exact Keeps.ite ih (setMe_canon hs)
      | v n => exact ih
      | o n => exact ih

theorem readSources_canon {s : State} {refs : List Ref} (hs : s.Canon) : Keeps (fun _ => True) (readSources s refs) :=
  readRefs_canon hs

theorem strictCheck_canon {s : State} {lanes : Word} {refs : List Ref} {vals : List PRow} (hs : s.Canon) :
    Keeps (fun _ => True) (strictCheck s lanes refs vals) := by
  unfold strictCheck
  refine Keeps.ite ?_ trivial
  split
  · exact raise_canon hs
  · exact trivial

theorem takeDests_canon {s : State} {vals : List PRow} {dests : List Row} (hs : s.Canon) :
    Keeps (fun _ => True) (takeDests s vals dests) := by
  unfold takeDests
  extract_lets
  split
  · exact trivial
  · exact setMe_canon (setKore_canon hs)

theorem writeRows_canon {s : State} {l : List (Row × PRow)} (hs : s.Canon) : (writeRows s l).Canon := by
  induction l generalizing s with
  | nil => exact hs
  | cons e l ih =>
    cases l with
    | nil => exact setMe_canon (rowSet_canon hs)
    | cons e' l => exact ih (rowSet_canon hs)

theorem vectorBody_canon {q : Bool} {refs : List Ref} {dests : List Row} {f : List PRow → State → VecOut} {lanes : Word}
    {s : State} (hs : s.Canon) :
    Keeps (·.1.Canon) (vectorBody q refs dests f lanes s) :=
  Keeps.bind (readSources_canon hs) (fun _ _ =>
      Keeps.bind (strictCheck_canon hs) (fun _ _ => Keeps.bind (takeDests_canon hs) (fun _ _ => setMe_canon (writeRows_canon hs))))

/-! ### Vector instructions -/

theorem elementwise_canon {i : Instr} {m : Mods} {q : Bool} {w n : Nat} {f : Mods → Nat → Nat} {d : Row} {a b : VSrc}
    {twoSrc readsD : Bool} {op : Strand → ElemOp} {s : State} (hs : s.Canon) :
    NextCanon (elementwise i m q w n f d a b twoSrc readsD op s) := by
  unfold elementwise
  refine perLane_canon ?_ hs
  exact fun _ _ h₁ => vectorBody_canon h₁

theorem execVcmp_canon {u : Hdr} {form : CForm} {ty : VTy} {cond : Cond} {pe pd : BitVec 3} {a b : VSrc} {s : State}
    (hs : s.Canon) :
    NextCanon (execVcmp u form ty cond pe pd a b s) := by
  unfold execVcmp
  extract_lets
  split
  · exact settle_canon hs
  refine NextCanon.ite (settle_canon (scalarUnc_canon hs)) ?_
  refine settle_canon (Keeps.bind (readSources_canon hs) (fun x₁ h₁ => Keeps.bind (strictCheck_canon hs) (fun x₂ h₂ => ?_)))
  split
  split
  exact setMe_canon hs

theorem permute_canon {i : Instr} {d : Row} {refs : List Ref} {m : Mods} {a : VSrc} {sel : State → List PRow → Nat → Option Nat}
    {s : State} (hs : s.Canon) :
    NextCanon (permute i d refs m a sel s) := by
  unfold permute
  refine perLane_canon ?_ hs
  exact fun _ _ h₁ => vectorBody_canon h₁

theorem reduce_canon {i : Instr} {ty : VTy} {m : Mods} {d : Row} {a : VSrc} {r : Strand → List Nat → Rounded} {s : State}
    (hs : s.Canon) :
    NextCanon (reduce i ty m d a r s) := by
  unfold reduce
  refine perLane_canon ?_ hs
  exact fun _ _ h₁ => vectorBody_canon h₁

theorem execVget_canon {u : Hdr} {d : Row} {a : BitVec 5} {s : State} (hs : s.Canon) : NextCanon (execVget u d a s) := by
  unfold execVget
  refine perLane_canon (fun x₁ s₁ h₁ => ?_) hs
  split
  · exact ill_canon h₁
  · exact vectorBody_canon h₁

theorem execVput_canon {u : Hdr} {src : RowSrc} {a : BitVec 5} {s : State} (hs : s.Canon) : NextCanon (execVput u src a s) := by
  unfold execVput
  refine perLane_canon (fun x₁ s₁ h₁ => ?_) hs
  split
  · exact vectorBody_canon h₁
  · exact ill_canon h₁

theorem putPair_canon {r : Option (BitVec 5 × Word)} {s : State} (hs : s.Canon) : (putPair r s).Canon := by
  unfold putPair
  split
  · exact sset_canon hs
  · exact hs

theorem runPair_canon {i : Instr} {u : Hdr} {h : PairS} {v : PairV} {s : State} (hs : s.Canon) : NextCanon (runPair i u h v s) := by
  unfold runPair
  split
  · exact settle_canon (canon_ite (putPair_canon hs) hs)
  split
  · exact settle_canon hs
  · refine NextCanon.ite (settle_canon (putPair_canon hs)) ?_
    exact settle_canon (Keeps.bind (vectorBody_canon hs) (fun _ h₁ => putPair_canon h₁))

/-! ### Handle checks -/

theorem handleCheck_canon {s : State} {i : Instr} {h : HBits} {sp : Option Space} {lanes : Word} (hs : s.Canon) :
    Keeps (fun _ => True) (handleCheck s i h sp lanes) :=
  Keeps.ite (ill_canon hs) (Keeps.ite (raise_canon hs) (Keeps.ite (raise_canon hs) trivial))

theorem widthCheck_canon {s : State} {i : Instr} {h : HBits} {w : Nat} (hs : s.Canon) : Keeps (fun _ => True) (widthCheck s i h w) :=
  Keeps.ite trivial (ill_canon hs)

theorem alignCheck_canon {s : State} {h : HBits} {w first : Nat} {lanes : Word} (hs : s.Canon) :
    Keeps (fun _ => True) (alignCheck s h w first lanes) :=
  Keeps.ite (raise_canon hs) trivial

theorem pureRead_canon {s : State} {h : HBits} (hs : s.Canon) : Keeps (fun _ => True) (pureRead s h) :=
  Keeps.ite (purity_canon hs) trivial

theorem pureWrite_canon {s : State} {r : BitVec 4} (hs : s.Canon) : Keeps (fun _ => True) (pureWrite s r) :=
  Keeps.ite (purity_canon hs) trivial

theorem pureNever_canon {s : State} {sub : Nat} (hs : s.Canon) : Keeps (fun _ => True) (pureNever s sub) :=
  Keeps.ite (purity_canon hs) trivial

theorem loadCheck_canon {s : State} {i : Instr} {sp : Space} {ew : EW} {h : BitVec 4} {first : Nat} {lanes : Word}
    (hs : s.Canon) :
    Keeps (fun _ => True) (loadCheck s i sp ew h first lanes) := by
  unfold loadCheck
  refine Keeps.bind (handleCheck_canon hs) (fun _ _ => ?_)
  refine Keeps.bind (widthCheck_canon hs) (fun _ _ => ?_)
  refine Keeps.ite (Keeps.bind (pureRead_canon hs) (fun _ _ => alignCheck_canon hs)) ?_
  exact Keeps.bind (pureNever_canon hs) (fun _ _ => alignCheck_canon hs)

theorem storeCheck_canon {s : State} {i : Instr} {ew : EW} {h : BitVec 4} {first : Nat} {lanes : Word} (hs : s.Canon) :
    Keeps (fun _ => True) (storeCheck s i ew h first lanes) :=
  Keeps.bind (handleCheck_canon hs)
    (fun _ _ => Keeps.bind (widthCheck_canon hs) (fun _ _ => Keeps.bind (pureWrite_canon hs) (fun _ _ => alignCheck_canon hs)))

theorem streamCheck_canon {s : State} {i : Instr} {h : BitVec 4} (hs : s.Canon) : Keeps (fun _ => True) (streamCheck s i h) :=
  Keeps.bind (handleCheck_canon hs) (fun _ _ => pureNever_canon hs)

theorem reserveDest_canon {s : State} {d : Row} (hs : s.Canon) : (reserveDest s d).Canon := setKore_canon hs

theorem setPs_canon {s : State} {h : BitVec 4} {p : Bool} (hs : s.Canon) : (setPs s h p).Canon := canon_ite (setMe_canon hs) hs

theorem loadBody_canon {i : Instr} {sp : Space} {ew : EW} {hre : Bool} {d : Row} {h : BitVec 4} {first : Nat} {idx : Option Row}
    {lanes : Word} {s : State} (hs : s.Canon) : Keeps (·.1.Canon) (loadBody i sp ew hre d h first idx lanes s) := by
  unfold loadBody
  extract_lets hb w
  refine Keeps.bind (loadCheck_canon hs) (fun _ _ => ?_)
  extract_lets
  refine Keeps.bind (readSources_canon hs) (fun vals _ => ?_)
  refine Keeps.bind (strictCheck_canon hs) (fun _ _ => Keeps.bind (takeDests_canon hs) (fun _ _ => ?_))
  extract_lets
  refine Keeps.bind (loadElems_canon (reserveDest_canon (setMe_canon hs))) (fun r hr => ?_)
  obtain ⟨s₂, got, absent, perm, poison⟩ := r
  dsimp -zeta only
  extract_lets trap failed m old psn s₃ s₄
  have hs₃ : s₃.Canon := canon_ite hr (writeRows_canon hr)
  have hs₄ : s₄.Canon := setPs_canon hs₃
  clear_value trap s₄
  split
  · exact hs₄
  · exact hs₄

theorem storeBody_canon {i : Instr} {ew : EW} {hre : Bool} {src : RowSrc} {h : BitVec 4} {first : Nat} {idx : Option Row}
    {lanes : Word} {s : State} (hs : s.Canon) :
    Keeps (·.1.Canon) (storeBody i ew hre src h first idx lanes s) := by
  unfold storeBody
  extract_lets
  refine Keeps.bind (storeCheck_canon hs) (fun x₁ h₁ => ?_)
  refine Keeps.bind (readSources_canon hs) (fun x₂ h₂ => ?_)
  refine Keeps.bind (strictCheck_canon hs) (fun x₃ h₃ => Keeps.bind (storeElems_canon (setMe_canon hs)) (fun x₄ h₄ => ?_))
  split
  extract_lets
  split <;> exact h₄

theorem execHview_canon {u : Hdr} {hd hp : BitVec 4} {a b : BitVec 5} {s : State} (hs : s.Canon) :
    NextCanon (execHview u hd hp a b s) := by
  unfold execHview
  refine uniform_canon (fun s₁ h₁ => Keeps.bind (handleCheck_canon h₁) (fun x₁ h₂ => ?_)) hs
  split
  split
  · exact setMe_canon h₁
  · exact raise_canon h₁

/-! ### Accrue updates -/

theorem releaseEntry_canon {s : State} {e : AccEntry} (hs : s.Canon) : (releaseEntry s e).Canon :=
  canon_ite (setRecx_canon (setDie_canon hs)) (setDie_canon hs)

theorem modStitch_canon {s : State} {c : Nat} {id : LaunchId} {f : Stitch → Stitch} (hs : s.Canon) : (modStitch s c id f).Canon := by
  unfold modStitch
  extract_lets
  split
  · exact canon_ite (setCore_canon hs) hs
  · exact hs

theorem modStitchOf_canon {s : State} {id : LaunchId} {lin : BitVec 32} {f : Stitch → Stitch} (hs : s.Canon) :
    (modStitchOf s id lin f).Canon := by
  unfold modStitchOf
  split
  · exact modStitch_canon hs
  · exact canon_ite (setRecx_canon hs) hs

theorem keepEntries_canon {s : State} {p : AccEntry → Bool} (hs : s.Canon) : (keepEntries s p).Canon := canon_same hs

theorem releaseStitch_canon {s : State} {id : LaunchId} {lin : BitVec 32} {p : AccEntry → Bool} (hs : s.Canon) :
    (releaseStitch s id lin p).Canon :=
  canon_foldl (keepEntries_canon hs) (fun _ _ h₁ => releaseEntry_canon h₁)

theorem dropStitch_canon {s : State} {id : LaunchId} {lin : BitVec 32} (hs : s.Canon) : (dropStitch s id lin).Canon :=
  keepEntries_canon hs

theorem earlyCommit_canon {s : State} {cl : Nat} {id : LaunchId} {lin : BitVec 32} (hs : s.Canon) :
    (earlyCommit s cl id lin).Canon :=
  modStitchOf_canon (setCluster_canon (releaseStitch_canon hs))

theorem stageEntry_canon {s : State} {cl : Nat} {e : AccEntry} (hs : s.Canon) : (stageEntry s cl e).Canon :=
  canon_ite (earlyCommit_canon (setCluster_canon hs)) (setCluster_canon hs)

theorem accrue_canon {s : State} {cl : Nat} {e : AccEntry} (hs : s.Canon) : (accrue s cl e).Canon := by
  unfold accrue
  extract_lets
  refine canon_ite (releaseEntry_canon hs) ?_
  split
  · exact setCluster_canon hs
  refine canon_ite (setCluster_canon hs) ?_
  split
  · exact hs
  · exact stageEntry_canon (setCluster_canon hs)

theorem applyUpdate_canon {s : State} {e : AccEntry} {k : Nat} (hs : s.Canon) : (applyUpdate s e k).Canon := by
  unfold applyUpdate
  extract_lets _ _ v₁
  refine canon_ite (setBlockPoison_canon ?_) ?_
  · unfold v₁
    split
    · split
      exact setNum_canon (setDie_canon hs)
    · exact setNum_canon hs
  unfold v₁
  split
  · split
    exact setNum_canon (setDie_canon hs)
  · exact setNum_canon hs

theorem entryDone_canon {s : State} {e : AccEntry} (hs : s.Canon) : (entryDone s e).Canon := canon_ite (setRecx_canon hs) hs

theorem takeUpdate_canon {s : State} {e : AccEntry} (hs : s.Canon) : (takeUpdate s e).Canon := by
  unfold takeUpdate
  split
  · exact hs
  · exact hs
  · exact hs
  extract_lets
  refine Taken.Canon.ite hs ?_
  split
  · exact trivial
  rename_i e₁
  refine Taken.Canon.ite ?_ ?_
  · split
    · exact freezeCore_canon (canon_fst (translate_canon hs) e₁)
    · exact canon_fst (translate_canon hs) e₁
    · exact skeinAdd_canon (canon_fst (translate_canon hs) e₁)
  split
  · exact applyUpdate_canon (canon_fst (translate_canon hs) e₁)
  · exact canon_fst (translate_canon hs) e₁
  · exact canon_fst (translate_canon hs) e₁

theorem performEntry_canon {s : State} {e : AccEntry} (hs : s.Canon) : (performEntry s e).Canon := by
  unfold performEntry
  split
  · rename_i e₁
    exact entryDone_canon ((takeUpdate_canon hs).of_done e₁)
  · rename_i e₂
    exact failRecord_canon (entryDone_canon ((takeUpdate_canon hs).of_failed e₂))
  · exact takeUpdate_canon hs

theorem accCheck_canon {s : State} {i : Instr} {fmts : List Fmt} {h : BitVec 4} {lanes : Word} (hs : s.Canon) :
    Keeps (fun _ => True) (accCheck s i fmts h lanes) :=
  Keeps.bind (handleCheck_canon hs)
    (fun _ _ => Keeps.ite (ill_canon hs) (Keeps.bind (pureWrite_canon hs) (fun _ _ => alignCheck_canon hs)))

theorem accBody_canon {i : Instr} {kd : AccKind} {src : RowSrc} {h : BitVec 4} {a : BitVec 5} {lanes : Word} {s : State}
    (hs : s.Canon) :
    Keeps (·.1.Canon) (accBody i kd src h a lanes s) :=
  Keeps.bind (accCheck_canon hs) (fun _ _ =>
      Keeps.bind (readSources_canon hs)
        (fun _ _ => Keeps.bind (strictCheck_canon hs) (fun _ _ => canon_foldl hs (fun _ _ h₁ => accrue_canon h₁))))

/-! ### Stream rings -/

theorem uniformHome_canon {s : State} {h : HBits} {free : Bool} {n : Nat} {va : BitVec 56} (hs : s.Canon) :
    Keeps (fun _ => True) (uniformHome s h free n va) := by
  unfold uniformHome
  split
  · exact raise_canon hs
  · exact raise_canon hs
  · exact hs
  · exact trivial

theorem setHomeWord_canon {s : State} {sp : Space} {va : BitVec 56} {v : Nat} (hs : s.Canon) : (setHomeWord s sp va v).Canon := by
  unfold setHomeWord
  split
  · exact setNum_canon hs
  · exact hs

theorem setRingPtr_canon {s : State} {d r w v : Nat} (hs : s.Canon) : (setRingPtr s d r w v).Canon := setHomeWord_canon hs

theorem setHeader_canon {s : State} {d r k : Nat} {eos poison : Bool} {rows seq : Nat} (hs : s.Canon) :
    (setHeader s d r k eos poison rows seq).Canon :=
  setHomeWord_canon (setHomeWord_canon hs)

theorem ringReach_canon {s : State} {h : HBits} {l : List (BitVec 56)} (hs : s.Canon) : Keeps State.Canon (ringReach s h l) := by
  induction l generalizing s h with
  | nil =>
    unfold ringReach
    exact hs
  | cons _ _ ih =>
    unfold ringReach
    split
    · rename_i e₁
      exact ih (canon_fst (canon_ite_fst hs (translate_canon hs)) e₁)
    · rename_i e₂
      refine Keeps.ite (raise_canon (canon_fst (canon_ite_fst hs (translate_canon hs)) e₂)) ?_
      exact holdTaken_canon (canon_fst (canon_ite_fst hs (translate_canon hs)) e₂)
    · rename_i e₃
      exact raise_canon (canon_fst (canon_ite_fst hs (translate_canon hs)) e₃)
    · exact trivial
    · rename_i e₄
      exact canon_fst (canon_ite_fst hs (translate_canon hs)) e₄

theorem waitRing_canon {s : State} {h : HBits} (hs : s.Canon) : (waitRing s h).Canon := canon_ite hs (holdTaken_canon hs)

theorem sideCheck_canon {s : State} {d r w k : Nat} (hs : s.Canon) : Keeps (fun _ => True) (sideCheck s d r w k) :=
  Keeps.ite trivial (raise_canon hs)

theorem bindSide_canon {s : State} {d r w : Nat} (hs : s.Canon) : (bindSide s d r w).Canon := canon_ite (setRingPtr_canon hs) hs

theorem setRgnx_canon {s : State} {d r : Nat} {x : RgnX} (hs : s.Canon) : (State.setRgnx s d r x).Canon := setDie_canon hs

theorem completeSlot_canon {s : State} {d r rows : Nat} {eos poison : Bool} (hs : s.Canon) :
    (completeSlot s d r rows eos poison).Canon :=
  canon_ite (setRgnx_canon (setRingPtr_canon (setRingPtr_canon (setHeader_canon hs))))
    (setRingPtr_canon (setRingPtr_canon (setHeader_canon hs)))

theorem produceOpen_canon {s : State} {h : HBits} (hs : s.Canon) : Keeps State.Canon (produceOpen s h) := by
  unfold produceOpen
  extract_lets
  refine Keeps.bind (uniformHome_canon hs) (fun x₁ h₁ => ?_)
  refine Keeps.bind (ringReach_canon hs) (fun s₁ h₂ => ?_)
  refine Keeps.bind (sideCheck_canon h₂) (fun x₂ h₃ => Keeps.ite (raise_canon h₂) ?_)
  split
  · exact canon_ite (setKore_canon h₂) h₂
  · exact h₂

theorem slotPerm_canon {s : State} {need : Need} {va : BitVec 56} (hs : s.Canon) : Keeps State.Canon (slotPerm s need va) := by
  unfold slotPerm
  split
  · rename_i e₁
    exact raise_canon (canon_fst (translate_canon hs) e₁)
  · rename_i e₂
    exact canon_fst (translate_canon hs) e₂

theorem writeRingRow_canon {s : State} {h : HBits} {va : BitVec 56} {row : PRow} (hs : s.Canon) :
    Keeps State.Canon (writeRingRow s h va row) := by
  unfold writeRingRow
  split
  · exact trivial
  rename_i e₁
  extract_lets
  refine Keeps.ite ?_ ?_
  · split
    · exact freezeCore_canon (holdTaken_canon (canon_fst (translate_canon hs) e₁))
    · exact holdTaken_canon (canon_fst (translate_canon hs) e₁)
    · exact skeinAdd_canon (canon_fst (translate_canon hs) e₁)
  split
  · exact setRowAt_canon (canon_fst (translate_canon hs) e₁)
  · exact raise_canon (canon_fst (translate_canon hs) e₁)

theorem execSts_canon {u : Hdr} {src : RowSrc} {h : BitVec 4} {lim : BitVec 12} {s : State} (hs : s.Canon) :
    NextCanon (execSts u src h lim s) := by
  unfold execSts
  refine uniform_canon (fun _ h₁ => ?_) hs
  refine Keeps.bind (streamCheck_canon h₁) (fun _ _ => ?_)
  refine Keeps.bind (readSources_canon h₁) (fun _ _ => ?_)
  refine Keeps.bind (produceOpen_canon (setMe_canon h₁)) (fun _ h₂ => ?_)
  refine Keeps.ite (waitRing_canon h₂) ?_
  refine Keeps.bind (writeRingRow_canon h₂) (fun _ h₃ => ?_)
  exact Keeps.ite (completeSlot_canon (bindSide_canon h₃)) (setRingPtr_canon (setHomeWord_canon (bindSide_canon h₃)))

theorem zeroRows_canon {s : State} {h : HBits} {d r k : Nat} {l : List Nat} (hs : s.Canon) :
    Keeps State.Canon (zeroRows s h d r k l) := by
  induction l generalizing s h d r k with
  | nil =>
    unfold zeroRows
    exact hs
  | cons _ _ ih =>
    unfold zeroRows
    exact Keeps.bind (writeRingRow_canon hs) (fun _ h₁ => ih (rowSaved_canon h₁))

theorem execStsEos_canon {u : Hdr} {h : BitVec 4} {lim : BitVec 12} {s : State} (hs : s.Canon) :
    NextCanon (execStsEos u h lim s) := by
  unfold execStsEos
  refine uniform_canon (fun t ht => ?_) hs
  refine Keeps.bind (handleCheck_canon ht) (fun _ _ => Keeps.bind (pureNever_canon ht) (fun _ _ => ?_))
  refine Keeps.bind (produceOpen_canon ht) (fun t₁ h₁ => ?_)
  extract_lets d r finish
  have hfinish (t₂ : State) (h₂ : t₂.Canon) : Keeps (·.1.Canon) (finish t₂) :=
    Keeps.ite (waitRing_canon h₂) (Keeps.bind (ringReach_canon h₂) (fun _ h₃ =>
      Keeps.bind (slotPerm_canon h₃) (fun _ h₄ => setRgnx_canon (completeSlot_canon (bindSide_canon h₄)))))
  refine Keeps.ite (Keeps.bind (P := State.Canon) h₁ hfinish) (Keeps.bind (zeroRows_canon h₁) (fun _ h₂ => ?_))
  exact Keeps.bind (P := State.Canon) (completeSlot_canon (setMe_canon h₂)) hfinish

theorem noteRing_canon {s : State} {d r : Nat} (hs : s.Canon) : (noteRing s d r).Canon := by
  unfold noteRing
  split
  · exact canon_ite hs (setKore_canon hs)
  · exact hs

theorem execLds_canon {u : Hdr} {pd : BitVec 3} {d : Row} {h : BitVec 4} {lim : BitVec 12} {s : State} (hs : s.Canon) :
    NextCanon (execLds u pd d h lim s) := by
  unfold execLds
  refine uniform_canon (fun t ht => ?_) hs
  refine Keeps.bind (handleCheck_canon ht) (fun _ _ => Keeps.bind (pureNever_canon ht) (fun _ _ => ?_))
  refine Keeps.bind (takeDests_canon ht) (fun _ _ => ?_)
  refine Keeps.bind (uniformHome_canon (reserveDest_canon ht)) (fun _ _ => ?_)
  refine Keeps.bind (ringReach_canon (reserveDest_canon ht)) (fun t₁ h₁ => ?_)
  refine Keeps.bind (sideCheck_canon h₁) (fun _ _ => Keeps.ite (waitRing_canon h₁) ?_)
  extract_lets eos p va finish
  have hfinish (r : State × RowBits) (h₂ : r.1.Canon) : Keeps (·.1.Canon) (finish r) :=
    setPs_canon (setMe_canon (writeRows_canon (canon_ite
      (setRingPtr_canon (setRingPtr_canon (noteRing_canon (bindSide_canon h₂))))
      (setRingPtr_canon (noteRing_canon (bindSide_canon h₂))))))
  clear_value finish
  refine Keeps.ite (Keeps.bind (P := State.Canon ∘ Prod.fst) (Keeps.map (slotPerm_canon h₁) (fun _ h₂ => h₂)) hfinish) ?_
  refine Keeps.ite (Keeps.bind (P := State.Canon ∘ Prod.fst) (raise_canon h₁) hfinish) ?_
  refine Keeps.ite (Keeps.bind (P := State.Canon ∘ Prod.fst) (holdTaken_canon h₁) hfinish) ?_
  split
  · exact Keeps.bind (P := State.Canon ∘ Prod.fst) trivial hfinish
  · rename_i e
    exact Keeps.bind (P := State.Canon ∘ Prod.fst) (raise_canon (canon_fst (translate_canon h₁) e)) hfinish
  · rename_i e
    exact Keeps.bind (P := State.Canon ∘ Prod.fst) (canon_fst (translate_canon h₁) e) hfinish
  · rename_i e
    exact Keeps.bind (P := State.Canon ∘ Prod.fst) (holdTaken_canon (canon_fst (translate_canon h₁) e)) hfinish

theorem sptrBody_canon {i : Instr} {w : Nat} {d : BitVec 5} {h : BitVec 4} {s : State} (hs : s.Canon) :
    Keeps (·.1.Canon) (sptrBody i w d h s) :=
  Keeps.bind (handleCheck_canon hs) (fun _ _ =>
      Keeps.bind (pureNever_canon hs)
        (fun _ _ => Keeps.bind (uniformHome_canon hs) (fun _ _ => Keeps.bind (ringReach_canon hs) (fun _ h₁ => sset_canon h₁))))

theorem settleRings_canon {s : State} {t : Stitch} {commit : Bool} (hs : s.Canon) : (settleRings s t commit).Canon :=
  canon_foldl hs (fun _ _ h₁ => canon_ite h₁ (canon_ite (setRingPtr_canon h₁) (setRingPtr_canon (setRingPtr_canon h₁))))

/-! ### Loose atomics -/

theorem amoAt_canon {s : State} {k op : Nat} {f : AmoF} {x y : Word} (hs : s.Canon) : (amoAt s k op f x y).1.Canon :=
  freeRegions_canon (setNum_canon hs)

theorem amoBody_canon {i : Instr} {op : Nat} {f : AmoF} {d : BitVec 5} {h : BitVec 4} {a : BitVec 5} {s : State} (hs : s.Canon) :
    Keeps (·.1.Canon) (amoBody i op f d h a s) := by
  unfold amoBody
  extract_lets hb w va
  split
  · exact hs
  · exact sset_canon hs
  · exact raise_canon hs
  refine Keeps.bind (handleCheck_canon hs) (fun _ _ => Keeps.ite (ill_canon hs) ?_)
  refine Keeps.bind (pureNever_canon hs) (fun _ _ => Keeps.bind (alignCheck_canon hs) (fun _ _ => ?_))
  refine Keeps.ite (raise_canon hs) (Keeps.ite (raise_canon hs) ?_)
  refine Keeps.bind (uniformHome_canon hs) (fun _ _ => ?_)
  split
  split
  · exact trivial
  rename_i t p _ e
  have ht : t.Canon := canon_fst (translate_canon hs) e
  extract_lets n logged u
  have hu : u.Canon := by
    unfold u
    split
    · exact canon_ite (setKore_canon ht) ht
    · exact ht
  clear_value u
  refine Keeps.ite (raise_canon ht) (Keeps.ite ?_ ?_)
  · split
    · exact freezeCore_canon (holdTaken_canon hu)
    · exact holdTaken_canon hu
    · exact setMe_canon (skeinAdd_canon hu)
  · split
    · exact sset_canon (amoAt_canon hu)
    · exact hu

/-! ### Band rows, token queues, copy-channel commands and completion queues, as strands use them -/

theorem testBranch_canon {x timing : Bool} {disp : BitVec 22} {s : State} (hs : s.Canon) :
    Keeps (·.1.Canon) (testBranch x timing disp s) :=
  Keeps.ite_bind (P := State.Canon) (checkTarget_canon hs) hs (fun _ h =>
    Keeps.ite_bind (P := fun _ => True) (pureNever_canon h) trivial (fun _ _ => h))

theorem execTokTake_canon {u : Hdr} {q : BitVec 3} {n : BitVec 6} {lim : BitVec 12} {s : State} (hs : s.Canon) :
    NextCanon (execTokTake u q n lim s) := by
  unfold execTokTake
  refine uniform_canon (fun s₁ h₁ => Keeps.bind (pureNever_canon h₁) (fun x₁ h₂ => ?_)) hs
  extract_lets
  split
  · exact setKore_canon h₁
  · exact h₁

theorem queuePlace_canon {s : State} {e : Nat} (hs : s.Canon) : Keeps (fun _ => True) (queuePlace s e) :=
  Keeps.ite hs (Keeps.ite hs trivial)

theorem captureCmd_canon {s : State} {e : Nat} {c : Cmd} (hs : s.Canon) : Keeps State.Canon (captureCmd s e c) :=
  Keeps.bind (queuePlace_canon hs) (fun _ _ => setKore_canon hs)

theorem copyBody_canon {i : Instr} {out : Bool} {h : BitVec 4} {a : BitVec 5} {s : State} (hs : s.Canon) :
    Keeps (·.1.Canon) (copyBody i out h a s) :=
  Keeps.ite (ill_canon hs)
    (Keeps.ite (Keeps.bind (pureWrite_canon hs) (fun _ _ => Keeps.bind (captureCmd_canon hs) (fun _ h₁ => h₁)))
       (Keeps.bind (pureRead_canon hs) (fun _ _ => Keeps.bind (captureCmd_canon hs) (fun _ h₂ => h₂))))

theorem execCqpop_canon {u : Hdr} {d : BitVec 5} {e : BitVec 2} {lim : BitVec 12} {s : State} (hs : s.Canon) :
    NextCanon (execCqpop u d e lim s) := by
  unfold execCqpop
  refine uniform_canon (fun s₁ h₁ => ?_) hs
  extract_lets
  split
  · exact h₁
  · exact sset_canon (setKore_canon h₁)

/-! ### The engines' side of commands -/

theorem event_canon {r : Ev} (hr : OkCanon r) : NextCanon (event r) := by
  unfold event
  split
  · exact tick_canon hr
  · exact trivial

theorem fwEvent_canon {s : State} {r : Ev} (hs : s.Canon) (hr : OkCanon r) : NextCanon (fwEvent s r) :=
  event_canon (OkCanon.ite hr hs)

theorem hostEvent_canon {s : State} {r : Ev} (hs : s.Canon) (hr : OkCanon r) : NextCanon (hostEvent s r) :=
  fwEvent_canon hs (OkCanon.ite hr hs)

theorem asStrand_canon {s : State} {n : Nat} (hs : s.Canon) : (asStrand s n).Canon := canon_same hs

theorem asEngine_canon {s : State} {n : Nat} {prior : Option HeldReq} (hs : s.Canon) : (asEngine s n prior).Canon :=
  canon_same (setStrand_canon hs)

theorem backFrom_canon {s : State} {n : Nat} {t : State} (ht : t.Canon) : (backFrom s n t).Canon :=
  canon_same (setStrand_canon ht)

theorem engineOpen_canon {s : State} {n : Nat} {prior : Option HeldReq} {h : HBits} {sp : Space} {need : Need} {w : Nat}
    {els : List Elem} (hs : s.Canon) :
    (engineOpen s n prior h sp need w els).Canon := by
  unfold engineOpen
  split
  · rename_i e₁
    exact backFrom_canon ((openAccess_canon (asEngine_canon hs)).of_ok e₁)
  · rename_i e₂
    exact backFrom_canon ((openAccess_canon (asEngine_canon hs)).of_trap e₂)
  · rename_i e₃
    exact backFrom_canon ((openAccess_canon (asEngine_canon hs)).of_wait e₃)
  · exact trivial

theorem engineLoad_canon {s : State} {n : Nat} {prior : Option HeldReq} {h : HBits} {sp : Space} {w : Nat} {els : List Elem}
    (hs : s.Canon) : (engineLoad s n prior h sp w els).Canon := by
  unfold engineLoad
  extract_lets near far
  clear_value near far
  split
  · rename_i t r e
    have ht : t.Canon := (engineOpen_canon hs).of_ok e
    extract_lets place got u
    have hu : u.Canon := by
      unfold u
      split
      · exact canon_ite (asStrand_canon (makeReplica_canon (asStrand_canon ht))) ht
      · exact ht
    exact Eng.Canon.ite ht (Eng.Canon.ite ht hu)
  · rename_i e
    exact (engineOpen_canon hs).of_wait e
  · rename_i e
    exact (engineOpen_canon hs).of_fail e
  · exact trivial

theorem engineStore_canon {s : State} {n : Nat} {prior : Option HeldReq} {h : HBits} {w : Nat} {tracked : Bool}
    {poison : Elem → Bool} {els : List (Elem × Nat)} (hs : s.Canon) :
    (engineStore s n prior h w tracked poison els).Canon := by
  unfold engineStore
  split
  · rename_i e₁
    refine Eng.Canon.ite ((engineOpen_canon hs).of_ok e₁) ?_
    split
    · rename_i e₂
      exact backFrom_canon 
        ((storeElems_canon (asEngine_canon ((engineOpen_canon hs).of_ok e₁))).of_ok e₂)
    · rename_i e₃
      exact backFrom_canon 
        ((storeElems_canon (asEngine_canon ((engineOpen_canon hs).of_ok e₁))).of_trap e₃)
    · rename_i e₄
      exact backFrom_canon 
        ((storeElems_canon (asEngine_canon ((engineOpen_canon hs).of_ok e₁))).of_wait e₄)
    · exact trivial
  · rename_i e₅
    exact (engineOpen_canon hs).of_wait e₅
  · rename_i e₆
    exact (engineOpen_canon hs).of_fail e₆
  · exact trivial

theorem putRunning_canon {s : State} {core e : Nat} {c : Cmd} {chan : Nat} (hs : s.Canon) : (putRunning s core e c chan).Canon :=
  setCore_canon hs

theorem rowDelivered_canon {s : State} {core : Nat} {c : Cmd} (hs : s.Canon) : (rowDelivered s core c).Canon :=
  setCore_canon (putRunning_canon hs)

theorem rowFailed_canon {s : State} {core : Nat} {c : Cmd} {cause : BitVec 8} (hs : s.Canon) : (rowFailed s core c cause).Canon :=
  canon_ite (rowDelivered_canon hs) (canon_ite (rowDelivered_canon (setCore_canon hs)) (putRunning_canon hs))

theorem deliverRow_canon {s : State} {core chan : Nat} (hs : s.Canon) : OkCanon (deliverRow s core chan) := by
  unfold deliverRow
  extract_lets k
  split
  · exact hs
  extract_lets cause h w els b row codes
  clear_value cause
  refine OkCanon.ite hs ?_
  split
  · exact rowFailed_canon hs
  refine OkCanon.ite (OkCanon.ite hs ?_) (OkCanon.ite (putRunning_canon hs) ?_)
  · split
    · rename_i e
      exact rowDelivered_canon ((engineStore_canon hs).of_ok e)
    · rename_i e
      exact putRunning_canon ((engineStore_canon hs).of_wait e)
    · rename_i e
      exact rowFailed_canon ((engineStore_canon hs).of_fail e)
    · exact trivial
  · split
    · rename_i e
      exact rowDelivered_canon (setCore_canon ((engineLoad_canon hs).of_ok e))
    · rename_i e
      exact putRunning_canon ((engineLoad_canon hs).of_wait e)
    · rename_i e
      exact rowFailed_canon ((engineLoad_canon hs).of_fail e)
    · exact trivial

theorem completeCommand_canon {s : State} {core e chan : Nat} (hs : s.Canon) : (completeCommand s core e chan).Canon := by
  unfold completeCommand
  extract_lets
  split
  · exact hs
  · exact canon_ite hs (setCore_canon hs)

theorem enterHeld_canon {s : State} {core e : Nat} (hs : s.Canon) : (enterHeld s core e).Canon := by
  unfold enterHeld
  extract_lets
  split
  · exact hs
  · exact canon_ite (setCore_canon hs) hs

theorem startCopy_canon {s : State} {core chan : Nat} (hs : s.Canon) : (startCopy s core chan).Canon := by
  unfold startCopy
  extract_lets k x
  refine canon_ite hs ?_
  split
  · exact hs
  extract_lets since taken
  clear_value taken
  split
  · exact setCore_canon hs
  · exact setCore_canon hs

theorem execCopyRowDelivery_canon {core chan : Nat} {s : State} (hs : s.Canon) : NextCanon (execCopyRowDelivery core chan s) :=
  event_canon (deliverRow_canon hs)

theorem execEngineCompletion_canon {core engine chan : Nat} {s : State} (hs : s.Canon) :
    NextCanon (execEngineCompletion core engine chan s) :=
  event_canon (completeCommand_canon hs)

theorem execHeldEntryEnter_canon {core engine : Nat} {s : State} (hs : s.Canon) : NextCanon (execHeldEntryEnter core engine s) :=
  event_canon (enterHeld_canon hs)

/-! ### The next unit of a strand -/

theorem fetchFrom_canon {s : State} {a : Nat} {got : List Nat} {k : Nat} (hs : s.Canon) : (fetchFrom s a got k).1.Canon := by
  induction k generalizing s a got with
  | zero =>
    unfold fetchFrom
    exact hs
  | succ _ ih =>
    unfold fetchFrom
    refine canon_ite_fst hs ?_
    split
    · rename_i e₁
      exact ih (canon_fst (fetchParcel_canon hs) e₁)
    · rename_i e₂
      exact canon_fst (fetchParcel_canon hs) e₂

theorem fetchUnit_canon {s : State} (hs : s.Canon) : (fetchUnit s).1.Canon := fetchFrom_canon hs

/-! ### The banks of a core -/

theorem execBankReplay_canon {core bank : Nat} {s : State} (hs : s.Canon) : NextCanon (execBankReplay core bank s) := by
  unfold execBankReplay
  extract_lets
  refine event_canon ?_
  split
  · exact hs
  · exact canon_ite hs (canon_foldl (setCore_canon hs) (fun _ _ h₁ => setStrand_canon h₁))

/-! ### Scatter-accumulate commands -/

theorem saccBody_canon {i : Instr} {h : BitVec 4} {a : BitVec 5} {s : State} (hs : s.Canon) : Keeps (·.1.Canon) (saccBody i h a s) :=
  Keeps.bind (handleCheck_canon hs) (fun _ _ =>
      Keeps.ite (raise_canon hs) (Keeps.bind (pureWrite_canon hs) (fun _ _ => Keeps.bind (captureCmd_canon hs) (fun _ h₁ => h₁))))

theorem saccOne_canon {core : Nat} {poison : Bool} {sc : State × Cmd} {iv : Nat × Nat} (hsc : sc.1.Canon) :
    (saccOne core poison sc iv).1.Canon := by
  unfold saccOne
  refine canon_ite_fst ?_ (canon_ite_fst ?_ (accrue_canon hsc))
  · split
    · exact failRecord_canon hsc
    · exact hsc
  split
  · exact failRecord_canon hsc
  · exact hsc

theorem saccRun_canon {core k : Nat} {s : State} {x : Cmd} (hs : s.Canon) : (saccRun core k s x).1.Canon := by
  induction k generalizing core s x with
  | zero =>
    unfold saccRun
    exact hs
  | succ _ ih =>
    unfold saccRun
    refine canon_ite_fst hs (canon_ite_fst hs ?_)
    extract_lets
    split
    · rename_i e₁
      exact ih (canon_fst (canon_foldl_fst hs (fun _ _ h₁ => saccOne_canon h₁)) e₁)

theorem startScatter_canon {s : State} {core : Nat} (hs : s.Canon) : (startScatter s core).Canon := by
  unfold startScatter
  extract_lets k x
  refine canon_ite hs ?_
  split
  · refine canon_ite hs ?_
    split
    rename_i e
    exact putRunning_canon (canon_fst (saccRun_canon hs) e)
  split
  · exact hs
  refine canon_ite hs ?_
  extract_lets
  split
  rename_i e
  refine putRunning_canon (canon_fst (canon_ite_fst ?_ (saccRun_canon ?_)) e)
  · exact setCore_canon (setCluster_canon hs)
  · exact setCore_canon (setCluster_canon hs)

/-! ### The lease -/

theorem placeMatrixEntry_canon {s : State} {core : Nat} {w : Word} (hs : s.Canon) : (placeMatrixEntry s core w).Canon :=
  setCore_canon hs

theorem clearSlot_canon {s : State} {cl slot : Nat} (hs : s.Canon) : (clearSlot s cl slot).Canon := setNum_canon hs

theorem reloadRan_canon {s : State} {cl : Nat} {all : Bool} (hs : s.Canon) : (reloadRan s cl all).Canon := by
  unfold reloadRan
  extract_lets
  split
  · exact canon_ite (clearSlot_canon (setCluster_canon hs)) (setCluster_canon hs)
  · exact hs

theorem endLease_canon {s : State} {cl : Nat} (hs : s.Canon) : (endLease s cl).Canon := by
  unfold endLease
  extract_lets
  split
  · exact hs
  split
  · exact setCluster_canon (reloadRan_canon hs)
  · exact placeMatrixEntry_canon (setCluster_canon (reloadRan_canon hs))

theorem checkLeaseEnd_canon {s : State} {cl : Nat} (hs : s.Canon) : (checkLeaseEnd s cl).Canon := by
  unfold checkLeaseEnd
  extract_lets
  split
  · exact hs
  · exact canon_ite hs (canon_ite (endLease_canon hs) (canon_ite (endLease_canon hs) hs))

theorem reloadSlot_canon {s : State} {cl src slot core : Nat} {kept : List Cmd} (hs : s.Canon) :
    (reloadSlot s cl src slot core kept).Canon :=
  canon_ite (setCluster_canon hs) (reloadRan_canon (setCluster_canon hs))

theorem unitReturns_canon {s : State} {n : Nat} (hs : s.Canon) : (unitReturns s n).Canon := setStrand_canon hs

theorem grantLease_canon {s : State} {cl : Nat} (hs : s.Canon) : (grantLease s cl).Canon := by
  unfold grantLease
  extract_lets
  split
  · extract_lets
    split
    · exact setCluster_canon (canon_ite (unitReturns_canon hs) hs)
    extract_lets
    split
    · exact checkLeaseEnd_canon (reloadSlot_canon (setCluster_canon (canon_ite (unitReturns_canon hs) hs)))
    · exact setCluster_canon (canon_ite (unitReturns_canon hs) hs)
  · exact hs

theorem execLeaseGrant_canon {cluster : Nat} {s : State} (hs : s.Canon) : NextCanon (execLeaseGrant cluster s) :=
  event_canon (grantLease_canon hs)

theorem execLeaseCycleExpiry_canon {cluster : Nat} {s : State} (hs : s.Canon) : NextCanon (execLeaseCycleExpiry cluster s) := by
  unfold execLeaseCycleExpiry
  extract_lets
  refine event_canon ?_
  split
  · exact canon_ite (checkLeaseEnd_canon (setCluster_canon hs)) hs
  · exact hs

theorem leaseBody_canon {byCycles : Bool} {n : Nat} {s : State} (hs : s.Canon) : Keeps (·.1.Canon) (leaseBody byCycles n s) :=
  Keeps.ite (Keeps.ite hs hs) (Keeps.ite (raise_canon hs) (setCluster_canon hs))

theorem execUnlease_canon {u : Hdr} {s : State} (hs : s.Canon) : NextCanon (execUnlease u s) := by
  unfold execUnlease
  refine uniform_canon (fun s₁ h₁ => Keeps.ite h₁ ?_) hs
  split
  · exact Keeps.ite (checkLeaseEnd_canon (setCluster_canon h₁)) h₁
  · exact h₁

theorem leaseCheck_canon {s : State} (hs : s.Canon) : Keeps (fun _ => True) (leaseCheck s) := by
  unfold leaseCheck
  refine Keeps.ite hs ?_
  split
  · exact Keeps.ite trivial (raise_canon hs)
  · exact raise_canon hs

theorem captureMatrix_canon {s : State} {c : Cmd} (hs : s.Canon) : Keeps State.Canon (captureMatrix s c) :=
  Keeps.bind (queuePlace_canon hs) (fun _ _ => setCluster_canon (setKore_canon hs))

theorem execMzero_canon {u : Hdr} {s : State} (hs : s.Canon) : NextCanon (execMzero u s) :=
  uniform_canon (fun _ h₁ => Keeps.bind (leaseCheck_canon h₁) (fun _ _ => Keeps.bind (captureMatrix_canon h₁) (fun _ h₂ => h₂)))
    hs

theorem panelCheck_canon {s : State} {h : HBits} {lo hi : Nat} (hs : s.Canon) : Keeps (fun _ => True) (panelCheck s h lo hi) := by
  unfold panelCheck
  extract_lets
  refine Keeps.ite (raise_canon hs) ?_
  split
  · exact raise_canon hs
  · exact Keeps.ite (raise_canon hs) trivial

theorem execMma_canon {u : Hdr} {x : MScale} {ta tb : MTy} {tc st sp : Bool} {n : BitVec 5} {h : BitVec 4} {a : ASrc} {s : State}
    (hs : s.Canon) : NextCanon (execMma u x ta tb tc st sp n h a s) := by
  unfold execMma
  refine uniform_canon (fun t ht => ?_) hs
  refine Keeps.ite_bind (P := fun _ => True) (ill_canon ht) (leaseCheck_canon ht) (fun _ _ => Keeps.ite ht ?_)
  split
  refine Keeps.ite (raise_canon ht) (Keeps.ite (raise_canon ht) (Keeps.ite (raise_canon ht) ?_))
  split
  refine Keeps.bind (panelCheck_canon ht) (fun _ _ => ?_)
  split
  refine Keeps.ite_bind (P := fun _ => True) trivial (panelCheck_canon ht) (fun _ _ => ?_)
  refine Keeps.bind (pureRead_canon ht) (fun _ _ => ?_)
  refine Keeps.ite_bind (P := fun _ => True) trivial (pureRead_canon ht) (fun _ _ => ?_)
  exact Keeps.bind (captureMatrix_canon ht) (fun _ h₁ => h₁)

theorem execMdrain_canon {u : Hdr} {f : OutFmt} {res drop wh : Bool} {h : BitVec 4} {b : Option (BitVec 9)} {s : State}
    (hs : s.Canon) : NextCanon (execMdrain u f res drop wh h b s) := by
  unfold execMdrain
  refine uniform_canon (fun t ht => ?_) hs
  refine Keeps.ite (ill_canon ht) (Keeps.bind (leaseCheck_canon ht) (fun _ _ => Keeps.ite (raise_canon ht) ?_))
  refine Keeps.ite_bind (P := fun _ => True) (pureNever_canon ht) trivial (fun _ _ => ?_)
  refine Keeps.ite_bind (P := fun _ => True) (pureWrite_canon ht) trivial (fun _ _ => ?_)
  exact Keeps.bind (captureMatrix_canon ht) (fun _ h₁ => h₁)

theorem execMsave_canon {u : Hdr} {h : BitVec 4} {s : State} (hs : s.Canon) : NextCanon (execMsave u h s) := by
  unfold execMsave
  refine uniform_canon (fun _ h₁ => ?_) hs
  refine Keeps.ite (ill_canon h₁) ?_
  refine Keeps.bind (leaseCheck_canon h₁) (fun _ _ => ?_)
  exact Keeps.bind (pureWrite_canon h₁) (fun _ _ => Keeps.bind (captureMatrix_canon h₁) (fun _ h₂ => h₂))

theorem execMrestore_canon {u : Hdr} {h : BitVec 4} {s : State} (hs : s.Canon) : NextCanon (execMrestore u h s) := by
  unfold execMrestore
  refine uniform_canon (fun _ h₁ => ?_) hs
  refine Keeps.ite (ill_canon h₁) ?_
  refine Keeps.bind (leaseCheck_canon h₁) (fun _ _ => ?_)
  exact Keeps.bind (pureNever_canon h₁) (fun _ _ => Keeps.bind (captureMatrix_canon h₁) (fun _ h₂ => h₂))

theorem setRun_canon {s : State} {cl : Nat} {c : Cmd} (hs : s.Canon) : (setRun s cl c).Canon := setCluster_canon hs

theorem setArr_canon {s : State} {cl : Nat} {a : ArrayState} (hs : s.Canon) : (setArr s cl a).Canon := setCluster_canon hs

theorem runMma_canon {s : State} {cl : Nat} {c : Cmd} (hs : s.Canon) : (runMma s cl c).Canon :=
  canon_ite hs (setRun_canon (setArr_canon hs))

theorem drainResidual_canon {s : State} {c : Cmd} {m : Nat} (hs : s.Canon) : (drainResidual s c m).Canon := by
  unfold drainResidual
  extract_lets
  refine Eng.Canon.ite hs (Eng.Canon.ite hs ?_)
  split
  · exact hs
  split
  · rename_i e₁
    exact (engineLoad_canon hs).of_ok e₁
  · rename_i e₂
    exact (engineLoad_canon hs).of_fail e₂
  · rename_i e₃
    exact (engineLoad_canon hs).of_wait e₃
  · exact trivial

theorem drainWrites_canon {s : State} {c : Cmd} {m : Nat} {rowPoison : Bool} {outs : List Rounded} (hs : s.Canon) :
    (drainWrites s c m rowPoison outs).Canon := by
  unfold drainWrites
  extract_lets
  refine Eng.Canon.ite hs (Eng.Canon.ite hs ?_)
  split
  · exact hs
  split
  · rename_i e₁
    refine Eng.Canon.ite ((engineOpen_canon hs).of_ok e₁) ?_
    split
    · rename_i e₂
      exact (engineStore_canon ((engineOpen_canon hs).of_ok e₁)).of_ok e₂
    · rename_i e₃
      exact (engineStore_canon ((engineOpen_canon hs).of_ok e₁)).of_fail e₃
    · rename_i e₄
      exact (engineStore_canon ((engineOpen_canon hs).of_ok e₁)).of_wait e₄
    · exact trivial
  · rename_i e₅
    exact (engineOpen_canon hs).of_fail e₅
  · rename_i e₆
    exact (engineOpen_canon hs).of_wait e₆
  · exact trivial

theorem pushRows_canon {core : Nat} {age : Word} {l : List (Nat × PRow)} {s : State} (hs : s.Canon) :
    (pushRows core age l s).1.Canon := by
  induction l generalizing core age s with
  | nil =>
    unfold pushRows
    exact hs
  | cons _ _ ih =>
    unfold pushRows
    exact canon_ite_fst (ih (setCore_canon hs)) hs

theorem drainPush_canon {s : State} {cl : Nat} {c : Cmd} (hs : s.Canon) : (drainPush s cl c).Canon := by
  unfold drainPush
  split
  · rename_i e₁
    exact setRun_canon (canon_fst (pushRows_canon hs) e₁)

theorem orTileFlags_canon {s : State} {cl : Nat} {fl : Flags} (hs : s.Canon) : (orTileFlags s cl fl).Canon := setArr_canon hs

theorem runDrain_canon {s0 : State} {cl : Nat} {c : Cmd} (hs0 : s0.Canon) : OkCanon (runDrain s0 cl c) := by
  unfold runDrain
  extract_lets
  refine OkCanon.ite (drainPush_canon hs0) ?_
  split
  · rename_i e₁
    exact setRun_canon ((drainResidual_canon hs0).of_wait e₁)
  · exact trivial
  · rename_i e₂
    exact (drainResidual_canon hs0).of_fail e₂
  rename_i e₃
  extract_lets
  split
  · rename_i e₄
    exact setRun_canon ((drainWrites_canon ((drainResidual_canon hs0).of_ok e₃)).of_wait e₄)
  · exact trivial
  · rename_i e₅
    exact (drainWrites_canon ((drainResidual_canon hs0).of_ok e₃)).of_fail e₅
  · rename_i e₆
    exact drainPush_canon (orTileFlags_canon ((drainWrites_canon ((drainResidual_canon hs0).of_ok e₃)).of_ok e₆))

theorem runSave_canon {s : State} {cl : Nat} {c : Cmd} (hs : s.Canon) : OkCanon (runSave s cl c) := by
  unfold runSave
  extract_lets
  split
  · exact setRun_canon hs
  split
  · rename_i e₁
    exact setRun_canon ((engineStore_canon hs).of_wait e₁)
  · exact trivial
  · rename_i e₂
    exact setRun_canon ((engineStore_canon hs).of_fail e₂)
  · rename_i e₃
    exact setRun_canon ((engineStore_canon hs).of_ok e₃)

theorem areaRead_canon {s : State} {c : Cmd} {k k₁ : Nat} (hs : s.Canon) : (areaRead s c k k₁).Canon := by
  induction k generalizing s c k₁ with
  | zero =>
    unfold areaRead
    exact hs
  | succ _ ih =>
    unfold areaRead
    split
    · rename_i e₁
      exact (engineLoad_canon hs).of_wait e₁
    · exact trivial
    · rename_i e₂
      exact setRun_canon ((engineLoad_canon hs).of_fail e₂)
    rename_i e₃
    split
    · rename_i e₄
      exact (ih ((engineLoad_canon hs).of_ok e₃)).of_ok e₄
    · rename_i e₅
      exact (ih ((engineLoad_canon hs).of_ok e₃)).of_wait e₅
    · exact trivial
    · rename_i e₆
      exact (ih ((engineLoad_canon hs).of_ok e₃)).of_fail e₆

theorem runRestore_canon {s : State} {cl : Nat} {c : Cmd} (hs : s.Canon) : OkCanon (runRestore s cl c) := by
  unfold runRestore
  extract_lets
  split
  · exact setRun_canon (setArr_canon hs)
  split
  · exact setRun_canon hs
  · exact trivial
  · rename_i e₁
    exact setRun_canon (setArr_canon ((areaRead_canon hs).of_fail e₁))
  · rename_i e₂
    refine OkCanon.ite (setRun_canon (setArr_canon ((areaRead_canon hs).of_ok e₂))) ?_
    exact setRun_canon (setArr_canon ((areaRead_canon hs).of_ok e₂))

theorem runMatrix_canon {s : State} {cl : Nat} {c : Cmd} (hs : s.Canon) : OkCanon (runMatrix s cl c) :=
  OkCanon.ite (setRun_canon (setArr_canon hs))
    (OkCanon.ite (runMma_canon hs) (OkCanon.ite (runDrain_canon hs) (OkCanon.ite (runSave_canon hs) (runRestore_canon hs))))

theorem startMatrix_canon {s : State} {cl : Nat} (hs : s.Canon) : OkCanon (startMatrix s cl) := by
  unfold startMatrix
  extract_lets
  split
  · exact OkCanon.ite hs (runMatrix_canon hs)
  split
  · exact hs
  · exact OkCanon.ite hs (runMatrix_canon (setCluster_canon hs))

theorem completeMatrix_canon {s : State} {cl : Nat} (hs : s.Canon) : (completeMatrix s cl).Canon := by
  unfold completeMatrix
  extract_lets
  split
  · exact hs
  · refine canon_ite hs ?_
    exact checkLeaseEnd_canon
      (canon_ite (reloadRan_canon (setCluster_canon hs)) (placeMatrixEntry_canon (reloadRan_canon (setCluster_canon hs))))

theorem execMatrixCommandStart_canon {cluster : Nat} {s : State} (hs : s.Canon) : NextCanon (execMatrixCommandStart cluster s) :=
  event_canon (startMatrix_canon hs)

theorem execMatrixCommandComplete_canon {cluster : Nat} {s : State} (hs : s.Canon) :
    NextCanon (execMatrixCommandComplete cluster s) :=
  event_canon (completeMatrix_canon hs)

/-! ### The cluster barrier and the end of a strand's part of a stitch -/

theorem completePhase_canon {s : State} {id : LaunchId} (hs : s.Canon) : (completePhase s id).Canon :=
  setRecx_canon (canon_foldl hs (fun _ _ h₁ => canon_ite (unitReturns_canon h₁) h₁))

theorem execCbar_canon {u : Hdr} {lim : BitVec 12} {s : State} (hs : s.Canon) : NextCanon (execCbar u lim s) := by
  unfold execCbar
  refine uniform_canon (fun s₁ h₁ => ?_) hs
  extract_lets
  split
  · exact h₁
  · exact Keeps.ite (Keeps.ite h₁ h₁) (Keeps.ite (completePhase_canon h₁) (setMe_canon (setRecx_canon h₁)))

/-! ### Parties, arrivals, the flip and the wait of a recast -/

theorem takeParties_canon {s : State} {p : Parties} (hs : s.Canon) : (takeParties s p).Canon :=
  canon_ite (setRgnWord_canon (canon_ite (setRecx_canon hs) hs)) (failRecord_canon (canon_ite (setRecx_canon hs) hs))

theorem takePosted_canon {s : State} {d : Nat} (hs : s.Canon) : (takePosted s d).Canon := by
  unfold takePosted
  split
  · exact hs
  · exact takeParties_canon (setDie_canon hs)

theorem takeAllPosted_canon {k : Nat} {s : State} {k₁ : Nat} (hs : s.Canon) : (takeAllPosted k s k₁).Canon := by
  induction k generalizing s k₁ with
  | zero =>
    unfold takeAllPosted
    exact hs
  | succ _ ih =>
    unfold takeAllPosted
    exact ih (takePosted_canon hs)

theorem execRgnParties_canon {u : Hdr} {h : BitVec 4} {n : BitVec 12} {s : State} (hs : s.Canon) :
    NextCanon (execRgnParties u h n s) := by
  unfold execRgnParties
  refine uniform_canon (fun _ h₁ => ?_) hs
  refine Keeps.bind (handleCheck_canon h₁) (fun _ _ => ?_)
  exact Keeps.bind (pureNever_canon h₁) (fun _ _ => canon_ite (setRecx_canon (setDie_canon h₁)) (setDie_canon h₁))

theorem beginRecast_canon {s : State} {d r : Nat} {q : Ask} (hs : s.Canon) : (beginRecast s d r q).Canon :=
  setDie_canon (setRgnWord_canon hs)

theorem countArrival_canon {s : State} {d r : Nat} {q : Ask} {raw : Nat} {alone : Option LaunchId} (hs : s.Canon) :
    (countArrival s d r q raw alone).Canon :=
  canon_ite (beginRecast_canon (setRgnWord_canon (setRgnx_canon hs))) (setRgnWord_canon (setRgnx_canon hs))

theorem execRecastArrive_canon {u : Hdr} {role : Space} {dig conv : Bool} {h : BitVec 4} {a c : BitVec 5} {s : State}
    (hs : s.Canon) : NextCanon (execRecastArrive u role dig conv h a c s) := by
  unfold execRecastArrive
  refine uniform_canon (fun t ht => ?_) hs
  refine Keeps.bind (handleCheck_canon ht) (fun _ _ => Keeps.bind (pureNever_canon ht) (fun _ _ => ?_))
  extract_lets d r tenant t₁ t₂ q
  have h₁ : t₁.Canon := by
    unfold t₁
    split
    · exact modStitch_canon (releaseStitch_canon ht)
    · exact ht
  have h₂ : t₂.Canon := takeAllPosted_canon h₁
  exact Keeps.ite h₂ (Keeps.ite (raise_canon h₂) (Keeps.ite (raise_canon h₂) (setMe_canon (countArrival_canon h₂))))

theorem execRecastWait_canon {u : Hdr} {h : BitVec 4} {lim : BitVec 12} {s : State} (hs : s.Canon) :
    NextCanon (execRecastWait u h lim s) := by
  unfold execRecastWait
  extract_lets
  refine uniform_canon (fun s₁ h₁ => ?_) hs
  refine Keeps.bind (handleCheck_canon h₁) (fun x₁ h₂ => Keeps.ite (raise_canon h₁) (Keeps.ite h₁ ?_))
  split
  · exact raise_canon h₁
  · exact Keeps.ite (raise_canon h₁) (setMe_canon h₁)

theorem saturatedPoison_canon {s : State} {d r lo hi : Nat} (hs : s.Canon) : (saturatedPoison s d r lo hi).1.Canon := by
  unfold saturatedPoison
  extract_lets
  refine canon_foldl_fst hs (fun x₁ x₂ h₁ => canon_ite_fst ?_ h₁)
  split
  · exact setBlockPoison_canon h₁
  · exact h₁

theorem clearBounds_canon {s : State} {d r lo hi : Nat} (hs : s.Canon) : (clearBounds s d r lo hi).Canon := setDie_canon hs

theorem dropReplicas_canon {s : State} {d r lo hi : Nat} (hs : s.Canon) : (dropReplicas s d r lo hi).Canon :=
  setRgnWord_canon (canon_same hs)

theorem putRows_canon {s : State} {l : List (Nat × PRow)} (hs : s.Canon) : (putRows s l).Canon := by
  induction l generalizing s with
  | nil =>
    unfold putRows
    exact hs
  | cons _ _ ih =>
    unfold putRows
    exact ih (setRowAt_canon hs)

theorem finishPure_canon {s : State} {id : LaunchId} {gen : Nat} {conv : Bool} (hs : s.Canon) : (finishPure s id gen conv).Canon :=
  canon_ite hs (doneRecord_canon (setDie_canon hs))

theorem flip_canon {s : State} {d r : Nat} (hs : s.Canon) : (flip s d r).Canon := by
  unfold flip
  extract_lets q bolts hi old roles sp desc leavesAcc need s₁
  have h₁ : s₁.Canon := canon_ite (dropReplicas_canon hs) hs
  clear_value s₁
  refine canon_ite hs ?_
  split
  · exact hs
  extract_lets
  split
  rename_i s₂ fl poisoned e
  have h₂ : s₂.Canon := by
    refine canon_fst (canon_ite_fst (putRows_canon h₁) (canon_ite_fst ?_ h₁)) e
    split
    rename_i e'
    exact canon_fst (saturatedPoison_canon h₁) e'
  extract_lets s₃ gen w₁ w₂ w₃ s₄
  have h₄ : s₄.Canon := setRgnWord_canon (canon_ite (clearBounds_canon h₂) h₂)
  clear_value s₄
  split
  extract_lets s₅ s₆ s₇ s₈ s₉ rs s₁₀ s₁₁ s₁₂ s₁₃ s₁₄ x s₁₅ s₁₆
  have h₇ : s₇.Canon := canon_ite (setRgnWord_canon (setRgnWord_canon (setNum_canon h₄))) h₄
  have h₉ : s₉.Canon := canon_ite (canon_foldl (setRgnWord_canon h₇) (fun _ _ h => setHomeWord_canon h)) (setRgnWord_canon h₇)
  have h₁₁ : s₁₁.Canon := canon_foldl (canon_foldl h₉ (fun _ _ h => setRgnWord_canon h)) (fun _ _ h => setRgnWord_canon h)
  have h₁₆ : s₁₆.Canon :=
    samplerInvalidate_canon (setRgnx_canon (setRgnWord_canon (setRgnWord_canon (setRgnWord_canon h₁₁))))
  clear_value s₁₆
  split
  · exact finishPure_canon h₁₆
  · exact h₁₆

theorem arriveAlone_canon {s : State} {d n : Nat} (hs : s.Canon) : (arriveAlone s d n).Canon :=
  canon_ite (takeAllPosted_canon hs)
    (canon_ite (failRecord_canon (takeAllPosted_canon hs)) (countArrival_canon (setRecx_canon (takeAllPosted_canon hs))))

theorem checkDone_canon {s : State} {d n : Nat} (hs : s.Canon) : (checkDone s d n).Canon :=
  canon_ite hs (canon_ite (arriveAlone_canon hs) (doneRecord_canon hs))

theorem checkAllDone_canon {s : State} (hs : s.Canon) : (checkAllDone s).Canon :=
  canon_foldl hs (fun _ _ h₁ => canon_foldl h₁ (fun _ _ h₂ => checkDone_canon h₂))

theorem execHomeAccess_canon {die : Nat} {s : State} (hs : s.Canon) : NextCanon (execHomeAccess die s) :=
  event_canon (checkAllDone_canon (takePosted_canon hs))

theorem execRecastFlip_canon {die region : Nat} {s : State} (hs : s.Canon) : NextCanon (execRecastFlip die region s) :=
  event_canon (checkAllDone_canon (flip_canon hs))

theorem tryReleased_canon {s : State} {d : Nat} {cores : List Nat} {front l : List AccEntry} (hs : s.Canon) :
    OkCanon (tryReleased s d cores front l) := by
  induction l generalizing s d cores front with
  | nil =>
    unfold tryReleased
    exact hs
  | cons _ _ ih =>
    unfold tryReleased
    refine OkCanon.ite (ih hs) ?_
    split
    · rename_i e₁
      exact checkAllDone_canon ((performEntry_canon (setDie_canon hs)).of_done e₁)
    · rename_i e₂
      exact (performEntry_canon (setDie_canon hs)).of_failed e₂
    · rename_i e₃
      exact ih (setDie_canon ((performEntry_canon (setDie_canon hs)).of_held e₃))
    · exact trivial

theorem performReleased_canon {s : State} {d : Nat} (hs : s.Canon) : OkCanon (performReleased s d) := tryReleased_canon hs

theorem execAccrueEntryPerform_canon {die : Nat} {s : State} (hs : s.Canon) : NextCanon (execAccrueEntryPerform die s) :=
  event_canon (performReleased_canon hs)

/-! ### The record and job instructions -/

theorem recRefuse_canon {α : Type} {s : State} {w : Word} {sub : Nat} {P : α → Prop} (hs : s.Canon) : Keeps P (recRefuse s w sub) :=
  raise_canon hs

theorem recOpen_canon {s : State} {w : Word} (hs : s.Canon) : Keeps (fun _ => True) (recOpen s w) :=
  Keeps.bind (pureNever_canon hs) (fun _ _ => Keeps.ite (recRefuse_canon hs) (Keeps.ite (recRefuse_canon hs) trivial))

theorem patchField_canon {s : State} {d n f v : Nat} (hs : s.Canon) : (patchField s d n f v).Canon := by
  unfold patchField
  refine canon_ite (setRecWord_canon hs) ?_
  refine canon_ite (setRecBits_canon (setRecBits_canon hs)) ?_
  refine canon_ite (setRecBits_canon hs) ?_
  refine canon_ite (setRecBits_canon hs) ?_
  refine canon_ite (canon_ite (setDie_canon (setRecWord_canon hs)) (setRecWord_canon hs)) ?_
  exact canon_ite (setRecBits_canon hs) (canon_ite (setRecWord_canon hs) (setRecBits_canon (setRecWord_canon hs)))

theorem patchRecord_canon {s : State} {d n f v : Nat} (hs : s.Canon) : (patchRecord s d n f v).Canon :=
  setRecBits_canon (patchField_canon (canon_ite (setRecBits_canon (setRecBits_canon (setRecBits_canon hs))) hs))

theorem execLrecPatch_canon {u : Hdr} {a f b : BitVec 5} {s : State} (hs : s.Canon) : NextCanon (execLrecPatch u a f b s) := by
  unfold execLrecPatch
  extract_lets
  refine uniform_canon (fun s₁ h₁ => Keeps.bind (recOpen_canon h₁) (fun x₁ h₂ => ?_)) hs
  split
  · exact recRefuse_canon h₁
  · exact Keeps.ite (freezeCore_canon h₁) (patchRecord_canon h₁)

theorem execLrecArm_canon {u : Hdr} {a : BitVec 5} {s : State} (hs : s.Canon) : NextCanon (execLrecArm u a s) := by
  unfold execLrecArm
  extract_lets
  refine uniform_canon (fun s₁ h₁ => Keeps.bind (recOpen_canon h₁) (fun x₁ h₂ => ?_)) hs
  split
  · rename_i e₁
    exact Keeps.ite h₁ ((armRecord_canon h₁).of_ok e₁)
  · exact recRefuse_canon h₁

theorem jobOpen_canon {s : State} {w : Word} (hs : s.Canon) : Keeps (fun _ => True) (jobOpen s w) :=
  Keeps.bind (pureNever_canon hs) (fun _ _ => Keeps.ite (recRefuse_canon hs) (Keeps.ite (recRefuse_canon hs) trivial))

/-! ### The queue manager -/

theorem serve_canon {s : State} {d n : Nat} (hs : s.Canon) : (serve s d n).Canon := setDie_canon hs

theorem validCount_canon {s : State} {bs : List Byte} {pos : Nat} (hs : s.Canon) : (validCount s bs pos).1.Canon := by
  unfold validCount
  extract_lets
  refine canon_ite_fst hs (canon_ite_fst hs ?_)
  split
  · rename_i e₁
    exact canon_fst (translate_canon hs) e₁
  · rename_i e₂
    exact canon_fst (translate_canon hs) e₂
  · rename_i e₃
    exact canon_fst (translate_canon hs) e₃

theorem windowFails_canon {s : State} {c : Nat} {id : LaunchId} {sub : BitVec 8} (hs : s.Canon) : (windowFails s c id sub).Canon :=
  failRecord_canon (canon_foldl hs (fun _ _ h₁ => setStrand_canon h₁))

theorem startStitch_canon {s : State} {d n : Nat} {bs : List Byte} {c g pos : Nat} (hs : s.Canon) :
    (startStitch s d n bs c g pos).Canon := by
  unfold startStitch
  split
  · exact hs
  · rename_i e₁
    exact failRecord_canon (canon_fst (validCount_canon hs) e₁)
  · rename_i e₂
    refine canon_ite (windowFails_canon (canon_fst (validCount_canon hs) e₂)) ?_
    exact serve_canon (canon_foldl (setCore_canon (canon_fst (validCount_canon hs) e₂)) (fun _ _ h₁ => setStrand_canon h₁))

theorem takePos_canon {s : State} {d n g : Nat} {free : Bool} {x : Work} (hs : s.Canon) : (takePos s d n g free x).1.Canon := by
  unfold takePos
  split
  · exact setRecx_canon hs
  · exact setRecx_canon hs
  · exact hs

theorem startOn_canon {s : State} {d n c : Nat} {w : Work} (hs : s.Canon) : (startOn s d n c w).Canon := by
  unfold startOn
  extract_lets
  split
  · exact hs
  split
  · rename_i e₁
    exact canon_ite (startStitch_canon (canon_fst (takePos_canon hs) e₁)) hs
  · exact hs

theorem execStitchStart_canon {core : Nat} {s : State} (hs : s.Canon) : NextCanon (execStitchStart core s) := by
  unfold execStitchStart
  refine event_canon ?_
  split
  · exact startOn_canon hs
  · exact startOn_canon hs
  · exact hs

theorem firstStitches_canon {s : State} {d n : Nat} {bs : List Byte} {c : Nat} (hs : s.Canon) : (firstStitches s d n bs c).Canon := by
  unfold firstStitches
  extract_lets
  refine canon_foldl hs (fun s₁ x₁ h₁ => ?_)
  split
  · exact startOn_canon h₁
  · exact h₁

theorem dispatch_canon {s : State} {d n c : Nat} (hs : s.Canon) : (dispatch s d n c).Canon := by
  unfold dispatch
  extract_lets
  split
  · exact failDispatch_canon hs
  split
  · exact doneRecord_canon (setDie_canon hs)
  · exact firstStitches_canon (serve_canon (setRecBits_canon (setRecx_canon hs)))

theorem execRecordDispatch_canon {die : Nat} {s : State} (hs : s.Canon) : NextCanon (execRecordDispatch die s) := by
  unfold execRecordDispatch
  refine event_canon (getD_canon ?_ hs)
  generalize upto 127 = cores
  refine findSome_canon (fun j => ?_)
  dsimp only
  split
  · exact dispatch_canon hs
  · exact trivial

theorem finishColl_canon {s : State} {d : Nat} {c : Coll} {status : BitVec 8} (hs : s.Canon) : (finishColl s d c status).Canon :=
  canon_ite (setCore_canon (setDie_canon hs)) (setDie_canon hs)

theorem endColls_canon {s : State} {t : Stitch} (hs : s.Canon) : (endColls s t).Canon :=
  canon_foldl hs (fun _ _ h₁ => canon_foldl h₁ (fun _ _ h₂ => finishColl_canon h₂))

theorem dropLease_canon {s : State} {c : Nat} (hs : s.Canon) : (dropLease s c).Canon := by
  unfold dropLease
  extract_lets
  split
  · exact canon_ite (endLease_canon (setCluster_canon hs)) (setCluster_canon hs)
  · exact setCluster_canon hs

theorem freeCoreOf_canon {s : State} {c : Nat} (hs : s.Canon) : (freeCoreOf s c).Canon :=
  setCore_canon (canon_foldl (dropLease_canon hs) (fun _ _ h₁ => setStrand_canon h₁))

theorem dropCommands_canon {s : State} {c : Nat} (hs : s.Canon) : (dropCommands s c).Canon := setCluster_canon hs

theorem retire_canon {s : State} {c : Nat} (hs : s.Canon) : (retire s c).Canon := by
  unfold retire
  split
  · exact hs
  refine canon_ite hs (canon_ite ?_ (canon_ite hs ?_))
  · exact freeCoreOf_canon (dropCommands_canon (endColls_canon (settleRings_canon (dropStitch_canon hs))))
  · extract_lets w s₁ s₂ x s₃
    have h₂ : s₂.Canon := freeCoreOf_canon (settleRings_canon (releaseStitch_canon hs))
    exact checkDone_canon (canon_ite (setRecx_canon h₂) h₂)

theorem execStitchRetire_canon {core : Nat} {s : State} (hs : s.Canon) : NextCanon (execStitchRetire core s) :=
  event_canon (retire_canon hs)

theorem trapAll_canon {s : State} {c : Nat} {t : TrapInfo} (hs : s.Canon) : (trapAll s c t).Canon :=
  setDie_canon
    (failStitch_canon
       (canon_foldl hs (fun _ _ h₁ => canon_ite (setStrand_canon (abandonUnit_canon (withdrawArrival_canon h₁))) h₁)))

theorem execStitchBudgetExpiry_canon {core : Nat} {s : State} (hs : s.Canon) : NextCanon (execStitchBudgetExpiry core s) := by
  unfold execStitchBudgetExpiry
  refine event_canon ?_
  split
  · exact hs
  · exact canon_ite (trapAll_canon hs) hs

theorem execEprioAging_canon {die rec' : Nat} {s : State} (hs : s.Canon) : NextCanon (execEprioAging die rec' s) := by
  unfold execEprioAging
  exact event_canon (canon_ite (setRecBits_canon (setRecx_canon hs)) hs)

theorem execFirmwareWritesState_canon {die rec' : Nat} {st : BitVec 3} {s : State} (hs : s.Canon) :
    NextCanon (execFirmwareWritesState die rec' st s) :=
  fwEvent_canon hs
    (canon_ite (makeReady_canon (canon_ite (dropEprio_canon hs) hs)) (setRecBits_canon (canon_ite (dropEprio_canon hs) hs)))

/-! ### Pre-emption and resumption of stitches -/

theorem writeAreas_canon {s : State} {n : Nat} {l : List (BitVec 56 × List PRow)} (hs : s.Canon) :
    Keeps State.Canon (writeAreas s n l) := by
  induction l generalizing s n with
  | nil =>
    unfold writeAreas
    exact hs
  | cons _ _ ih =>
    unfold writeAreas
    exact Keeps.bind (storeRows_canon (asStrand_canon hs)) (fun _ h₁ => ih h₁)

theorem saveSlot_canon {s : State} {c : Nat} {t : Stitch} {l : Lease} (hs : s.Canon) : (saveSlot s c t l).1.Canon := by
  unfold saveSlot
  extract_lets _ _ _ _ _ _ _ v₁
  split
  extract_lets
  refine setCluster_canon (canon_foldl (setBytes_canon ?_) (fun _ _ h₁ => setBlockPoison_canon h₁))
  unfold v₁
  split
  · exact clearSlot_canon (canon_foldl hs (fun _ _ h₂ => setRowAt_canon h₂))
  · exact canon_foldl hs (fun _ _ h₃ => setRowAt_canon h₃)

theorem stopUnits_canon {s : State} {c : Nat} (hs : s.Canon) : (stopUnits s c).Canon :=
  canon_foldl hs (fun _ _ h₁ => abandonUnit_canon (withdrawArrival_canon h₁))

theorem suspend_canon {s : State} {t : Stitch} {x : Suspended} (hs : s.Canon) : (suspend s t x).Canon :=
  canon_ite (setRecx_canon hs) hs

theorem stopArray_canon {s : State} {c : Nat} {t : Stitch} (hs : s.Canon) : (stopArray s c t).Canon := setCluster_canon hs

theorem discardStitch_canon {s : State} {c : Nat} {t : Stitch} (hs : s.Canon) : (discardStitch s c t).Canon :=
  suspend_canon (freeCoreOf_canon (endColls_canon (settleRings_canon (dropStitch_canon (stopArray_canon (stopUnits_canon hs))))))

theorem saveLease_canon {s : State} {c : Nat} {t : Stitch} (hs : s.Canon) : (saveLease s c t).1.Canon := by
  unfold saveLease
  extract_lets
  split
  · refine canon_ite_fst ?_ hs
    split
    · rename_i e₁
      exact canon_fst (saveSlot_canon hs) e₁
  · exact hs

theorem saveStitch_canon {s u : State} {c : Nat} {t : Stitch} (hs : s.Canon) (e : saveStitch s c t = .ok u) : u.Canon := by
  revert e
  unfold saveStitch
  extract_lets
  split
  rename_i e₁
  have h₁ := canon_fst (saveLease_canon (stopUnits_canon hs)) e₁
  extract_lets
  split
  · rename_i e₂
    intro e
    rw [← Except.ok.inj e]
    exact suspend_canon (freeCoreOf_canon (asStrand_canon ((writeAreas_canon h₁).of_ok e₂)))
  · nofun
  · intro e
    rw [← Except.ok.inj e]
    exact failStitch_canon hs
  · intro e
    rw [← Except.ok.inj e]
    exact canon_ite (freezeCore_canon hs) hs

theorem execPreemptStitch_canon {core : Nat} {discard : Bool} {s : State} (hs : s.Canon) :
    NextCanon (execPreemptStitch core discard s) := by
  unfold execPreemptStitch
  refine event_canon ?_
  split
  · exact hs
  rename_i t _
  refine OkCanon.ite hs (OkCanon.ite hs (OkCanon.ite ?_ ?_))
  · show State.Canon (ite _ _ _)
    exact canon_ite (discardStitch_canon hs) hs
  · generalize h : saveStitch s core t = x
    exact OkCanon.of_forall (fun u e => saveStitch_canon hs (h.trans e))

theorem restoreStrands_canon {s : State} {c : Nat} {sus : Suspended} {bs : List Byte} {l : List (Nat × BitVec 56)}
    (hs : s.Canon) :
    Keeps (·.1.Canon) (restoreStrands s c sus bs l) := by
  induction l generalizing s c sus bs with
  | nil =>
    unfold restoreStrands
    exact hs
  | cons _ _ ih =>
    unfold restoreStrands
    exact Keeps.bind (loadRows_canon (asStrand_canon hs)) (fun _ h₁ => Keeps.ite h₁ (ih (setStrand_canon (setCore_canon h₁))))

theorem resumeStitch_canon {s0 : State} {d n c k : Nat} (hs0 : s0.Canon) : OkCanon (resumeStitch s0 d n c k) := by
  unfold resumeStitch
  extract_lets
  split
  · exact hs0
  extract_lets
  split
  · exact trivial
  · exact canon_ite (windowFails_canon (setRecx_canon hs0)) (failRecord_canon (setRecx_canon hs0))
  · exact hs0
  rename_i e₁
  refine OkCanon.ite (canon_ite (windowFails_canon (setRecx_canon hs0)) (failRecord_canon (setRecx_canon hs0))) ?_
  extract_lets
  split
  · exact trivial
  · exact canon_ite (windowFails_canon (setRecx_canon hs0)) (failRecord_canon (setRecx_canon hs0))
  · exact hs0
  · exact canon_ite (windowFails_canon (setRecx_canon hs0)) (failRecord_canon (setRecx_canon hs0))
  rename_i e₂
  have h₁ := (loadRows_canon (setMe_canon (asStrand_canon (setRecx_canon hs0)))).of_ok e₁
  have h₂ := (restoreStrands_canon (canon_foldl (setCore_canon h₁) (fun _ _ h => setStrand_canon h))).of_ok e₂
  extract_lets _ _ v₁
  refine serve_canon ?_
  unfold v₁
  split
  · exact setCluster_canon (asStrand_canon h₂)
  · exact asStrand_canon h₂

theorem execStitchResume_canon {core : Nat} {s : State} (hs : s.Canon) : NextCanon (execStitchResume core s) := by
  unfold execStitchResume
  refine event_canon ?_
  split
  · exact resumeStitch_canon hs
  · exact hs

/-! ### Firmware's acts on pages and frozen cores -/

theorem execPageMap_canon {die : Nat} {sp : Space} {va : BitVec 56} {leaf : BitVec 64} {s : State} (hs : s.Canon) :
    NextCanon (execPageMap die sp va leaf s) := by
  unfold execPageMap
  refine fwEvent_canon hs ?_
  split
  · exact canon_ite (setNum_canon hs) hs
  · exact hs

theorem discardEntry_canon {s : State} {d : Nat} {e : SkeinEntry} {cause : BitVec 8} (hs : s.Canon) :
    (discardEntry s d e cause).Canon := by
  unfold discardEntry
  extract_lets
  split
  · exact canon_ite (setStrand_canon (setDie_canon hs)) (setDie_canon hs)
  · exact failRecord_canon (setDie_canon hs)

theorem replayEntry_canon {s : State} {e : SkeinEntry} {k : Nat} (hs : s.Canon) : (replayEntry s e k).Canon := by
  unfold replayEntry
  split
  · exact storeCells_canon hs
  · exact applyUpdate_canon hs
  split
  · rename_i e₁
    exact canon_ite (setStrand_canon (canon_fst (amoAt_canon hs) e₁)) (canon_fst (amoAt_canon hs) e₁)

theorem replayOne_canon {s : State} {d : Nat} (hs : s.Canon) : OkCanon (replayOne s d) := by
  unfold replayOne
  split
  · exact hs
  split
  rename_i e₁
  extract_lets
  split
  · exact replayEntry_canon (setDie_canon (canon_fst (translate_canon hs) e₁))
  · exact trivial
  · exact discardEntry_canon (setDie_canon (canon_fst (translate_canon hs) e₁))

theorem execSkeinReplay_canon {die : Nat} {s : State} (hs : s.Canon) : NextCanon (execSkeinReplay die s) :=
  event_canon (replayOne_canon hs)

theorem unmappable_canon {s : State} {d : Nat} {sp : Space} {va : BitVec 56} (hs : s.Canon) : (unmappable s d sp va).Canon :=
  canon_same (canon_foldl (setDie_canon hs) (fun _ _ h₁ => discardEntry_canon h₁))

theorem shiftClock_canon {s : State} {c n : Nat} (hs : s.Canon) : (shiftClock s c n).Canon := by
  unfold shiftClock
  extract_lets dt s₁ s₂ cl own y s₃ y₃
  have h₂ : s₂.Canon := canon_foldl (setCore_canon hs) (fun _ _ h => setStrand_canon h)
  have h₃ : s₃.Canon := canon_ite h₂ (setCluster_canon h₂)
  split
  · exact canon_ite (setCluster_canon h₃) h₃
  · exact h₃

theorem thaw_canon {s : State} {c : Nat} (hs : s.Canon) : (thaw s c).Canon := by
  unfold thaw
  split
  · exact hs
  · exact setCore_canon (shiftClock_canon hs)

theorem failFrozen_canon {s : State} {d c : Nat} (hs : s.Canon) : (failFrozen s d c).Canon := by
  unfold failFrozen
  extract_lets v₁
  refine canon_foldl (setDie_canon ?_) (fun _ _ h₁ => failRecord_canon (entryDone_canon h₁))
  unfold v₁
  split
  · exact failRecord_canon hs
  · exact hs

theorem execCoreThaw_canon {die : Nat} {fail : Bool} {s : State} (hs : s.Canon) : NextCanon (execCoreThaw die fail s) := by
  unfold execCoreThaw
  extract_lets
  refine fwEvent_canon hs ?_
  split
  · exact hs
  · exact canon_ite (failFrozen_canon (thaw_canon (setDie_canon hs))) (thaw_canon (setDie_canon hs))

theorem execLateExpiry_canon {core : Nat} {s : State} (hs : s.Canon) : NextCanon (execLateExpiry core s) := by
  unfold execLateExpiry
  extract_lets
  refine event_canon ?_
  split
  · exact canon_ite (canon_ite (trapAll_canon (setCore_canon hs)) (setCore_canon hs)) hs
  · exact hs

theorem expiry_canon {s : State} {n : Nat} {kind : WaitKind → Bool} (hs : s.Canon) : NextCanon (expiry s n kind) := by
  unfold expiry
  refine event_canon ?_
  split
  · exact canon_ite (expireWait_canon hs) hs
  · exact hs

theorem execBandWaitExpiry_canon {strand : Nat} {s : State} (hs : s.Canon) : NextCanon (execBandWaitExpiry strand s) :=
  expiry_canon hs

theorem execCmdqWaitExpiry_canon {strand : Nat} {s : State} (hs : s.Canon) : NextCanon (execCmdqWaitExpiry strand s) :=
  expiry_canon hs

theorem execTokTakeExpiry_canon {strand : Nat} {s : State} (hs : s.Canon) : NextCanon (execTokTakeExpiry strand s) :=
  expiry_canon hs

theorem execCpwaitExpiry_canon {strand : Nat} {s : State} (hs : s.Canon) : NextCanon (execCpwaitExpiry strand s) :=
  expiry_canon hs

theorem execCqpopExpiry_canon {strand : Nat} {s : State} (hs : s.Canon) : NextCanon (execCqpopExpiry strand s) := expiry_canon hs

theorem execMrestoreWaitExpiry_canon {strand : Nat} {s : State} (hs : s.Canon) : NextCanon (execMrestoreWaitExpiry strand s) :=
  expiry_canon hs

theorem execCbarExpiry_canon {strand : Nat} {s : State} (hs : s.Canon) : NextCanon (execCbarExpiry strand s) := expiry_canon hs

theorem execRecastWaitExpiry_canon {strand : Nat} {s : State} (hs : s.Canon) : NextCanon (execRecastWaitExpiry strand s) :=
  expiry_canon hs

theorem execRingWaitExpiry_canon {strand : Nat} {s : State} (hs : s.Canon) : NextCanon (execRingWaitExpiry strand s) :=
  expiry_canon hs

theorem execLrecWaitExpiry_canon {strand : Nat} {s : State} (hs : s.Canon) : NextCanon (execLrecWaitExpiry strand s) :=
  expiry_canon hs

theorem execJobWaitExpiry_canon {strand : Nat} {s : State} (hs : s.Canon) : NextCanon (execJobWaitExpiry strand s) :=
  expiry_canon hs

/-! ### Collectives and the fabric's events -/

theorem readDesc_canon {s : State} {h : HBits} {lo n : Nat} (hs : s.Canon) : Keeps (·.1.Canon) (readDesc s h lo n) := by
  unfold readDesc
  refine Keeps.bind (loadElems_canon hs) (fun x₁ h₁ => ?_)
  split
  split <;> exact h₁

theorem beginColl_canon {s : State} {d : Nat} {c : Coll} (hs : s.Canon) : (beginColl s d c).Canon :=
  canon_ite (finishColl_canon hs) (setDie_canon hs)

theorem startNamed_canon {s : State} {core : Nat} {q : Cmd} (hs : s.Canon) : (startNamed s core q).Canon := by
  unfold startNamed
  split
  · exact hs
  split
  · exact beginColl_canon hs
  split
  · exact setCore_canon hs
  · exact hs

theorem startCollective_canon {s : State} {core : Nat} (hs : s.Canon) : (startCollective s core).Canon := by
  unfold startCollective
  extract_lets
  refine canon_ite hs ?_
  split
  · exact startNamed_canon (setCore_canon hs)
  · exact hs

theorem startColl_canon {s : State} {i : Instr} {h : HBits} {d : BitVec 5} {bs : List Byte} {ok : Bool} (hs : s.Canon) :
    Keeps State.Canon (startColl s i h d bs ok) :=
  Keeps.bind (captureCmd_canon hs) (fun _ h₁ => startCollective_canon (sset_canon (setDie_canon h₁)))

theorem execReshard_canon {u : Hdr} {d : BitVec 5} {h : BitVec 4} {s : State} (hs : s.Canon) : NextCanon (execReshard u d h s) := by
  unfold execReshard
  refine uniform_canon (fun t ht => ?_) hs
  refine Keeps.bind (handleCheck_canon ht) (fun _ _ => Keeps.bind (pureNever_canon ht) (fun _ _ => ?_))
  refine Keeps.bind (alignCheck_canon ht) (fun _ _ => Keeps.bind (readDesc_canon ht) (fun _ h₁ => ?_))
  refine Keeps.ite_bind (P := State.Canon ∘ Prod.fst) (readDesc_canon h₁) h₁ (fun _ h₂ => Keeps.ite h₂ (Keeps.ite h₂ ?_))
  exact Keeps.bind (startColl_canon (setPs_canon h₂)) (fun _ h₃ => h₃)

theorem execCwait_canon {u : Hdr} {d a : BitVec 5} {lim : BitVec 12} {s : State} (hs : s.Canon) :
    NextCanon (execCwait u d a lim s) := by
  unfold execCwait
  refine uniform_canon (fun s₁ h₁ => Keeps.bind (pureNever_canon h₁) (fun x₁ h₂ => ?_)) hs
  split
  · exact sset_canon h₁
  · exact h₁

theorem execCwaitExpiry_canon {strand : Nat} {s : State} (hs : s.Canon) : NextCanon (execCwaitExpiry strand s) := expiry_canon hs

theorem execReshardWaitExpiry_canon {strand : Nat} {s : State} (hs : s.Canon) : NextCanon (execReshardWaitExpiry strand s) :=
  expiry_canon hs

theorem withColl_canon {α : Type} {s : State} {c : Coll} {f : State → Nat → Eng α} (hs : s.Canon)
    (hf : ∀ t y₂, t.Canon → (f t y₂).Canon) :
    (withColl s c f).Canon := by
  unfold withColl
  refine Eng.Canon.ite (hf _ _ hs) ?_
  extract_lets
  split
  · rename_i e₁
    exact setStrand_canon (setCore_canon ((hf _ _ (setCore_canon hs)).of_ok e₁))
  · rename_i e₂
    exact setStrand_canon (setCore_canon ((hf _ _ (setCore_canon hs)).of_fail e₂))
  · exact hs
  · exact trivial

theorem readRows_canon {s : State} {c : Coll} {prior : Option HeldReq} {cause : BitVec 8} {l : List (List Nat)} (hs : s.Canon) :
    (readRows s c prior cause l).Canon := by
  induction l generalizing s c prior cause with
  | nil =>
    unfold readRows
    exact hs
  | cons _ _ ih =>
    unfold readRows
    extract_lets h w dead
    have hdead (t : State) (x : BitVec 8) (ht : t.Canon) : (dead t x).Canon := by
      unfold dead
      split
      · rename_i e
        exact (ih ht).of_ok e
      · rename_i e
        exact (ih ht).of_wait e
      · rename_i e
        exact (ih ht).of_fail e
      · exact trivial
    clear_value dead
    refine Eng.Canon.ite (hdead s cause hs) ?_
    split
    · exact hdead s _ hs
    have hload (els : List Elem) : (withColl s c (fun s n => engineLoad s n prior h (hSpace h) w els)).Canon :=
      withColl_canon hs (fun _ _ h => engineLoad_canon h)
    split
    · rename_i e
      have ht := (hload _).of_ok e
      split
      · rename_i e'
        exact (ih ht).of_ok e'
      · rename_i e'
        exact (ih ht).of_wait e'
      · rename_i e'
        exact (ih ht).of_fail e'
      · exact trivial
    · rename_i e
      exact hdead _ _ ((hload _).of_fail e)
    · rename_i e
      exact (hload _).of_wait e
    · exact trivial

theorem setColl_canon {s : State} {d : Nat} {c : Coll} (hs : s.Canon) : (setColl s d c).Canon := setDie_canon hs

theorem sendTile_canon {s : State} {d : Nat} {c : Coll} {i : Nat} (hs : s.Canon) : (sendTile s d c i).Canon := by
  unfold sendTile
  extract_lets
  split
  · exact trivial
  · rename_i e₁
    exact canon_ite ((readRows_canon hs).of_wait e₁) (setColl_canon ((readRows_canon hs).of_wait e₁))
  · rename_i e₂
    exact (readRows_canon hs).of_fail e₂
  · rename_i e₃
    exact canon_same (setDie_canon (setColl_canon ((readRows_canon hs).of_ok e₃)))

theorem sendFirst_canon {s : State} {d : Nat} {l : List (BitVec 16 × Nat)} (hs : s.Canon) : OkCanon (sendFirst s d l) := by
  induction l generalizing s d with
  | nil =>
    unfold sendFirst
    exact hs
  | cons _ _ ih =>
    unfold sendFirst
    split
    · exact ih hs
    split
    · rename_i e₁
      exact (sendTile_canon hs).of_ok e₁
    · rename_i e₂
      exact ih ((sendTile_canon hs).of_wait e₂)
    · rename_i e₃
      exact (sendTile_canon hs).of_fail e₃
    · exact trivial

theorem transferTile_canon {s : State} {d : Nat} (hs : s.Canon) : OkCanon (transferTile s d) := sendFirst_canon hs

theorem execTileTransfer_canon {die : Nat} {s : State} (hs : s.Canon) : NextCanon (execTileTransfer die s) :=
  event_canon (transferTile_canon hs)

theorem addAll_canon {s : State} {c : Coll} {m : Message} {prior : Option HeldReq} {l : List (Nat × Nat)} {k : Nat} {x : Bool}
    (hs : s.Canon) :
    (addAll s c m prior l k x).Canon := by
  induction l generalizing s c m prior k x with
  | nil =>
    unfold addAll
    exact hs
  | cons _ _ ih =>
    unfold addAll
    extract_lets
    split
    · rename_i e₁
      exact ih ((takeUpdate_canon hs).of_done e₁)
    · exact trivial
    · rename_i e₂
      exact (takeUpdate_canon hs).of_held e₂
    · exact trivial

theorem writeAll_canon {s : State} {c : Coll} {m : Message} {prior : Option HeldReq} (hs : s.Canon) : (writeAll s c m prior).Canon := by
  unfold writeAll
  extract_lets
  split
  · rename_i e₁
    exact (withColl_canon hs (fun _ _ h₁ => engineStore_canon h₁)).of_ok e₁
  · exact trivial
  · rename_i e₂
    exact (withColl_canon hs (fun _ _ h₂ => engineStore_canon h₂)).of_wait e₂
  · exact trivial

theorem receive_canon {s : State} {c : Coll} {m : Message} {prior : Option HeldReq} (hs : s.Canon) : (receive s c m prior).Canon := by
  unfold receive
  split
  · exact trivial
  · exact Delivered.Canon.ite (addAll_canon hs) (writeAll_canon hs)

theorem performed_canon {s : State} {m : Message} (hs : s.Canon) : (performed s m).Canon := by
  unfold performed
  split
  · exact hs
  extract_lets
  split
  · exact setColl_canon (canon_same hs)
  · exact canon_same hs

theorem received_canon {s : State} {c : Coll} {m : Message} {wrote : Nat} {poison : Bool} {cause : BitVec 8} (hs : s.Canon) :
    (received s c m wrote poison cause).Canon :=
  performed_canon (canon_ite (setColl_canon hs) (countTag_canon (setColl_canon hs)))

theorem deliver_canon {s : State} {m : Message} (hs : s.Canon) : OkCanon (deliver s m) := by
  unfold deliver
  extract_lets
  refine OkCanon.ite (performed_canon hs) ?_
  split
  · exact hs
  refine OkCanon.ite (performed_canon (finishColl_canon hs)) (OkCanon.ite hs ?_)
  split
  · exact trivial
  · extract_lets v₁
    refine canon_ite (freezeCore_canon ?_) ?_
    · unfold v₁
      split
      · exact canon_ite hs (setColl_canon hs)
      · exact hs
    unfold v₁
    split
    · exact canon_ite hs (setColl_canon hs)
    · exact hs
  · rename_i e₁
    exact received_canon ((receive_canon hs).of_done e₁)
  · exact received_canon hs

theorem execMessageDelivery_canon {m : Message} {s : State} (hs : s.Canon) : NextCanon (execMessageDelivery m s) :=
  event_canon (deliver_canon hs)

theorem execEngineCommandStart_canon {core engine chan : Nat} {s : State} (hs : s.Canon) :
    NextCanon (execEngineCommandStart core engine chan s) :=
  event_canon (canon_ite (startCopy_canon hs) (canon_ite (startScatter_canon hs) (canon_ite (startCollective_canon hs) hs)))

theorem execCollectiveComplete_canon {die num : Nat} {s : State} (hs : s.Canon) : NextCanon (execCollectiveComplete die num s) := by
  unfold execCollectiveComplete
  extract_lets
  refine event_canon ?_
  split
  · exact canon_ite (finishColl_canon hs) hs
  · exact hs

theorem cancelColl_canon {s : State} {d : Nat} {num : BitVec 16} (hs : s.Canon) : (cancelColl s d num).Canon := by
  unfold cancelColl
  extract_lets
  split
  · exact finishColl_canon (setDie_canon hs)
  · exact setDie_canon hs

/-! ### Page migration -/

theorem postResult_canon {s : State} {d : Nat} {q : MigReq} {result : Nat} (hs : s.Canon) : (postResult s d q result).Canon :=
  setDie_canon hs

theorem migAdvance_canon {k : Nat} {s : State} {k₁ : Nat} (hs : s.Canon) : (migAdvance k s k₁).Canon := by
  induction k generalizing s k₁ with
  | zero =>
    unfold migAdvance
    exact hs
  | succ _ ih =>
    unfold migAdvance
    split
    · exact hs
    split
    · exact hs
    · exact ih (postResult_canon (setDie_canon hs))

theorem migEnd_canon {s : State} {d result : Nat} (hs : s.Canon) : (migEnd s d result).Canon := by
  unfold migEnd
  split
  · exact hs
  · exact heldForwards_canon (migAdvance_canon (postResult_canon (setDie_canon hs)))

theorem submitMig_canon {s : State} {d : Nat} {host : Bool} {va : BitVec 56} {cmd : Word} (hs : s.Canon) :
    (submitMig s d host va cmd).Canon :=
  canon_ite hs (canon_ite (canon_ite (migAdvance_canon (setDie_canon hs)) (setDie_canon hs)) (setDie_canon hs))

theorem migFlip_canon {s : State} {d : Nat} (hs : s.Canon) : OkCanon (migFlip s d) := by
  unfold migFlip
  split
  · exact hs
  extract_lets
  split
  · exact migEnd_canon hs
  refine OkCanon.ite (migEnd_canon hs) (OkCanon.ite hs ?_)
  extract_lets
  split
  · exact OkCanon.ite hs (migEnd_canon (setDie_canon (setNum_canon (moveBytes_canon hs))))
  · exact trivial
  · exact trivial
  · exact migEnd_canon hs

theorem execMigrationFlip_canon {die : Nat} {s : State} (hs : s.Canon) : NextCanon (execMigrationFlip die s) :=
  event_canon (migFlip_canon hs)

theorem setRing_canon {s : State} {d n : Nat} {r : HostRing} (hs : s.Canon) : (State.setRing s d n r).Canon := setDie_canon hs

theorem stalePkt_canon {s : State} {d n reason : Nat} {seq : BitVec 32} (hs : s.Canon) : (stalePkt s d n reason seq).Canon :=
  canon_same (setRing_canon hs)

theorem kick_canon {s : State} {d n : Nat} {k : BitVec 32} (hs : s.Canon) : (kick s d n k).Canon := by
  unfold kick
  refine canon_ite (setRing_canon hs) ?_
  refine canon_ite (stalePkt_canon (setRing_canon hs)) ?_
  refine canon_ite (canon_ite (setRing_canon (setRing_canon hs)) (setRing_canon hs)) ?_
  exact canon_ite (setRing_canon hs) (stalePkt_canon (setRing_canon hs))

theorem applyPacket_canon {s t : State} {d n p : Nat} (hs : s.Canon) (e : applyPacket s d n p = .applied t) : t.Canon := by
  revert e
  unfold applyPacket
  extract_lets name rec' tenant fs s'
  have hs' : s'.Canon := canon_foldl hs (fun _ _ h => patchRecord_canon h)
  clear_value s'
  intro e
  split at e
  · cases e
  split at e
  · cases e
  split at e
  · cases e
  split at e
  · cases e; exact hs'
  split at e
  · cases e
  split at e
  · rename_i e'
    cases e
    exact (armRecord_canon hs').of_ok e'
  · cases e

theorem slotDone_canon {s : State} {d n : Nat} (hs : s.Canon) : (slotDone s d n).Canon := setRing_canon hs

theorem seqPoll_canon {s : State} {d n : Nat} (hs : s.Canon) : (seqPoll s d n).Canon := by
  unfold seqPoll
  extract_lets r p first
  refine canon_ite hs (canon_ite hs (canon_ite ?_ (setRing_canon hs)))
  split
  · rename_i e
    exact slotDone_canon (applyPacket_canon hs e)
  · exact slotDone_canon (setRing_canon hs)
  · exact setRing_canon hs

theorem execSeqPoll_canon {die ring : Nat} {s : State} (hs : s.Canon) : NextCanon (execSeqPoll die ring s) := by
  unfold execSeqPoll
  exact event_canon (seqPoll_canon hs)

theorem execStalepktTimeout_canon {die ring : Nat} {s : State} (hs : s.Canon) : NextCanon (execStalepktTimeout die ring s) := by
  unfold execStalepktTimeout
  extract_lets
  refine event_canon ?_
  split
  · exact canon_ite (stalePkt_canon hs) hs
  · exact hs

theorem writeDieReg_canon {s : State} {d off : Nat} {v : Word} (hs : s.Canon) : SomeCanon (writeDieReg s d off v) := by
  unfold writeDieReg
  refine SomeCanon.ite (setDie_canon hs) ?_
  refine SomeCanon.ite (setDie_canon hs) ?_
  refine SomeCanon.ite (setDie_canon hs) ?_
  refine SomeCanon.ite (setDie_canon hs) ?_
  refine SomeCanon.ite (setDie_canon hs) ?_
  refine SomeCanon.ite (setDie_canon hs) ?_
  refine SomeCanon.ite (setDie_canon hs) ?_
  refine SomeCanon.ite (setDie_canon hs) ?_
  refine SomeCanon.ite (submitMig_canon hs) ?_
  refine SomeCanon.ite (setDie_canon hs) ?_
  exact SomeCanon.ite (setDie_canon hs) (SomeCanon.ite (setDie_canon hs) (SomeCanon.ite (cancelColl_canon hs) trivial))

theorem writeIdxReg_canon {s : State} {d off : Nat} {v : Word} (hs : s.Canon) : SomeCanon (writeIdxReg s d off v) := by
  unfold writeIdxReg
  extract_lets
  split
  · exact setDie_canon hs
  split
  · exact SomeCanon.ite (setDie_canon hs) hs
  split
  · exact setDie_canon hs
  split
  · exact setRing_canon hs
  split
  · exact kick_canon hs
  split
  · exact canon_ite (setRing_canon hs) hs
  split
  · exact setDie_canon hs
  split
  · exact setDie_canon hs
  · exact trivial

theorem writeEdgeReg_canon {s : State} {off : Nat} {v : Word} (hs : s.Canon) : SomeCanon (writeEdgeReg s off v) := by
  unfold writeEdgeReg
  refine SomeCanon.ite (canon_same hs) ?_
  split
  · exact canon_ite (canon_same hs) hs
  · exact trivial

theorem writeClusterReg_canon {s : State} {d c r : Nat} {v : Word} (hs : s.Canon) : (writeClusterReg s d c r v).Canon :=
  setCluster_canon hs

theorem writeReg_canon {s : State} {d off : Nat} {v : Word} (hs : s.Canon) : (writeReg s d off v).Canon := by
  unfold writeReg
  split
  · rename_i e
    exact (writeDieReg_canon hs).of_some e
  split
  · rename_i e
    exact (writeIdxReg_canon hs).of_some e
  split
  · rename_i e
    have h : SomeCanon (if d = 0 then writeEdgeReg s off v else none) := SomeCanon.ite (writeEdgeReg_canon hs) trivial
    exact h.of_some e
  split
  · exact writeClusterReg_canon hs
  split
  · exact setJob_canon hs
  · exact hs

/-! ### The host edge, bring-up and attestation -/

theorem mail_canon {s : State} {c : MailCode} (hs : s.Canon) : (mail s c).Canon := canon_same hs

theorem execTransferPart_canon {data : List Byte} {s : State} (hs : s.Canon) : NextCanon (execTransferPart data s) := by
  unfold execTransferPart
  refine event_canon (canon_ite hs ?_)
  split
  · exact mail_canon (canon_same hs)
  · exact mail_canon hs
  · exact mail_canon hs
  · exact mail_canon (canon_same hs)

theorem execTransferEnd_canon {s : State} (hs : s.Canon) : NextCanon (execTransferEnd s) := by
  unfold execTransferEnd
  refine event_canon (canon_ite hs ?_)
  split
  · exact mail_canon (canon_same hs)
  · exact mail_canon hs
  · exact hs

theorem execTransferAbort_canon {s : State} (hs : s.Canon) : NextCanon (execTransferAbort s) := by
  unfold execTransferAbort
  refine event_canon (canon_ite hs ?_)
  split
  · exact mail_canon (canon_same hs)
  · exact mail_canon hs
  · exact hs

theorem loadFirmware_canon {s : State} {d : Nat} {img : List Byte} (hs : s.Canon) : (loadFirmware s d img).Canon :=
  setDie_canon (canon_foldl (setBytes_canon hs) (fun _ _ h₁ => setByte_canon h₁))

theorem startStewards_canon {s : State} {b : Boot} (hs : s.Canon) : (startStewards s b).Canon :=
  canon_foldl hs (fun _ _ h₁ => setStrand_canon (setCore_canon (loadFirmware_canon h₁)))

theorem verdict_canon {s : State} (hs : s.Canon) : (verdict s).Canon :=
  canon_ite hs (canon_ite (startStewards_canon (canon_same hs)) (canon_same hs))

theorem execImageVerify_canon {die : Nat} {s : State} (hs : s.Canon) : NextCanon (execImageVerify die s) := by
  unfold execImageVerify
  exact event_canon (canon_ite hs (verdict_canon (canon_same hs)))

theorem execGetAttestation_canon {nonce : BitVec 256} {s : State} (hs : s.Canon) : NextCanon (execGetAttestation nonce s) := by
  unfold execGetAttestation
  refine event_canon (canon_ite hs ?_)
  split
  · exact mail_canon (canon_same hs)
  · exact mail_canon hs
  · exact mail_canon hs

/-! ### Dispatch -/

theorem exec_canon {i : Instr} {s : State} (hs : s.Canon) : NextCanon (exec i s) := by
  unfold exec
  split
  · exact uniform_canon (fun _ h => h) hs
  · exact uniform_canon (fun _ h => sreg3_canon h) hs
  · exact uniform_canon (fun _ h => sreg3_canon h) hs
  · exact uniform_canon (fun _ h => sreg3_canon h) hs
  · exact uniform_canon (fun _ h => sreg3_canon h) hs
  · exact uniform_canon (fun _ h => sreg3_canon h) hs
  · exact uniform_canon (fun _ h => sreg3_canon h) hs
  · exact uniform_canon (fun _ h => sreg3_canon h) hs
  · exact uniform_canon (fun _ h => sreg3_canon h) hs
  · exact uniform_canon (fun _ h => sreg3_canon h) hs
  · exact uniform_canon (fun _ h => sreg3_canon h) hs
  · exact uniform_canon (fun _ h => sreg3_canon h) hs
  · exact uniform_canon (fun _ h => sreg3_canon h) hs
  · exact uniform_canon (fun _ h => sreg3_canon h) hs
  · exact uniform_canon (fun _ h => sreg3_canon h) hs
  · exact uniform_canon (fun _ h => sreg3_canon h) hs
  · exact uniform_canon (fun _ h => sreg3_canon h) hs
  · exact uniform_canon (fun _ h => sreg3_canon h) hs
  · exact uniform_canon (fun _ h => sreg3_canon h) hs
  · exact uniform_canon (fun _ h => sreg3_canon h) hs
  · exact uniform_canon (fun _ h => sregImm_canon h) hs
  · exact uniform_canon (fun _ h => sregImm_canon h) hs
  · exact uniform_canon (fun _ h => sregImm_canon h) hs
  · exact uniform_canon (fun _ h => sregImm_canon h) hs
  · exact uniform_canon (fun _ h => sregImm_canon h) hs
  · exact uniform_canon (fun _ h => sregImm_canon h) hs
  · exact uniform_canon (fun _ h => sregImm_canon h) hs
  · exact uniform_canon (fun _ h => sregImm_canon h) hs
  · exact uniform_canon (fun _ h => sset_canon h) hs
  · exact uniform_canon (fun _ h => transfer_canon (fun _ h' => h') h) hs
  · exact uniform_canon (fun _ h => transfer_canon (fun _ h' => h') h) hs
  · exact uniform_canon (fun _ h => Keeps.ite (sset_canon h) (transfer_canon (fun _ h' => sset_canon h') h)) hs
  · exact uniform_canon (fun _ h => callBody_canon h) hs
  · exact uniform_canon (fun _ h => callBody_canon h) hs
  · exact uniform_canon (fun _ h => transfer_canon (fun _ h' => h') h) hs
  · exact uniform_canon (fun _ h => retBody_canon h) hs
  · exact uniform_canon (fun _ h => raise_canon h) hs
  · exact uniform_canon (fun _ h => Keeps.ite (raise_canon h) (setMe_canon h)) hs
  · exact uniform_canon (fun _ h => sreg3_canon h) hs
  · exact uniform_canon (fun _ h => sreg3_canon h) hs
  · exact uniform_canon (fun _ h => sreg3_canon h) hs
  · exact uniform_canon (fun _ h => sreg3_canon h) hs
  · exact uniform_canon (fun _ h => sreg3_canon h) hs
  · exact uniform_canon (fun _ h => sreg3_canon h) hs
  · exact uniform_canon (fun _ h => sreg3_canon h) hs
  · exact uniform_canon (fun _ h => sreg3_canon h) hs
  · exact uniform_canon (fun _ h => sreg3_canon h) hs
  · exact uniform_canon (fun _ h => sreg3_canon h) hs
  · exact uniform_canon (fun _ h => sreg3_canon h) hs
  · exact uniform_canon (fun _ h => sreg3_canon h) hs
  · exact uniform_canon (fun _ h => sreg3_canon h) hs
  · exact uniform_canon (fun _ h => sreg3_canon h) hs
  · exact uniform_canon (fun _ h => sreg3_canon h) hs
  · exact uniform_canon (fun _ h => sreg3_canon h) hs
  · exact uniform_canon (fun _ h => sreg3_canon h) hs
  · exact uniform_canon (fun _ h => sreg3_canon h) hs
  · exact uniform_canon (fun _ h => sreg3_canon h) hs
  · exact uniform_canon (fun _ h => sregImm_canon h) hs
  · exact uniform_canon (fun _ h => sregImm_canon h) hs
  · exact uniform_canon (fun _ h => sregImm_canon h) hs
  · exact uniform_canon (fun _ h => sregImm_canon h) hs
  · exact uniform_canon (fun _ h => sregImm_canon h) hs
  · exact uniform_canon (fun _ h => sregImm_canon h) hs
  · exact uniform_canon (fun _ h => sregImm_canon h) hs
  · exact uniform_canon (fun _ h => sregImm_canon h) hs
  · exact uniform_canon (fun _ h => sregImm_canon h) hs
  · exact uniform_canon (fun _ h => sregImm_canon h) hs
  · exact uniform_canon (fun _ h => sregImm_canon h) hs
  · exact uniform_canon (fun _ h => sregImm_canon h) hs
  · exact uniform_canon (fun _ h => sregImm_canon h) hs
  · exact uniform_canon (fun _ h => sset_canon h) hs
  · exact uniformOr_canon (fun _ h => scalarUnc_canon h) (fun _ h' => compareBody_canon h') hs
  · exact uniformOr_canon (fun _ h => scalarUnc_canon h) (fun _ h' => compareBody_canon h') hs
  · exact uniformOr_canon (fun _ h => scalarUnc_canon h) (fun _ h' => compareBody_canon h') hs
  · exact uniformOr_canon (fun _ h => scalarUnc_canon h) (fun _ h' => compareBody_canon h') hs
  · exact uniformOr_canon (fun _ h => scalarUnc_canon h) (fun _ h' => compareBody_canon h') hs
  · exact uniform_canon (fun _ h => floatBody_canon h) hs
  · exact uniform_canon (fun _ h => floatBody_canon h) hs
  · exact uniform_canon (fun _ h => floatBody_canon h) hs
  · exact uniform_canon (fun _ h => floatBody_canon h) hs
  · exact uniform_canon (fun _ h => floatBody_canon h) hs
  · exact uniform_canon (fun _ h => floatBody_canon h) hs
  · exact uniform_canon (fun _ h => codeBody_canon h) hs
  · exact uniform_canon (fun _ h => codeBody_canon h) hs
  · exact uniform_canon (fun _ h => codeBody_canon h) hs
  · exact uniform_canon (fun _ h => codeBody_canon h) hs
  · exact uniform_canon (fun _ h => putFloat_canon h) hs
  · exact uniform_canon (fun _ h => putFloat_canon h) hs
  · exact uniform_canon (fun _ h => setMe_canon h) hs
  · exact uniform_canon (fun _ h => sset_canon h) hs
  · exact uniform_canon (fun _ h => sset_canon h) hs
  · exact uniform_canon (fun _ h => sset_canon h) hs
  · exact uniform_canon (fun _ h => setMe_canon h) hs
  · exact uniform_canon (fun _ h => setMe_canon h) hs
  · exact uniform_canon (fun _ h => sset_canon h) hs
  · exact uniform_canon (fun _ h => Keeps.ite (purity_canon h) (sset_canon h)) hs
  · exact uniform_canon (fun _ h => Keeps.ite (purity_canon h) (Keeps.ite (sysWrite_canon h) (sysWrite_canon h))) hs
  · exact uniform_canon (fun _ h => Keeps.ite (raise_canon h) (Keeps.bind (storeRows_canon h) (fun _ h' => h'))) hs
  · exact execCtxrestore_canon hs
  · exact elementwise_canon hs
  · exact elementwise_canon hs
  · exact elementwise_canon hs
  · unfold execVmulh
    exact elementwise_canon hs
  · unfold execVmin
    exact elementwise_canon hs
  · unfold execVmax
    exact elementwise_canon hs
  · unfold execVabs
    exact elementwise_canon hs
  · unfold execVneg
    exact elementwise_canon hs
  · unfold execVfma
    exact elementwise_canon hs
  · unfold execVdiv
    exact elementwise_canon hs
  · unfold execVrcp
    exact elementwise_canon hs
  · unfold execVrsqrt
    exact elementwise_canon hs
  · unfold execVsqrt
    exact elementwise_canon hs
  · unfold execVexp2
    exact elementwise_canon hs
  · unfold execVlog2
    exact elementwise_canon hs
  · unfold execVshl
    exact elementwise_canon hs
  · unfold execVshr
    exact elementwise_canon hs
  · unfold execVsar
    exact elementwise_canon hs
  · unfold execVand
    exact elementwise_canon hs
  · unfold execVor
    exact elementwise_canon hs
  · unfold execVxor
    exact elementwise_canon hs
  · unfold execVnot
    exact elementwise_canon hs
  · unfold execVmov
    exact elementwise_canon hs
  · exact execVcmp_canon hs
  · unfold execVcvt
    refine perLane_canon ?_ hs
    exact fun _ _ h => vectorBody_canon h
  · unfold execVquant
    refine perLane_canon ?_ hs
    exact fun _ _ h => vectorBody_canon h
  · unfold execVdequant
    refine perLane_canon ?_ hs
    exact fun _ _ h => vectorBody_canon h
  · unfold execVdot4
    refine perLane_canon ?_ hs
    exact fun _ _ h => vectorBody_canon h
  · unfold execVperm
    exact permute_canon hs
  · unfold execVbcast
    exact permute_canon hs
  · unfold execVrot
    exact permute_canon hs
  · unfold execVredsum
    exact reduce_canon hs
  · unfold execVredmin
    exact reduce_canon hs
  · unfold execVredmax
    exact reduce_canon hs
  · unfold execVscan
    refine perLane_canon ?_ hs
    exact fun _ _ h => vectorBody_canon h
  · unfold execVcompress
    refine perLane_canon ?_ hs
    exact fun _ _ h => vectorBody_canon h
  · unfold execVexpand
    refine perLane_canon ?_ hs
    exact fun _ _ h => vectorBody_canon h
  · exact execVget_canon hs
  · exact execVput_canon hs
  · exact runPair_canon hs
  · exact runPair_canon hs
  · exact runPair_canon hs
  · exact runPair_canon hs
  · exact runPair_canon hs
  · exact runPair_canon hs
  · exact runPair_canon hs
  · exact runPair_canon hs
  · exact runPair_canon hs
  · exact runPair_canon hs
  · exact runPair_canon hs
  · exact runPair_canon hs
  · exact runPair_canon hs
  · exact runPair_canon hs
  · exact runPair_canon hs
  · exact runPair_canon hs
  · exact runPair_canon hs
  · exact runPair_canon hs
  · exact runPair_canon hs
  · exact runPair_canon hs
  · exact runPair_canon hs
  · exact runPair_canon hs
  · exact runPair_canon hs
  · exact runPair_canon hs
  · exact runPair_canon hs
  · exact runPair_canon hs
  · exact runPair_canon hs
  · exact runPair_canon hs
  · exact runPair_canon hs
  · exact runPair_canon hs
  · unfold execLdf
    refine perLane_canon ?_ hs
    exact fun _ _ h => loadBody_canon h
  · unfold execLdfg
    refine perLane_canon ?_ hs
    exact fun _ _ h => loadBody_canon h
  · unfold execLdl
    refine perLane_canon ?_ hs
    exact fun _ _ h => loadBody_canon h
  · unfold execLdlg
    refine perLane_canon ?_ hs
    exact fun _ _ h => loadBody_canon h
  · unfold execStl
    refine perLane_canon ?_ hs
    exact fun _ _ h => storeBody_canon h
  · unfold execStls
    refine perLane_canon ?_ hs
    exact fun _ _ h => storeBody_canon h
  · exact execLds_canon hs
  · exact execSts_canon hs
  · exact execStsEos_canon hs
  · exact uniform_canon (fun _ h => sptrBody_canon h) hs
  · exact uniform_canon (fun _ h => sptrBody_canon h) hs
  · exact uniform_canon (fun _ h => sptrBody_canon h) hs
  · unfold execAccAddI32
    refine perLane_canon ?_ hs
    exact fun _ _ h => accBody_canon h
  · unfold execAccAddI64
    refine perLane_canon ?_ hs
    exact fun _ _ h => accBody_canon h
  · unfold execAccAddAf
    refine perLane_canon ?_ hs
    exact fun _ _ h => accBody_canon h
  · unfold execAccMinI32
    refine perLane_canon ?_ hs
    exact fun _ _ h => accBody_canon h
  · unfold execAccMaxI32
    refine perLane_canon ?_ hs
    exact fun _ _ h => accBody_canon h
  · unfold execAccAnd
    refine perLane_canon ?_ hs
    exact fun _ _ h => accBody_canon h
  · unfold execAccOr
    refine perLane_canon ?_ hs
    exact fun _ _ h => accBody_canon h
  · unfold execAccXor
    refine perLane_canon ?_ hs
    exact fun _ _ h => accBody_canon h
  · exact uniform_canon (fun _ h => amoBody_canon h) hs
  · exact uniform_canon (fun _ h => amoBody_canon h) hs
  · exact uniform_canon (fun _ h => amoBody_canon h) hs
  · exact uniform_canon (fun _ h => amoBody_canon h) hs
  · exact uniform_canon (fun _ h => amoBody_canon h) hs
  · exact uniform_canon (fun _ h => amoBody_canon h) hs
  · exact uniform_canon (fun _ h => amoBody_canon h) hs
  · exact uniform_canon (fun _ h => setMe_canon h) hs
  · exact execHview_canon hs
  · exact uniform_canon (fun _ h => sset_canon h) hs
  · exact uniform_canon (fun _ h => h) hs
  · exact uniform_canon (fun _ h => h) hs
  · exact uniform_canon (fun _ h => h) hs
  · exact uniform_canon (fun _ h => h) hs
  · exact uniform_canon (fun _ h => setKore_canon h) hs
  · exact uniform_canon (fun _ h => testBranch_canon h) hs
  · exact uniform_canon (fun _ h => testBranch_canon h) hs
  · exact uniform_canon (fun _ h => testBranch_canon h) hs
  · exact execTokTake_canon hs
  · exact uniform_canon (fun _ h => setKore_canon h) hs
  · exact uniform_canon (fun _ h => copyBody_canon h) hs
  · exact uniform_canon (fun _ h => copyBody_canon h) hs
  · exact uniform_canon (fun _ h => Keeps.ite h h) hs
  · exact uniform_canon (fun _ h => Keeps.bind (pureNever_canon h) (fun _ _ => sset_canon h)) hs
  · exact execCqpop_canon hs
  · exact uniform_canon (fun _ h => leaseBody_canon h) hs
  · exact uniform_canon (fun _ h => leaseBody_canon h) hs
  · exact execUnlease_canon hs
  · exact execMzero_canon hs
  · exact execMma_canon hs
  · exact execMdrain_canon hs
  · exact execMsave_canon hs
  · exact execMrestore_canon hs
  · exact uniform_canon (fun _ h => saccBody_canon h) hs
  · exact uniform_canon (fun _ h => saccBody_canon h) hs
  · exact uniform_canon (fun _ h => saccBody_canon h) hs
  · exact uniform_canon (fun _ h => saccBody_canon h) hs
  · exact uniform_canon (fun _ h => saccBody_canon h) hs
  · exact uniform_canon (fun _ h => saccBody_canon h) hs
  · exact execCbar_canon hs
  · exact uniform_canon (fun _ h => setMe_canon h) hs
  · exact execRgnParties_canon hs
  · exact execRecastArrive_canon hs
  · exact execRecastWait_canon hs
  · exact execLrecPatch_canon hs
  · exact execLrecArm_canon hs
  · exact uniform_canon (fun _ h => Keeps.bind (recOpen_canon h) (fun _ _ => Keeps.ite h (sset_canon h))) hs
  · exact uniform_canon (fun _ h => Keeps.bind (jobOpen_canon h) (fun _ _ => sset_canon h)) hs
  · exact uniform_canon (fun _ h => Keeps.bind (jobOpen_canon h) (fun _ _ => Keeps.ite h h)) hs
  · exact uniform_canon (fun _ h => Keeps.bind (pureNever_canon h) (fun _ _ => setDie_canon h)) hs
  · exact execReshard_canon hs
  · exact execCwait_canon hs
  · unfold execIllegalEncoding
    exact settle_canon (setMe_canon hs)
  · exact execBankReplay_canon hs
  · exact execBandWaitExpiry_canon hs
  · exact execCmdqWaitExpiry_canon hs
  · exact execEngineCommandStart_canon hs
  · exact execCopyRowDelivery_canon hs
  · exact execEngineCompletion_canon hs
  · exact execHeldEntryEnter_canon hs
  · exact execTokTakeExpiry_canon hs
  · exact execCpwaitExpiry_canon hs
  · exact execCqpopExpiry_canon hs
  · exact execMatrixCommandStart_canon hs
  · exact execMatrixCommandComplete_canon hs
  · exact execLeaseGrant_canon hs
  · exact execLeaseCycleExpiry_canon hs
  · exact execMrestoreWaitExpiry_canon hs
  · exact execAccrueEntryPerform_canon hs
  · exact execCbarExpiry_canon hs
  · exact execRecordDispatch_canon hs
  · exact execStitchStart_canon hs
  · exact execStitchRetire_canon hs
  · exact execStitchBudgetExpiry_canon hs
  · exact execPreemptStitch_canon hs
  · exact execStitchResume_canon hs
  · exact execEprioAging_canon hs
  · exact execHomeAccess_canon hs
  · exact execPageMap_canon hs
  · exact execSkeinReplay_canon hs
  · exact fwEvent_canon hs (canon_ite (unmappable_canon hs) hs)
  · exact execCoreThaw_canon hs
  · unfold execLateFreeze
    exact event_canon (canon_ite (setCore_canon (shiftClock_canon hs)) hs)
  · exact execLateExpiry_canon hs
  · exact execRecastFlip_canon hs
  · exact execRecastWaitExpiry_canon hs
  · exact execRingWaitExpiry_canon hs
  · exact execLrecWaitExpiry_canon hs
  · exact execJobWaitExpiry_canon hs
  · exact execCwaitExpiry_canon hs
  · exact execReshardWaitExpiry_canon hs
  · exact execMessageDelivery_canon hs
  · exact event_canon hs
  · exact execTileTransfer_canon hs
  · exact execCollectiveComplete_canon hs
  · exact fwEvent_canon hs (cancelColl_canon hs)
  · exact NextCanon.ite (hostEvent_canon hs (submitMig_canon hs)) (fwEvent_canon hs (submitMig_canon hs))
  · exact execMigrationFlip_canon hs
  · exact hostEvent_canon hs (kick_canon hs)
  · exact execSeqPoll_canon hs
  · exact execStalepktTimeout_canon hs
  · exact hostEvent_canon hs (setRing_canon hs)
  · exact fwEvent_canon hs (setDie_canon hs)
  · exact fwEvent_canon hs (setDie_canon hs)
  · exact hostEvent_canon hs (canon_ite (canon_same hs) (canon_same hs))
  · exact hostEvent_canon hs (canon_ite (canon_same hs) (storeCells_canon hs))
  · exact event_canon (resetState_canon hs)
  · exact event_canon (canon_ite (canon_same hs) hs)
  · exact execTransferPart_canon hs
  · exact execTransferEnd_canon hs
  · exact execTransferAbort_canon hs
  · exact event_canon (canon_ite hs (mail_canon (canon_same (free_canon hs))))
  · exact execImageVerify_canon hs
  · exact execGetAttestation_canon hs
  · exact event_canon (resetState_canon hs)
  · exact event_canon (setDie_canon hs)
  · exact fwEvent_canon hs (writeReg_canon hs)
  · unfold execPortLinkUpChange
    exact event_canon (canon_ite (setDie_canon hs) hs)
  · exact execFirmwareWritesState_canon hs
  · exact fwEvent_canon hs (canon_same hs)
  · exact event_canon (setDie_canon hs)

/-! ### Which agent moves next (log entry 3), and the turn of a strand -/

theorem stopStrand_canon {s : State} {n : Nat} (hs : s.Canon) : (stopStrand s n).Canon :=
  setStrand_canon (abandonUnit_canon (withdrawArrival_canon hs))

theorem runStrand_canon {s : State} {n : Nat} (hs : s.Canon) : NextCanon (runStrand s n) := by
  unfold runStrand
  extract_lets
  refine NextCanon.ite (tick_canon (canon_same hs)) (NextCanon.ite (tick_canon (stopStrand_canon (canon_same hs))) ?_)
  split
  · rename_i e₁
    exact exec_canon (canon_fst (fetchUnit_canon (canon_same hs)) e₁)
  · rename_i e₂
    exact tick_canon (beginWait_canon (canon_fst (fetchUnit_canon (canon_same hs)) e₂))
  · rename_i e₃
    exact tick_canon (beginWait_canon (canon_fst (fetchUnit_canon (canon_same hs)) e₃))
  · rename_i e₄
    exact tick_canon (deliverTrap_canon (canon_fst (fetchUnit_canon (canon_same hs)) e₄))
  · exact trivial
  · rename_i e₅
    exact tick_canon (canon_fst (fetchUnit_canon (canon_same hs)) e₅)

theorem runEvent_canon {s : State} {i : Instr} (hs : s.Canon) : NextCanon (runEvent s i) :=
  NextCanon.ite (exec_canon hs) (tick_canon hs)

theorem runTurn_canon {s : State} {t : Turn} (hs : s.Canon) : NextCanon (runTurn s t) := by
  unfold runTurn
  split
  · exact runStrand_canon hs
  · exact runEvent_canon hs

theorem Auto_run_canon {s : State} {x : Auto} (hs : s.Canon) : NextCanon (Auto.run s x) := by
  unfold Auto.run
  split
  · exact runStrand_canon hs
  · exact execBankReplay_canon hs
  · exact execBandWaitExpiry_canon hs
  · exact execCmdqWaitExpiry_canon hs
  · exact execTokTakeExpiry_canon hs
  · exact execCpwaitExpiry_canon hs
  · exact execCqpopExpiry_canon hs
  · exact execMrestoreWaitExpiry_canon hs
  · exact execCbarExpiry_canon hs
  · exact execRecastWaitExpiry_canon hs
  · exact execRingWaitExpiry_canon hs
  · exact execLrecWaitExpiry_canon hs
  · exact execJobWaitExpiry_canon hs
  · exact execCwaitExpiry_canon hs
  · exact execReshardWaitExpiry_canon hs
  · exact execEngineCommandStart_canon hs
  · exact execCopyRowDelivery_canon hs
  · exact execEngineCompletion_canon hs
  · exact execHeldEntryEnter_canon hs
  · exact execStitchStart_canon hs
  · exact execStitchRetire_canon hs
  · exact execStitchBudgetExpiry_canon hs
  · exact execPreemptStitch_canon hs
  · exact execStitchResume_canon hs
  · exact execLateExpiry_canon hs
  · exact execMatrixCommandStart_canon hs
  · exact execMatrixCommandComplete_canon hs
  · exact execLeaseGrant_canon hs
  · exact execLeaseCycleExpiry_canon hs
  · exact execRecordDispatch_canon hs
  · exact execEprioAging_canon hs
  · exact execAccrueEntryPerform_canon hs
  · exact execHomeAccess_canon hs
  · exact execSkeinReplay_canon hs
  · exact execRecastFlip_canon hs
  · exact execMessageDelivery_canon hs
  · exact execTileTransfer_canon hs
  · exact execCollectiveComplete_canon hs
  · exact execMigrationFlip_canon hs
  · exact execSeqPoll_canon hs
  · exact execStalepktTimeout_canon hs
  · exact execImageVerify_canon hs

theorem runNext_canon {s : State} (hs : s.Canon) : NextCanon (runNext s) := by
  unfold runNext
  split
  · exact Auto_run_canon (free_canon hs)
  · exact tick_canon hs

/-! ### One step of the machine -/

theorem step_canon {s : State} (hs : s.Canon) : NextCanon (step s) := by
  unfold step
  split
  · exact runTurn_canon (canon_same hs)
  · exact runNext_canon hs

end Sys2Proof.Machine
end

section
/-! The conventions: memory and the poison bits in canonical form. -/

namespace Sys2Proof.Machine
open Sys2Proof

/-- Settles O7: every act of the machine and every instruction keeps the canonical form (`step_canon`). -/
theorem stepKeepsForm : Obligations.StepKeepsForm := by
  unfold Obligations.StepKeepsForm
  intro s t hs e
  exact (step_canon hs).of_next e

/-- Settles O8: memory and the poison bits of the reset state are empty tables. -/
theorem resetForm : Obligations.ResetForm := reset_canon

end Sys2Proof.Machine
end

section
/-! The conventions: firmware's registers (O59). -/

namespace Sys2Proof.Machine
open Sys2Proof

/-- A machine whose table of dies holds an entry equal to the default: no step leaves such a table, but `FirmwareActs` asks nothing
of the table. -/
def strayDie : State := { State.reset with boot := { State.reset.boot with state := .running }, dies := [(0, {})] }

/-- A write to HSQERR with bit 63 clear changes nothing (R333). -/
theorem writeReg_hsqerr_clear (s : State) (d : Nat) : writeReg s d 0x3300 0 = s := rfl

theorem strayDie_dies_setDie : (strayDie.setDie 0 (strayDie.die 0)).dies = [] := by
  have h : strayDie.die 0 = {} := rfl
  rw [h]
  show tset {} [(0, ({} : Die))] 0 {} = []
  rw [tset, if_pos rfl]
  rfl

/-- Refutes O59: HSQERR of ring 0 written with bit 63 clear changes nothing, and the statement asks for the die written back over
itself, which drops an entry equal to the default from the table of dies. The two machines differ at `strayDie`. -/
theorem not_firmwareActs : ¬ Obligations.FirmwareActs := by
  unfold Obligations.FirmwareActs
  intro h
  obtain ⟨-, -, hrings, -⟩ := h strayDie 0 0 0 0 0 0 0 false rfl
  obtain ⟨-, herr⟩ := hrings (by decide)
  have hstep : exec (.fwRegisterWrite 0 0x3300 0) strayDie = .next (writeReg strayDie 0 0x3300 0).tick := rfl
  rw [writeReg_hsqerr_clear] at hstep
  have hs : strayDie.tick = (strayDie.setDie 0 (strayDie.die 0)).tick := Host.Outcome.next.inj (hstep.symm.trans herr)
  have hdies : strayDie.tick.dies = (strayDie.setDie 0 (strayDie.die 0)).tick.dies := congrArg State.dies hs
  have hcons : strayDie.tick.dies = [(0, {})] := rfl
  have hnil : (strayDie.setDie 0 (strayDie.die 0)).tick.dies = [] := strayDie_dies_setDie
  rw [hcons, hnil] at hdies
  cases hdies

end Sys2Proof.Machine
end

section
/-! SUPPORT. Magnitudes m * 2^e as rationals, and rounding to an integer (R21, R25, R27). -/

namespace Sys2Proof.Machine
open Sys2Proof

/-! ### Magnitudes m * 2^e -/

/-- The magnitude m * 2^e (R21). -/
def dyad (m : Nat) (e : Int) : Rat := (m : Rat) * (2 : Rat) ^ e

theorem two_zpow_pos (e : Int) : (0 : Rat) < 2 ^ e := zpow_pos (by norm_num) e

@[simp] theorem dyad_zero (e : Int) : dyad 0 e = 0 := by simp [dyad]

theorem dyad_nonneg (m : Nat) (e : Int) : 0 ≤ dyad m e := mul_nonneg (Nat.cast_nonneg m) (two_zpow_pos e).le

theorem dyad_pos {m : Nat} (e : Int) (h : 0 < m) : 0 < dyad m e := mul_pos (by exact_mod_cast h) (two_zpow_pos e)

theorem dyad_one (e : Int) : dyad 1 e = 2 ^ e := by simp [dyad]

theorem dyad_mul_zpow (m : Nat) (e k : Int) : dyad m e * 2 ^ k = dyad m (e + k) := by
  rw [dyad, dyad, mul_assoc, zpow_add₀ two_ne_zero]

theorem dyad_shift (m k : Nat) (e : Int) : dyad (m * 2 ^ k) e = dyad m (e + k) := by
  rw [← dyad_mul_zpow, dyad, dyad]
  push_cast
  rw [zpow_natCast]
  ring

/-- A magnitude written with a smaller exponent. -/
theorem dyad_rescale (m : Nat) {e q : Int} (h : q ≤ e) : dyad m e = dyad (m * 2 ^ (e - q).toNat) q := by
  rw [dyad_shift, Int.toNat_of_nonneg (by omega), add_sub_cancel]

theorem dyad_lt_dyad {a b : Nat} {e : Int} : dyad a e < dyad b e ↔ a < b := by
  rw [dyad, dyad, mul_lt_mul_iff_left₀ (two_zpow_pos e)]
  exact Nat.cast_lt

theorem dyad_le_dyad {a b : Nat} {e : Int} : dyad a e ≤ dyad b e ↔ a ≤ b := by
  rw [← not_lt, dyad_lt_dyad, not_lt]

theorem dyLt_iff (a : Nat) (ea : Int) (b : Nat) (eb : Int) : dyLt a ea b eb = true ↔ dyad a ea < dyad b eb := by
  unfold dyLt
  split
  · next h => rw [decide_eq_true_iff, dyad_rescale b h, dyad_lt_dyad]
  · next h => rw [decide_eq_true_iff, dyad_rescale a (by omega : eb ≤ ea), dyad_lt_dyad]

theorem two_zpow_le_dyad {m : Nat} (e : Int) (h : m ≠ 0) : (2 : Rat) ^ (Nat.log2 m + e) ≤ dyad m e := by
  rw [← dyad_one, add_comm, ← dyad_shift, dyad_le_dyad, one_mul]
  exact Nat.log2_self_le h

theorem dyad_lt_two_zpow (m : Nat) (e : Int) : dyad m e < (2 : Rat) ^ (Nat.log2 m + e + 1) := by
  rw [← dyad_one, show (Nat.log2 m : Int) + e + 1 = e + (Nat.log2 m + 1 : Nat) by push_cast; ring, ← dyad_shift, dyad_lt_dyad,
    one_mul]
  exact Nat.lt_log2_self

/-! ### The number of a finite value, and distances -/

theorem gap_eq_abs (x y : Rat) : gap x y = |x - y| := by
  unfold gap
  split
  · next h => rw [abs_of_nonpos (by linarith), neg_sub]
  · next h => rw [abs_of_nonneg (by linarith)]

theorem gap_zero (x : Rat) : gap 0 x = |x| := by rw [gap_eq_abs, zero_sub, abs_neg]

/-- The sign of a value as a factor. -/
def signFactor (neg : Bool) : Rat := if neg then -1 else 1

theorem rat_fin (neg : Bool) (m : Nat) (e : Int) : (FVal.fin neg m e).rat = signFactor neg * dyad m e := by
  rw [FVal.rat, dyad, signFactor, mul_assoc]

theorem abs_signFactor (neg : Bool) : |signFactor neg| = 1 := by cases neg <;> simp [signFactor]

theorem abs_rat_fin (neg : Bool) (m : Nat) (e : Int) : |(FVal.fin neg m e).rat| = dyad m e := by
  rw [rat_fin, abs_mul, abs_signFactor, one_mul, abs_of_nonneg (dyad_nonneg m e)]

/-! ### Rounding to an integer -/

/-- Whether a magnitude n + x, 0 < x < 1, goes up to n + 1 (R25, R27). -/
def ups (mode : RMode) (neg : Bool) (draw n : Nat) (x : Rat) : Bool :=
  match mode with
  | .rne => decide (1 / 2 < x) || (decide (x = 1 / 2) && n % 2 == 1)
  | .rtz => false
  | .rdn => neg
  | .rup => !neg
  | .rna => decide (1 / 2 ≤ x)
  | .rsr => decide ((draw : Int) < (x * 65536).floor)

/-- The integer that a magnitude is rounded to. -/
def roundRat (mode : RMode) (neg : Bool) (draw : Nat) (t : Rat) : Nat :=
  if t = ⌊t⌋₊ then ⌊t⌋₊ else if ups mode neg draw ⌊t⌋₊ (t - ⌊t⌋₊) then ⌊t⌋₊ + 1 else ⌊t⌋₊

theorem natCast_lt_floor (n : Nat) (x : Rat) : (n : Int) < x.floor ↔ (n : Rat) + 1 ≤ x := by
  rw [show x.floor = ⌊x⌋ from rfl, ← Int.add_one_le_iff, Int.le_floor]
  push_cast
  rfl

theorem roundsUp_eq (mode : RMode) (neg : Bool) (draw n rem s : Nat) :
    roundsUp mode neg draw n rem s = ups mode neg draw n ((rem : Rat) / 2 ^ s) := by
  have hs : (0 : Rat) < 2 ^ s := by positivity
  have hlt : (1 / 2 < (rem : Rat) / 2 ^ s) ↔ 2 ^ s < 2 * rem := by
    rw [lt_div_iff₀ hs, ← Nat.cast_lt (α := Rat)]
    push_cast
    constructor <;> intro h <;> linarith
  have heq : ((rem : Rat) / 2 ^ s = 1 / 2) ↔ 2 * rem = 2 ^ s := by
    rw [div_eq_iff hs.ne', ← Nat.cast_inj (R := Rat)]
    push_cast
    constructor <;> intro h <;> linarith
  have hle : (1 / 2 ≤ (rem : Rat) / 2 ^ s) ↔ 2 ^ s ≤ 2 * rem := by
    rw [le_div_iff₀ hs, ← Nat.cast_le (α := Rat)]
    push_cast
    constructor <;> intro h <;> linarith
  have hrsr : (draw : Int) < ((rem : Rat) / 2 ^ s * 65536).floor ↔ draw < rem * 65536 / 2 ^ s := by
    rw [natCast_lt_floor, Nat.lt_iff_add_one_le, Nat.le_div_iff_mul_le (by positivity), div_mul_eq_mul_div, le_div_iff₀ hs,
      ← Nat.cast_le (α := Rat)]
    push_cast
    rfl
  cases mode with
  | rne => simp only [roundsUp, ups, hlt, heq]
  | rtz => rfl
  | rdn => rfl
  | rup => rfl
  | rna => simp only [roundsUp, ups, hle]
  | rsr => simp only [roundsUp, ups, hrsr]

/-- `roundAt` is rounding of the magnitude in units of 2^q. -/
theorem roundAt_eq (mode : RMode) (neg : Bool) (draw m : Nat) (e q : Int) :
    roundAt mode neg draw m e q =
      (roundRat mode neg draw (dyad m (e - q)), decide (dyad m (e - q) ≠ (⌊dyad m (e - q)⌋₊ : Rat))) := by
  unfold roundAt
  split
  case isTrue h =>
    have ht : dyad m (e - q) = ((m * 2 ^ (e - q).toNat : Nat) : Rat) := by
      rw [dyad_rescale m (by omega : (0 : Int) ≤ e - q), dyad, zpow_zero, mul_one, sub_zero]
    rw [ht, roundRat, Nat.floor_natCast, if_pos rfl]
    simp
  case isFalse h =>
    obtain ⟨s, hs⟩ : ∃ s : Nat, q - e = s := ⟨(q - e).toNat, by omega⟩
    have hpow : (0 : Rat) < 2 ^ s := by positivity
    have ht : dyad m (e - q) = (m : Rat) / ((2 ^ s : Nat) : Rat) := by
      rw [dyad, show e - q = -(s : Int) by omega, zpow_neg, zpow_natCast, Nat.cast_pow, Nat.cast_ofNat, div_eq_mul_inv]
    have hfloor : ⌊dyad m (e - q)⌋₊ = m / 2 ^ s := by rw [ht, Nat.floor_div_eq_div]
    have hfrac : dyad m (e - q) - ((m / 2 ^ s : Nat) : Rat) = ((m % 2 ^ s : Nat) : Rat) / 2 ^ s := by
      rw [ht, eq_div_iff hpow.ne', sub_mul, Nat.cast_pow, Nat.cast_ofNat, div_mul_cancel₀ _ hpow.ne', sub_eq_iff_eq_add]
      have := Nat.mod_add_div' m (2 ^ s)
      exact_mod_cast this.symm
    have hzero : dyad m (e - q) = ((m / 2 ^ s : Nat) : Rat) ↔ m % 2 ^ s = 0 := by
      rw [← sub_eq_zero, hfrac, div_eq_zero_iff, or_iff_left hpow.ne', Nat.cast_eq_zero]
    simp only [hs, Int.toNat_natCast, roundRat, hfloor, hfrac, hzero, roundsUp_eq]
    split
    · next h0 => simp [hzero.mpr h0]
    · next h0 => simp [mt hzero.mp h0]

end Sys2Proof.Machine
end

section
/-! SUPPORT. The magnitudes of a float format in the order of its codes (R19, R21). -/

namespace Sys2Proof.Machine
open Sys2Proof

/-! ### The magnitudes of a float format, in the order of its codes -/

/-- The value of code c of sign `neg`: `mb` mantissa bits, least normal exponent `emin` (R21). -/
def codeVal (mb : Nat) (emin : Int) (neg : Bool) (c : Nat) : FVal :=
  if c < 2 ^ mb then .fin neg c (emin - mb) else .fin neg (c % 2 ^ mb + 2 ^ mb) (((c / 2 ^ mb : Nat) : Int) - 1 + (emin - mb))

/-- Its magnitude. -/
def codeMag (mb : Nat) (emin : Int) (c : Nat) : Rat :=
  if c < 2 ^ mb then dyad c (emin - mb) else dyad (c % 2 ^ mb + 2 ^ mb) (((c / 2 ^ mb : Nat) : Int) - 1 + (emin - mb))

section
variable {mb : Nat} {emin : Int}

theorem codeVal_rat (neg : Bool) (c : Nat) : (codeVal mb emin neg c).rat = signFactor neg * codeMag mb emin c := by
  unfold codeVal codeMag
  split
  · exact rat_fin ..
  · exact rat_fin ..

theorem codeVal_finite (neg : Bool) (c : Nat) : (codeVal mb emin neg c).finite = true := by
  unfold codeVal
  split <;> rfl

theorem codeVal_sign (neg : Bool) (c : Nat) : (codeVal mb emin neg c).sign = neg := by
  unfold codeVal
  split <;> rfl

theorem codeMag_sub {c : Nat} (h : c < 2 ^ mb) : codeMag mb emin c = dyad c (emin - mb) := if_pos h

/-- A code with exponent field E + 1 and mantissa field M. -/
theorem codeMag_norm {E M : Nat} (h : M < 2 ^ mb) :
    codeMag mb emin ((E + 1) * 2 ^ mb + M) = dyad (M + 2 ^ mb) (E + (emin - mb)) := by
  have hpos : 0 < 2 ^ mb := by positivity
  have hdiv : ((E + 1) * 2 ^ mb + M) / 2 ^ mb = E + 1 := by
    rw [add_comm, Nat.add_mul_div_right _ _ hpos, Nat.div_eq_of_lt h, zero_add]
  have hmod : ((E + 1) * 2 ^ mb + M) % 2 ^ mb = M := by rw [add_comm, Nat.add_mul_mod_self_right, Nat.mod_eq_of_lt h]
  have hge : ¬ (E + 1) * 2 ^ mb + M < 2 ^ mb := by
    rw [add_one_mul]
    omega
  rw [codeMag, if_neg hge, hdiv, hmod]
  congr 1
  push_cast
  ring

/-- Every code is subnormal or has an exponent field. -/
theorem code_cases (mb c : Nat) : c < 2 ^ mb ∨ ∃ E M, M < 2 ^ mb ∧ c = (E + 1) * 2 ^ mb + M := by
  rcases Nat.lt_or_ge c (2 ^ mb) with h | h
  · exact .inl h
  · refine .inr ⟨c / 2 ^ mb - 1, c % 2 ^ mb, Nat.mod_lt _ (by positivity), ?_⟩
    rw [Nat.sub_add_cancel ((Nat.one_le_div_iff (by positivity)).mpr h), mul_comm, Nat.div_add_mod]

/-- The step from a code to the next, in units of its exponent. -/
theorem codeMag_succ (c : Nat) : codeMag mb emin c < codeMag mb emin (c + 1) := by
  rcases code_cases mb c with h | ⟨E, M, hM, rfl⟩
  · rw [codeMag_sub h]
    rcases Nat.lt_or_ge (c + 1) (2 ^ mb) with h1 | h1
    · rw [codeMag_sub h1, dyad_lt_dyad]
      omega
    · have he : c + 1 = (0 + 1) * 2 ^ mb + 0 := by omega
      rw [he, codeMag_norm (by positivity), Nat.cast_zero, zero_add, zero_add, dyad_lt_dyad]
      exact h
  · rw [codeMag_norm hM]
    rcases Nat.lt_or_ge (M + 1) (2 ^ mb) with h1 | h1
    · rw [add_assoc, codeMag_norm h1, dyad_lt_dyad]
      omega
    · have he : (E + 1) * 2 ^ mb + M + 1 = ((E + 1) + 1) * 2 ^ mb + 0 := by
        have : M + 1 = 2 ^ mb := by omega
        rw [add_one_mul (E + 1)]
        omega
      rw [he, codeMag_norm (by positivity), zero_add, dyad_rescale (2 ^ mb) (by push_cast; omega : (E : Int) + (emin - mb) ≤ _),
        dyad_lt_dyad]
      have : ((((E + 1 : Nat) : Int) + (emin - mb)) - ((E : Int) + (emin - mb))).toNat = 1 := by omega
      rw [this]
      omega

theorem codeMag_strictMono : StrictMono (codeMag mb emin) := strictMono_nat_of_lt_succ codeMag_succ

@[simp] theorem codeMag_zero : codeMag mb emin 0 = 0 := by
  rw [codeMag_sub (by positivity), dyad_zero]

/-- The least normal value. -/
theorem codeMag_two_pow (mb : Nat) : codeMag mb emin (2 ^ mb) = 2 ^ emin := by
  have h := codeMag_norm (mb := mb) (emin := emin) (E := 0) (M := 0) (by positivity)
  rw [zero_add, one_mul, add_zero, zero_add, Nat.cast_zero, zero_add] at h
  rw [h, ← one_mul (2 ^ mb), dyad_shift, dyad_one, sub_add_cancel]

theorem codeMag_nonneg (c : Nat) : 0 ≤ codeMag mb emin c := by
  rw [← codeMag_zero (mb := mb) (emin := emin), codeMag_strictMono.le_iff_le]
  exact Nat.zero_le c

/-- The code that `roundFin` forms of n multiples of 2^q. -/
def codeOf (mb : Nat) (emin : Int) (n : Nat) (q : Int) : Nat :=
  if n < 2 ^ mb then n
  else if n < 2 ^ (mb + 1) then (q + mb - emin + 1).toNat * 2 ^ mb + (n - 2 ^ mb)
  else (q + mb - emin + 2).toNat * 2 ^ mb

/-- n multiples of 2^q are a number of the format's precision. -/
def Fits (mb : Nat) (emin : Int) (n : Nat) (q : Int) : Prop :=
  n ≤ 2 ^ (mb + 1) ∧ emin - mb ≤ q ∧ (2 ^ mb ≤ n ∨ q = emin - mb)

theorem codeMag_codeOf {n : Nat} {q : Int} (h : Fits mb emin n q) : codeMag mb emin (codeOf mb emin n q) = dyad n q := by
  obtain ⟨hn, hq, hlow⟩ := h
  obtain ⟨E, hE⟩ : ∃ E : Nat, q = E + (emin - mb) := ⟨(q - (emin - mb)).toNat, by omega⟩
  have hE1 : (q + mb - emin + 1).toNat = E + 1 := by omega
  have hE2 : (q + mb - emin + 2).toNat = E + 1 + 1 := by omega
  unfold codeOf
  split
  · next hlt =>
    rw [codeMag_sub hlt, hlow.resolve_left (by omega)]
  · next hge =>
    rw [pow_succ] at hn
    split
    · next hlt =>
      rw [pow_succ] at hlt
      rw [hE1, codeMag_norm (by omega), Nat.sub_add_cancel (by omega), hE]
    · next hge2 =>
      rw [pow_succ] at hge2
      rw [hE2, ← add_zero ((E + 1 + 1) * 2 ^ mb), codeMag_norm (by positivity), zero_add, hE, show n = 2 ^ mb * 2 ^ 1 by omega, dyad_shift]
      congr 1
      push_cast
      ring

theorem codeOf_succ {n : Nat} {q : Int} (hn : n < 2 ^ (mb + 1)) (hq : emin - mb ≤ q) (hlow : 2 ^ mb ≤ n ∨ q = emin - mb) :
    codeOf mb emin (n + 1) q = codeOf mb emin n q + 1 := by
  obtain ⟨E, hE⟩ : ∃ E : Nat, q = E + (emin - mb) := ⟨(q - (emin - mb)).toNat, by omega⟩
  have hE1 : (q + mb - emin + 1).toNat = E + 1 := by omega
  have hE2 : (q + mb - emin + 2).toNat = E + 1 + 1 := by omega
  have hpow : 2 ^ (mb + 1) = 2 * 2 ^ mb := by rw [pow_succ, mul_comm]
  have hmul : (E + 1 + 1) * 2 ^ mb = (E + 1) * 2 ^ mb + 2 ^ mb := add_one_mul ..
  have hpos : 0 < 2 ^ mb := by positivity
  unfold codeOf
  rw [hE1, hE2]
  rcases lt_trichotomy (n + 1) (2 ^ mb) with h | h | h
  · rw [if_pos h, if_pos (by omega)]
  · have hE0 : E = 0 := by omega
    rw [if_neg (by omega), if_pos (by omega), if_pos (by omega), hE0]
    omega
  · rw [if_neg (by omega), if_neg (by omega : ¬ n < 2 ^ mb), if_pos hn]
    split
    · omega
    · omega

theorem codeOf_mod_two {n : Nat} {q : Int} (hmb : 1 ≤ mb) (hn : n ≤ 2 ^ (mb + 1)) : codeOf mb emin n q % 2 = n % 2 := by
  obtain ⟨k, rfl⟩ : ∃ k, mb = k + 1 := ⟨mb - 1, by omega⟩
  have hpow (x : Nat) : x * 2 ^ (k + 1) % 2 = 0 := by rw [pow_succ, ← mul_assoc, Nat.mul_mod_left]
  have h2 : 2 ^ (k + 1) % 2 = 0 := by rw [pow_succ, Nat.mul_mod_left]
  unfold codeOf
  split
  · rfl
  · split
    · have := hpow (q + (k + 1 : Nat) - emin + 1).toNat
      omega
    · have := hpow (q + (k + 1 : Nat) - emin + 2).toNat
      have h3 : 2 ^ (k + 1 + 1) = 2 * 2 ^ (k + 1) := by rw [pow_succ, mul_comm]
      omega
end

end Sys2Proof.Machine
end

section
/-! SUPPORT. What the codes of a float format stand for (R19, R21, R22). -/

namespace Sys2Proof.Machine
open Sys2Proof

/-! ### The codes of a float format -/

/-- Exponent bits of a float format (R19). -/
def fmtEb (f : Fmt) : Nat := (fmtShape f).1
/-- Mantissa bits. -/
def fmtMb (f : Fmt) : Nat := (fmtShape f).2.1
/-- The exponent of the least normal value. -/
def fmtEmin (f : Fmt) : Int := 1 - ((fmtShape f).2.2 : Int)

theorem floatFmt_cases {f : Fmt} (hf : isFloatFmt f = true) :
    f = .fp32 ∨ f = .fp16 ∨ f = .bf16 ∨ f = .e4m3 ∨ f = .e5m2 ∨ f = .e3m2 ∨ f = .e2m3 ∨ f = .e2m1 := by
  revert hf
  cases f <;> decide

theorem fmtMb_pos {f : Fmt} (hf : isFloatFmt f = true) : 1 ≤ fmtMb f := by
  rcases floatFmt_cases hf with rfl | rfl | rfl | rfl | rfl | rfl | rfl | rfl <;> decide

theorem codeBits_float {f : Fmt} (hf : isFloatFmt f = true) : codeBits f = fmtEb f + fmtMb f + 1 := by
  rcases floatFmt_cases hf with rfl | rfl | rfl | rfl | rfl | rfl | rfl | rfl <;> rfl

theorem isIntFmt_float {f : Fmt} (hf : isFloatFmt f = true) : isIntFmt f = false := by
  rcases floatFmt_cases hf with rfl | rfl | rfl | rfl | rfl | rfl | rfl | rfl <;> rfl

theorem ne_e8m0_of_float {f : Fmt} (hf : isFloatFmt f = true) : f ≠ .e8m0 := by
  rintro rfl
  exact absurd hf (by decide)

theorem maxCode_lt {f : Fmt} (hf : isFloatFmt f = true) : maxCode f < 2 ^ (fmtEb f + fmtMb f) := by
  rcases floatFmt_cases hf with rfl | rfl | rfl | rfl | rfl | rfl | rfl | rfl <;> decide

/-- The codes of sign 0 up to the largest finite value are those that are neither reserved nor special. -/
theorem le_maxCode_iff {f : Fmt} (hf : isFloatFmt f = true) {c : Nat} (hc : c < 2 ^ (fmtEb f + fmtMb f)) :
    c ≤ maxCode f ↔ ¬ (f = .e4m3 ∧ c % 128 = 127) ∧ ¬ (hasSpecial f = true ∧ c / 2 ^ fmtMb f = 2 ^ fmtEb f - 1) := by
  rcases floatFmt_cases hf with rfl | rfl | rfl | rfl | rfl | rfl | rfl | rfl <;>
  · simp [fmtEb, fmtMb, fmtShape, maxCode, hasSpecial] at hc ⊢
    omega

theorem signBit_float {f : Fmt} (hf : isFloatFmt f = true) (neg : Bool) : signBit f neg = b2n neg * 2 ^ (fmtEb f + fmtMb f) := by
  rw [signBit, codeBits_float hf, Nat.add_sub_cancel]
  cases neg <;> simp [b2n]

/-- What a code stands for, by its sign bit and the bits below it. -/
theorem decodeFmt_float {f : Fmt} (hf : isFloatFmt f = true) (neg : Bool) {c : Nat} (hc : c < 2 ^ (fmtEb f + fmtMb f)) (k : Nat) :
    (decodeFmt f (c + signBit f neg + k * 2 ^ codeBits f)).1 =
      if c ≤ maxCode f then codeVal (fmtMb f) (fmtEmin f) neg c
      else if f ≠ .e4m3 ∧ c % 2 ^ fmtMb f = 0 then .inf neg else .nan neg := by
  have hsplit : 2 ^ (fmtEb f + fmtMb f) = 2 ^ fmtEb f * 2 ^ fmtMb f := pow_add ..
  have hpow : 2 ^ codeBits f = 2 * 2 ^ (fmtEb f + fmtMb f) := by rw [codeBits_float hf, pow_succ, mul_comm]
  have hb : b2n neg ≤ 1 := by cases neg <;> decide
  have hlt : c + signBit f neg < 2 ^ codeBits f := by
    rw [hpow, signBit_float hf]
    cases neg
    · simp [b2n]
      omega
    · simp [b2n]
      omega
  have hx : (c + signBit f neg + k * 2 ^ codeBits f) % 2 ^ codeBits f = c + signBit f neg := by
    rw [Nat.add_mul_mod_self_right, Nat.mod_eq_of_lt hlt]
  have hneg : bit (c + signBit f neg) (codeBits f - 1) = neg := by
    rw [bit, codeBits_float hf, Nat.add_sub_cancel, signBit_float hf, Nat.add_mul_div_right _ _ (by positivity),
      Nat.div_eq_of_lt hc, zero_add]
    cases neg <;> rfl
  have he : bits (c + signBit f neg) (fmtMb f) (fmtEb f) = c / 2 ^ fmtMb f := by
    rw [bits, signBit_float hf, hsplit, ← mul_assoc, Nat.add_mul_div_right _ _ (by positivity), Nat.add_mul_mod_self_right,
      Nat.mod_eq_of_lt (by rw [Nat.div_lt_iff_lt_mul (by positivity), ← hsplit]; exact hc)]
  have hm : bits (c + signBit f neg) 0 (fmtMb f) = c % 2 ^ fmtMb f := by
    rw [bits, pow_zero, Nat.div_one, signBit_float hf, hsplit, ← mul_assoc, Nat.add_mul_mod_self_right]
  have h128 : f = .e4m3 → (c + signBit f neg) % 128 = c % 128 := by
    rintro rfl
    rw [signBit_float hf]
    exact Nat.add_mul_mod_self_right ..
  have hsub : c / 2 ^ fmtMb f = 0 ↔ c < 2 ^ fmtMb f := Nat.div_eq_zero_iff_lt (by positivity)
  have hmax := le_maxCode_iff hf hc
  have hexp (E : Int) : E - ((fmtShape f).2.2 : Int) - fmtMb f = E - 1 + (fmtEmin f - fmtMb f) := by
    rw [fmtEmin]
    ring
  unfold decodeFmt
  rw [isIntFmt_float hf, if_neg (by decide), if_neg (ne_e8m0_of_float hf)]
  simp only [hx]
  change (if f = .e4m3 ∧ (c + signBit f neg) % 128 = 127 then (FVal.nan (bit (c + signBit f neg) (codeBits f - 1)), true)
    else if hasSpecial f = true ∧ bits (c + signBit f neg) (fmtMb f) (fmtEb f) = 2 ^ fmtEb f - 1 then
      (if bits (c + signBit f neg) 0 (fmtMb f) = 0 then .inf (bit (c + signBit f neg) (codeBits f - 1))
        else .nan (bit (c + signBit f neg) (codeBits f - 1)), false)
    else if bits (c + signBit f neg) (fmtMb f) (fmtEb f) = 0 then
      (.fin (bit (c + signBit f neg) (codeBits f - 1)) (bits (c + signBit f neg) 0 (fmtMb f)) (fmtEmin f - fmtMb f), false)
    else (.fin (bit (c + signBit f neg) (codeBits f - 1)) (bits (c + signBit f neg) 0 (fmtMb f) + 2 ^ fmtMb f)
      ((bits (c + signBit f neg) (fmtMb f) (fmtEb f) : Int) - ((fmtShape f).2.2 : Int) - fmtMb f), false)).1 = _
  rw [hneg, he, hm, hexp]
  by_cases h4 : f = .e4m3 ∧ c % 128 = 127
  · rw [if_pos ⟨h4.1, (h128 h4.1).trans h4.2⟩, if_neg (fun h => (hmax.mp h).1 h4), if_neg (fun h => h.1 h4.1)]
  rw [if_neg (fun h => h4 ⟨h.1, (h128 h.1).symm.trans h.2⟩)]
  by_cases hspec : hasSpecial f = true ∧ c / 2 ^ fmtMb f = 2 ^ fmtEb f - 1
  · have hne : f ≠ .e4m3 := by
      rintro rfl
      exact absurd hspec.1 (by decide)
    rw [if_pos hspec, if_neg (fun h => (hmax.mp h).2 hspec)]
    simp only [hne, ne_eq, not_false_eq_true, true_and]
  · rw [if_neg hspec, if_pos (hmax.mpr ⟨h4, hspec⟩), codeVal]
    by_cases h : c < 2 ^ fmtMb f
    · rw [if_pos h, if_pos (hsub.mpr h), Nat.mod_eq_of_lt h]
    · rw [if_neg h, if_neg (mt hsub.mp h)]

/-- A code up to that of the largest finite value, under either sign, stands for a finite value. -/
theorem decodeFmt_signBit {f : Fmt} (hf : isFloatFmt f = true) (neg : Bool) {c : Nat} (hc : c ≤ maxCode f) :
    (decodeFmt f (c + signBit f neg)).1 = codeVal (fmtMb f) (fmtEmin f) neg c := by
  have h := decodeFmt_float hf neg (hc.trans_lt (maxCode_lt hf)) 0
  rwa [zero_mul, add_zero, if_pos hc] at h

theorem decodeFmt_code {f : Fmt} (hf : isFloatFmt f = true) {c : Nat} (hc : c ≤ maxCode f) :
    (decodeFmt f c).1 = codeVal (fmtMb f) (fmtEmin f) false c := by
  simpa [signBit] using decodeFmt_signBit hf false hc

/-- Every code is a sign, bits below it, and bits above the format's. -/
theorem exists_signBit {f : Fmt} (hf : isFloatFmt f = true) (w : Nat) :
    ∃ neg c k, c < 2 ^ (fmtEb f + fmtMb f) ∧ w = c + signBit f neg + k * 2 ^ codeBits f := by
  have hpow : 2 ^ codeBits f = 2 ^ (fmtEb f + fmtMb f) * 2 := by rw [codeBits_float hf, pow_succ]
  refine ⟨decide (w / 2 ^ (fmtEb f + fmtMb f) % 2 = 1), w % 2 ^ (fmtEb f + fmtMb f), w / 2 ^ codeBits f,
    Nat.mod_lt _ (by positivity), ?_⟩
  rw [signBit_float hf, hpow, ← Nat.div_div_eq_div_mul]
  generalize hP : 2 ^ (fmtEb f + fmtMb f) = P
  have h1 := Nat.mod_add_div' w P
  have h2 := Nat.mod_add_div' (w / P) 2
  rcases Nat.mod_two_eq_zero_or_one (w / P) with h | h
  · rw [h] at h2 ⊢
    simp only [b2n, decide_false, zero_ne_one, Bool.false_eq_true, if_false]
    nlinarith
  · rw [h] at h2 ⊢
    simp only [b2n, decide_true, if_true]
    nlinarith

theorem decodeFmt_finite {f : Fmt} (hf : isFloatFmt f = true) {w : Nat} (h : (decodeFmt f w).1.finite = true) :
    ∃ neg c, c ≤ maxCode f ∧ (decodeFmt f w).1 = codeVal (fmtMb f) (fmtEmin f) neg c := by
  obtain ⟨neg, c, k, hc, rfl⟩ := exists_signBit hf w
  rw [decodeFmt_float hf neg hc] at h ⊢
  by_cases hmax : c ≤ maxCode f
  · exact ⟨neg, c, hmax, if_pos hmax⟩
  · rw [if_neg hmax] at h
    split at h <;> cases h

/-- The code of an infinity. -/
theorem decodeFmt_infCode {f : Fmt} (hf : isFloatFmt f = true) (hs : hasSpecial f = true) (neg : Bool) :
    (decodeFmt f (infCode f neg)).1 = .inf neg := by
  revert hs
  rcases floatFmt_cases hf with rfl | rfl | rfl | rfl | rfl | rfl | rfl | rfl <;> cases neg <;> decide

end Sys2Proof.Machine
end

section
/-! SUPPORT. Rounding to a float format picks one of two neighbouring codes (R25-R30). -/

namespace Sys2Proof.Machine
open Sys2Proof

/-! ### Rounding a magnitude to a float format -/

/-- The exponent of the last place of a magnitude m * 2^e in a format. -/
def lastPlace (mb : Nat) (emin : Int) (m : Nat) (e : Int) : Int :=
  (if (Nat.log2 m : Int) + e < emin then emin else (Nat.log2 m : Int) + e) - mb

/-- Where a magnitude lies between a code and the next: 0 at the code, 1 at the next. -/
def codeFrac (mb : Nat) (emin : Int) (x : Rat) (c : Nat) : Rat :=
  (x - codeMag mb emin c) / (codeMag mb emin (c + 1) - codeMag mb emin c)

/-- Whether a magnitude from code c up to the next is rounded to the next. -/
def stepsUp (mb : Nat) (emin : Int) (mode : RMode) (neg : Bool) (draw : Nat) (x : Rat) (c : Nat) : Bool :=
  decide (codeMag mb emin c ≠ x) && ups mode neg draw c (codeFrac mb emin x c)

theorem ups_congr {mode : RMode} {neg : Bool} {draw n k : Nat} {x : Rat} (h : n % 2 = k % 2) :
    ups mode neg draw n x = ups mode neg draw k x := by
  cases mode <;> simp only [ups, h]

theorem dyad_sub_eq_div (m : Nat) (e q : Int) : dyad m (e - q) = dyad m e / 2 ^ q := by
  rw [div_eq_mul_inv, ← zpow_neg, dyad_mul_zpow, ← sub_eq_add_neg]

section
variable {mb : Nat} {emin : Int} {m : Nat} {e : Int}

theorem emin_le_lastPlace : emin - mb ≤ lastPlace mb emin m e := by
  unfold lastPlace
  split <;> omega

/-- In units of its last place a magnitude has at most mb + 1 bits before the point, and just as many when it is normal. -/
theorem floor_lastPlace (hm : m ≠ 0) :
    ⌊dyad m (e - lastPlace mb emin m e)⌋₊ < 2 ^ (mb + 1) ∧
      (2 ^ mb ≤ ⌊dyad m (e - lastPlace mb emin m e)⌋₊ ∨ lastPlace mb emin m e = emin - mb) := by
  have hlt : dyad m (e - lastPlace mb emin m e) < ((2 ^ (mb + 1) : Nat) : Rat) := by
    refine (dyad_lt_two_zpow m _).trans_le ?_
    push_cast
    rw [← zpow_natCast]
    refine zpow_le_zpow_right₀ one_le_two ?_
    unfold lastPlace
    push_cast
    split <;> omega
  refine ⟨(Nat.floor_lt (dyad_nonneg _ _)).mpr hlt, ?_⟩
  by_cases hbig : (Nat.log2 m : Int) + e < emin
  · exact .inr (by rw [lastPlace, if_pos hbig])
  · refine .inl (Nat.le_floor ?_)
    refine le_trans ?_ (two_zpow_le_dyad _ hm)
    push_cast
    rw [← zpow_natCast]
    refine zpow_le_zpow_right₀ one_le_two ?_
    rw [lastPlace, if_neg hbig]
    omega

/-- A magnitude t * 2^q in units of its last place: the code below it, and the code that its rounding in those units forms. -/
theorem codeOf_roundRat (hmb : 1 ≤ mb) {t : Rat} {q : Int} (ht : 0 ≤ t) (hk : ⌊t⌋₊ < 2 ^ (mb + 1)) (hq : emin - mb ≤ q)
    (hlow : 2 ^ mb ≤ ⌊t⌋₊ ∨ q = emin - mb) :
    let c := codeOf mb emin ⌊t⌋₊ q
    let x := t * 2 ^ q
    codeMag mb emin c ≤ x ∧ x < codeMag mb emin (c + 1) ∧ (codeMag mb emin c ≠ x ↔ t ≠ ⌊t⌋₊) ∧
      ∀ mode neg draw,
        codeOf mb emin (roundRat mode neg draw t) q = c + b2n (stepsUp mb emin mode neg draw x c) ∧
          Fits mb emin (roundRat mode neg draw t) q := by
  intro c x
  have hpos := two_zpow_pos q
  have hfits : Fits mb emin ⌊t⌋₊ q := ⟨hk.le, hq, hlow⟩
  have hfits1 : Fits mb emin (⌊t⌋₊ + 1) q := ⟨hk, hq, hlow.imp_left (fun h => h.trans (Nat.le_succ _))⟩
  have hc : codeMag mb emin c = ⌊t⌋₊ * 2 ^ q := codeMag_codeOf hfits
  have hc1 : codeMag mb emin (c + 1) = (⌊t⌋₊ + 1) * 2 ^ q := by
    rw [← codeOf_succ hk hq hlow, codeMag_codeOf hfits1, dyad, Nat.cast_add_one]
  have hfrac : codeFrac mb emin x c = t - ⌊t⌋₊ := by
    rw [codeFrac, hc, hc1, ← sub_mul, ← sub_mul, mul_div_mul_right _ _ hpos.ne', add_sub_cancel_left, div_one]
  have hne : codeMag mb emin c ≠ x ↔ t ≠ ⌊t⌋₊ := by
    rw [hc, ne_eq, mul_left_inj' hpos.ne', eq_comm]
  refine ⟨?_, ?_, hne, fun mode neg draw => ?_⟩
  · rw [hc]
    exact mul_le_mul_of_nonneg_right (Nat.floor_le ht) hpos.le
  · rw [hc1]
    exact mul_lt_mul_of_pos_right (Nat.lt_floor_add_one t) hpos
  · rw [stepsUp, hfrac, ups_congr (codeOf_mod_two hmb hk.le), decide_eq_decide.mpr hne, roundRat]
    by_cases h : t = ⌊t⌋₊
    · rw [if_pos h, decide_eq_false (not_not.mpr h)]
      exact ⟨rfl, hfits⟩
    · rw [if_neg h, decide_eq_true h, Bool.true_and]
      split
      · next hu =>
        rw [hu]
        exact ⟨codeOf_succ hk hq hlow, hfits1⟩
      · next hu =>
        rw [Bool.eq_false_iff.mpr hu]
        exact ⟨rfl, hfits⟩

/-- A magnitude that is not 0 lies between a code and the next, and `roundAt` rounds it to one of the two. -/
theorem exists_floorCode (hmb : 1 ≤ mb) (hm : m ≠ 0) :
    ∃ c, codeMag mb emin c ≤ dyad m e ∧ dyad m e < codeMag mb emin (c + 1) ∧
      ∀ (mode : RMode) (neg : Bool) (draw : Nat),
        let r := roundAt mode neg draw m e (lastPlace mb emin m e)
        r.2 = decide (codeMag mb emin c ≠ dyad m e) ∧
          codeOf mb emin r.1 (lastPlace mb emin m e) = c + b2n (stepsUp mb emin mode neg draw (dyad m e) c) ∧
          dyad r.1 (lastPlace mb emin m e) = codeMag mb emin (c + b2n (stepsUp mb emin mode neg draw (dyad m e) c)) := by
  obtain ⟨hk, hlow⟩ := floor_lastPlace (mb := mb) (emin := emin) (e := e) hm
  have hx : dyad m (e - lastPlace mb emin m e) * 2 ^ lastPlace mb emin m e = dyad m e := by
    rw [dyad_mul_zpow, sub_add_cancel]
  obtain ⟨hle, hlt, hne, hround⟩ := codeOf_roundRat hmb (dyad_nonneg _ _) hk emin_le_lastPlace hlow
  rw [hx] at hle hlt hne hround
  refine ⟨_, hle, hlt, fun mode neg draw => ?_⟩
  obtain ⟨hcode, hfits⟩ := hround mode neg draw
  rw [roundAt_eq, ← hcode, codeMag_codeOf hfits]
  exact ⟨decide_eq_decide.mpr hne.symm, rfl, rfl⟩
end

/-- Whether a magnitude exceeds a finite value's. -/
def exceeds (v : FVal) (m : Nat) (e : Int) : Bool :=
  match v with
  | .fin _ mm me => dyLt mm me m e
  | _ => false

theorem exceeds_codeVal (mb : Nat) (emin : Int) (neg : Bool) (c m : Nat) (e : Int) :
    exceeds (codeVal mb emin neg c) m e = decide (codeMag mb emin c < dyad m e) := by
  unfold codeVal codeMag
  split
  · rw [Bool.eq_iff_iff, decide_eq_true_iff]
    exact dyLt_iff ..
  · rw [Bool.eq_iff_iff, decide_eq_true_iff]
    exact dyLt_iff ..

/-- The formats whose subnormal results `.ftz` flushes (R30). -/
def flushes (f : Fmt) : Bool := f == .fp32 || f == .fp16 || f == .bf16

/-- The mode that rounds a magnitude: beyond the largest finite one RSR is RNE (R26, R27). -/
def modeOf (f : Fmt) (c : RCtx) (x : Rat) : RMode :=
  if c.mode = .rsr ∧ codeMag (fmtMb f) (fmtEmin f) (maxCode f) < x then .rne else c.mode

/-- Whether an inexact result is below the least normal value when rounded with exponents unbounded (R29). -/
def staysTiny (f : Fmt) (mode : RMode) (neg : Bool) (draw m : Nat) (e : Int) : Bool :=
  decide ((Nat.log2 m : Int) + e < fmtEmin f) &&
    dyLt (roundAt mode neg draw m e ((Nat.log2 m : Int) + e - fmtMb f)).1 ((Nat.log2 m : Int) + e - fmtMb f) 1 (fmtEmin f)

/-- `roundFin` by the names above. -/
theorem roundFin_def (f : Fmt) (c : RCtx) (neg : Bool) (m : Nat) (e : Int) :
    roundFin f c neg m e =
      let mode := if c.mode = .rsr ∧ exceeds (decodeFmt f (maxCode f)).1 m e = true then RMode.rne else c.mode
      let q := lastPlace (fmtMb f) (fmtEmin f) m e
      let r := roundAt mode neg c.draw m e q
      if exceeds (decodeFmt f (maxCode f)).1 r.1 q = true then ⟨overflowCode f mode c.sat neg, { ov := true, nx := true }, false⟩
      else if (c.ftz && flushes f && decide (0 < r.1) && dyLt r.1 q 1 (fmtEmin f)) = true then
        ⟨signBit f neg, { uf := true, nx := true }, false⟩
      else ⟨codeOf (fmtMb f) (fmtEmin f) r.1 q + signBit f neg, { uf := r.2 && staysTiny f mode neg c.draw m e, nx := r.2 }, false⟩ := by
  have h1 (q : Int) : q + fmtMb f + (fmtShape f).2.2 = q + fmtMb f - fmtEmin f + 1 := by
    rw [fmtEmin]
    ring
  have h2 (q : Int) : q + fmtMb f + (fmtShape f).2.2 + 1 = q + fmtMb f - fmtEmin f + 2 := by
    rw [fmtEmin]
    ring
  simp only [codeOf, ← h1, ← h2, staysTiny, ← Bool.and_assoc]
  rfl

/-- Rounding to a float format picks the code below a magnitude or the next one. -/
theorem roundFin_eq {f : Fmt} (hf : isFloatFmt f = true) {m : Nat} (e : Int) (hm : m ≠ 0) :
    ∃ k, codeMag (fmtMb f) (fmtEmin f) k ≤ dyad m e ∧ dyad m e < codeMag (fmtMb f) (fmtEmin f) (k + 1) ∧
      ∀ (c : RCtx) (neg : Bool),
        let mode := modeOf f c (dyad m e)
        let n := k + b2n (stepsUp (fmtMb f) (fmtEmin f) mode neg c.draw (dyad m e) k)
        let inexact := decide (codeMag (fmtMb f) (fmtEmin f) k ≠ dyad m e)
        roundFin f c neg m e =
          if maxCode f < n then ⟨overflowCode f mode c.sat neg, { ov := true, nx := true }, false⟩
          else if c.ftz = true ∧ flushes f = true ∧ 0 < n ∧ n < 2 ^ fmtMb f then ⟨signBit f neg, { uf := true, nx := true }, false⟩
          else ⟨n + signBit f neg, { uf := inexact && staysTiny f mode neg c.draw m e, nx := inexact }, false⟩ := by
  obtain ⟨k, hle, hlt, hround⟩ := exists_floorCode (emin := fmtEmin f) (e := e) (fmtMb_pos hf) hm
  refine ⟨k, hle, hlt, fun c neg => ?_⟩
  have htop : (decodeFmt f (maxCode f)).1 = _ := decodeFmt_code hf le_rfl
  have hex (n : Nat) (q : Int) : exceeds (decodeFmt f (maxCode f)).1 n q = decide (codeMag (fmtMb f) (fmtEmin f) (maxCode f) < dyad n q) := by
    rw [htop, exceeds_codeVal]
  have hmode : (if c.mode = .rsr ∧ exceeds (decodeFmt f (maxCode f)).1 m e = true then RMode.rne else c.mode) = modeOf f c (dyad m e) := by
    simp only [hex, decide_eq_true_eq, modeOf]
  obtain ⟨hnx, hcode, hmag⟩ := hround (modeOf f c (dyad m e)) neg c.draw
  rw [roundFin_def, hmode]
  simp only [hex, hnx]
  generalize roundAt (modeOf f c (dyad m e)) neg c.draw m e (lastPlace (fmtMb f) (fmtEmin f) m e) = r at *
  generalize lastPlace (fmtMb f) (fmtEmin f) m e = q at *
  have hbeyond : codeMag (fmtMb f) (fmtEmin f) (maxCode f) < dyad r.1 q ↔
      maxCode f < k + b2n (stepsUp (fmtMb f) (fmtEmin f) (modeOf f c (dyad m e)) neg c.draw (dyad m e) k) := by
    rw [hmag, codeMag_strictMono.lt_iff_lt]
  have hsub : dyLt r.1 q 1 (fmtEmin f) = true ↔
      k + b2n (stepsUp (fmtMb f) (fmtEmin f) (modeOf f c (dyad m e)) neg c.draw (dyad m e) k) < 2 ^ fmtMb f := by
    rw [dyLt_iff, dyad_one, ← codeMag_two_pow (fmtMb f), hmag, codeMag_strictMono.lt_iff_lt]
  have hpos : 0 < r.1 ↔ 0 < k + b2n (stepsUp (fmtMb f) (fmtEmin f) (modeOf f c (dyad m e)) neg c.draw (dyad m e) k) := by
    rw [← dyad_lt_dyad (e := q), hmag, dyad_zero, ← codeMag_zero (mb := fmtMb f) (emin := fmtEmin f), codeMag_strictMono.lt_iff_lt]
  simp only [hbeyond, hcode, hpos, hsub, decide_eq_true_eq, Bool.and_eq_true, and_assoc]

end Sys2Proof.Machine
end

section
/-! SUPPORT. What each rounding mode picks of two neighbours (R25, R27). -/

namespace Sys2Proof.Machine
open Sys2Proof

/-! ### The numbers of a float format and the two around a value -/

/-- A number of a float format. -/
def IsNumber (f : Fmt) (x : Rat) : Prop := ∃ n, (decodeFmt f n).1.finite = true ∧ (decodeFmt f n).1.rat = x

theorem isNumber_iff {f : Fmt} (hf : isFloatFmt f = true) (x : Rat) :
    IsNumber f x ↔ ∃ neg c, c ≤ maxCode f ∧ x = signFactor neg * codeMag (fmtMb f) (fmtEmin f) c := by
  constructor
  · rintro ⟨n, hfin, rfl⟩
    obtain ⟨neg, c, hc, h⟩ := decodeFmt_finite hf hfin
    exact ⟨neg, c, hc, by rw [h, codeVal_rat]⟩
  · rintro ⟨neg, c, hc, rfl⟩
    refine ⟨c + signBit f neg, ?_⟩
    rw [decodeFmt_signBit hf neg hc]
    exact ⟨codeVal_finite neg c, codeVal_rat neg c⟩

theorem signFactor_cases (neg : Bool) : signFactor neg = 1 ∨ signFactor neg = -1 := by cases neg <;> simp [signFactor]

theorem signFactor_mul_inj {neg : Bool} {a b : Rat} : signFactor neg * a = signFactor neg * b ↔ a = b :=
  mul_right_inj' (by rcases signFactor_cases neg with h | h <;> rw [h] <;> norm_num)

/-- Values of one sign are as far apart as their magnitudes. -/
theorem abs_signFactor_sub (neg : Bool) (a b : Rat) : |signFactor neg * a - signFactor neg * b| = |a - b| := by
  rw [← mul_sub, abs_mul, abs_signFactor, one_mul]

/-- Values of different signs are as far apart as the sum of their magnitudes. -/
theorem abs_signFactor_sub_of_ne {s t : Bool} (h : s ≠ t) {a b : Rat} (ha : 0 ≤ a) (hb : 0 ≤ b) :
    |signFactor s * a - signFactor t * b| = a + b := by
  obtain rfl : t = !s := by cases s <;> cases t <;> simp_all
  cases s
  · simp only [signFactor, Bool.not_false, if_true, Bool.false_eq_true, if_false]
    rw [abs_of_nonneg (by linarith)]
    ring
  · simp only [signFactor, Bool.not_true, if_true, Bool.false_eq_true, if_false]
    rw [abs_of_nonpos (by linarith)]
    ring

theorem abs_signFactor_mul (neg : Bool) {a : Rat} (ha : 0 ≤ a) : |signFactor neg * a| = a := by
  rw [abs_mul, abs_signFactor, one_mul, abs_of_nonneg ha]

/-- The magnitude that a value between two neighbours lo and hi is rounded to. -/
def pickBetween (mode : RMode) (neg : Bool) (draw k : Nat) (lo hi x : Rat) : Rat :=
  if lo ≠ x ∧ ups mode neg draw k ((x - lo) / (hi - lo)) = true then hi else lo

theorem pickBetween_exact (mode : RMode) (neg : Bool) (draw k : Nat) (lo hi : Rat) :
    pickBetween mode neg draw k lo hi lo = lo := if_neg (fun h => h.1 rfl)

theorem pickBetween_ne {mode : RMode} {neg : Bool} {draw k : Nat} {lo hi x : Rat} (h : lo ≠ x) (hlt : x < hi) :
    pickBetween mode neg draw k lo hi x ≠ x := by
  unfold pickBetween
  split
  · exact hlt.ne'
  · exact h

/-- Directed rounding toward zero, as RTZ does, RDN of a positive value and RUP of a negative one. -/
theorem pickBetween_toward {mode : RMode} {neg : Bool} {draw k : Nat} (lo hi x : Rat)
    (hup : ∀ y, ups mode neg draw k y = false) :
    pickBetween mode neg draw k lo hi x = lo := by
  rw [pickBetween, hup, if_neg (fun h => Bool.false_ne_true h.2)]
section
variable {lo hi x : Rat} (h0 : 0 ≤ lo) (hle : lo ≤ x) (hlt : x < hi) (neg : Bool) (draw k : Nat)
include hle hlt

/-- No magnitude with none strictly between lo and hi is nearer to x than the nearer of the two. -/
theorem min_le_abs_sub {y : Rat} (hy : y ≤ lo ∨ hi ≤ y) : min (x - lo) (hi - x) ≤ |y - x| := by
  rcases hy with hy | hy
  · exact (min_le_left _ _).trans (by rw [abs_of_nonpos (by linarith)]; linarith)
  · exact (min_le_right _ _).trans (by rw [abs_of_nonneg (by linarith)]; linarith)

/-- Rounding to nearest. -/
theorem pickBetween_nearest {mode : RMode} (hmode : mode = .rne ∨ mode = .rna) :
    |pickBetween mode neg draw k lo hi x - x| = min (x - lo) (hi - x) := by
  have hD : 0 < hi - lo := by linarith
  unfold pickBetween
  have hup : ∀ {b : Bool}, (b = true → hi - lo ≤ 2 * (x - lo)) → (b = false → 2 * (x - lo) ≤ hi - lo) →
      |(if lo ≠ x ∧ b = true then hi else lo) - x| = min (x - lo) (hi - x) := by
    intro b hb1 hb0
    split
    · next h => rw [abs_of_nonneg (by linarith), min_eq_right (by linarith [hb1 h.2])]
    · next h =>
      rw [abs_of_nonpos (by linarith), neg_sub, min_eq_left]
      rcases not_and_or.mp h with h | h
      · rw [not_not] at h
        linarith
      · linarith [hb0 (Bool.eq_false_iff.mpr h)]
  refine hup (fun h => ?_) (fun h => ?_)
  · have h2 : 1 / 2 ≤ (x - lo) / (hi - lo) := by
      rcases hmode with rfl | rfl
      · simp only [ups, Bool.or_eq_true, decide_eq_true_eq, Bool.and_eq_true] at h
        rcases h with h | h
        · exact h.le
        · exact h.1.ge
      · simpa only [ups, decide_eq_true_eq] using h
    rw [le_div_iff₀ hD] at h2
    linarith
  · have h2 : (x - lo) / (hi - lo) ≤ 1 / 2 := by
      rcases hmode with rfl | rfl
      · simp only [ups, Bool.or_eq_false_iff, decide_eq_false_iff_not, not_lt] at h
        exact h.1
      · simp only [ups, decide_eq_false_iff_not, not_le] at h
        exact h.le
    rw [div_le_iff₀ hD] at h2
    linarith

/-- Directed rounding away from zero, as RDN does of a negative value and RUP of a positive one. -/
theorem pickBetween_away {mode : RMode} (hup : ∀ y, ups mode neg draw k y = true) :
    x ≤ pickBetween mode neg draw k lo hi x ∧
      ∀ y, (y ≤ lo ∨ hi ≤ y) → x ≤ y → pickBetween mode neg draw k lo hi x ≤ y := by
  unfold pickBetween
  rw [hup]
  split
  · next h => exact ⟨hlt.le, fun y hy hxy => hy.resolve_left (fun hc => h.1 (by linarith))⟩
  · next h =>
    have : lo = x := by simpa using h
    exact ⟨this.ge, fun y _ hxy => by linarith⟩

include h0

/-- A signed value with its magnitude outside of lo and hi is no nearer than the nearer of the two. -/
theorem min_le_abs_signFactor_sub {t : Bool} {y : Rat} (hy0 : 0 ≤ y) (hy : y ≤ lo ∨ hi ≤ y) :
    min (x - lo) (hi - x) ≤ |signFactor t * y - signFactor neg * x| := by
  by_cases h : t = neg
  · rw [h, abs_signFactor_sub]
    exact min_le_abs_sub hle hlt hy
  · rw [abs_signFactor_sub_of_ne h hy0 (h0.trans hle)]
    exact (min_le_left _ _).trans (by linarith)

/-- One that is as near as the nearer of the two is lo or hi with the value's sign, or 0. -/
theorem eq_of_abs_signFactor_sub {t : Bool} {y : Rat} (hy0 : 0 ≤ y) (hy : y ≤ lo ∨ hi ≤ y)
    (h : |signFactor t * y - signFactor neg * x| = min (x - lo) (hi - x)) :
    signFactor t * y = signFactor neg * y ∧ (y = lo ∧ x - lo ≤ hi - x ∨ y = hi ∧ hi - x ≤ x - lo) := by
  by_cases ht : t = neg
  · subst ht
    refine ⟨rfl, ?_⟩
    rw [abs_signFactor_sub] at h
    rcases hy with hy | hy
    · rw [abs_of_nonpos (by linarith)] at h
      have h1 := min_le_left (x - lo) (hi - x)
      have h2 := min_le_right (x - lo) (hi - x)
      exact .inl ⟨by linarith, by linarith⟩
    · rw [abs_of_nonneg (by linarith)] at h
      have h1 := min_le_left (x - lo) (hi - x)
      have h2 := min_le_right (x - lo) (hi - x)
      exact .inr ⟨by linarith, by linarith⟩
  · rw [abs_signFactor_sub_of_ne ht hy0 (h0.trans hle)] at h
    have h1 := min_le_left (x - lo) (hi - x)
    have h2 := min_le_right (x - lo) (hi - x)
    have hy00 : y = 0 := by linarith
    subst hy00
    exact ⟨by rw [mul_zero, mul_zero], .inl ⟨by linarith, by linarith⟩⟩

/-- On a tie to nearest even the code that is taken is even, and away from zero the larger is taken. -/
theorem pickBetween_tie {t : Bool} {y : Rat} {mode : RMode} (hmode : mode = .rne ∨ mode = .rna) (hy0 : 0 ≤ y) (hy : y ≤ lo ∨ hi ≤ y)
    (hne : signFactor t * y ≠ signFactor neg * pickBetween mode neg draw k lo hi x)
    (h : |signFactor t * y - signFactor neg * x| = |signFactor neg * pickBetween mode neg draw k lo hi x - signFactor neg * x|) :
    lo ≠ x ∧ (x - lo) / (hi - lo) = 1 / 2 ∧ y ≤ hi := by
  have hD : 0 < hi - lo := by linarith
  have hnear := pickBetween_nearest hle hlt neg draw k hmode
  rw [abs_signFactor_sub, hnear] at h
  obtain ⟨hsame, hcase⟩ := eq_of_abs_signFactor_sub h0 hle hlt neg hy0 hy h
  have hyw : y ≠ pickBetween mode neg draw k lo hi x := fun hc => hne (by rw [hsame, hc])
  have hw : pickBetween mode neg draw k lo hi x = lo ∨ pickBetween mode neg draw k lo hi x = hi := by
    unfold pickBetween
    split
    · exact .inr rfl
    · exact .inl rfl
  have htie : x - lo = hi - x ∧ y ≤ hi := by
    rcases hcase with ⟨rfl, hc⟩ | ⟨rfl, hc⟩
    · rw [hw.resolve_left (Ne.symm hyw), abs_of_nonneg (by linarith), min_eq_left hc] at hnear
      exact ⟨hnear.symm, by linarith⟩
    · rw [hw.resolve_right (Ne.symm hyw), abs_of_nonpos (by linarith), min_eq_right hc] at hnear
      exact ⟨by linarith, le_rfl⟩
  refine ⟨?_, ?_, htie.2⟩
  · rintro rfl
    linarith [htie.1]
  · rw [div_eq_iff hD.ne']
    linarith [htie.1]
end

/-- A signed number whose magnitude is not strictly between lo and hi. -/
def Outside (lo hi y : Rat) : Prop := ∃ t a, y = signFactor t * a ∧ 0 ≤ a ∧ (a ≤ lo ∨ hi ≤ a)

theorem signFactor_true (a : Rat) : signFactor true * a = -a := by simp [signFactor]

theorem signFactor_false (a : Rat) : signFactor false * a = a := by simp [signFactor]

section
variable {lo hi x : Rat} (h0 : 0 ≤ lo) (hle : lo ≤ x) (hlt : x < hi) (neg : Bool) (draw k : Nat)
include h0 hle hlt

theorem rounded_rdn :
    signFactor neg * pickBetween .rdn neg draw k lo hi x ≤ signFactor neg * x ∧
      ∀ y, Outside lo hi y → y ≤ signFactor neg * x → y ≤ signFactor neg * pickBetween .rdn neg draw k lo hi x := by
  cases neg with
  | true =>
    obtain ⟨hx, hnext⟩ := pickBetween_away hle hlt true draw k (mode := .rdn) (fun _ => rfl)
    rw [signFactor_true, signFactor_true]
    refine ⟨neg_le_neg hx, ?_⟩
    rintro y ⟨t, a, rfl, ha, hout⟩ hy
    cases t with
    | true =>
      rw [signFactor_true] at hy ⊢
      linarith [hnext a hout (by linarith)]
    | false =>
      rw [signFactor_false] at hy ⊢
      linarith [hnext a hout (by linarith)]
  | false =>
    rw [pickBetween_toward lo hi x (mode := .rdn) (fun _ => rfl), signFactor_false, signFactor_false]
    refine ⟨hle, ?_⟩
    rintro y ⟨t, a, rfl, ha, hout⟩ hy
    cases t with
    | true => rw [signFactor_true]; linarith
    | false =>
      rw [signFactor_false] at hy ⊢
      exact hout.resolve_right (by linarith)

theorem rounded_rup :
    signFactor neg * x ≤ signFactor neg * pickBetween .rup neg draw k lo hi x ∧
      ∀ y, Outside lo hi y → signFactor neg * x ≤ y → signFactor neg * pickBetween .rup neg draw k lo hi x ≤ y := by
  cases neg with
  | false =>
    obtain ⟨hx, hnext⟩ := pickBetween_away hle hlt false draw k (mode := .rup) (fun _ => rfl)
    rw [signFactor_false, signFactor_false]
    refine ⟨hx, ?_⟩
    rintro y ⟨t, a, rfl, ha, hout⟩ hy
    cases t with
    | true =>
      rw [signFactor_true] at hy ⊢
      linarith [hnext a hout (by linarith)]
    | false =>
      rw [signFactor_false] at hy ⊢
      linarith [hnext a hout (by linarith)]
  | true =>
    rw [pickBetween_toward lo hi x (mode := .rup) (fun _ => rfl), signFactor_true, signFactor_true]
    refine ⟨neg_le_neg hle, ?_⟩
    rintro y ⟨t, a, rfl, ha, hout⟩ hy
    cases t with
    | false => rw [signFactor_false]; linarith
    | true =>
      rw [signFactor_true] at hy ⊢
      have := hout.resolve_right (by linarith)
      linarith

theorem rounded_rtz :
    |signFactor neg * pickBetween .rtz neg draw k lo hi x| ≤ x ∧
      ∀ y, Outside lo hi y → |y| ≤ x →
        |signFactor neg * pickBetween .rtz neg draw k lo hi x - signFactor neg * x| ≤ |y - signFactor neg * x| := by
  rw [pickBetween_toward lo hi x (mode := .rtz) (fun _ => rfl), abs_signFactor_mul neg h0, abs_signFactor_sub,
    abs_of_nonpos (by linarith)]
  refine ⟨hle, ?_⟩
  rintro y ⟨t, a, rfl, ha, hout⟩ hy
  rw [abs_signFactor_mul t ha] at hy
  have halo := hout.resolve_right (by linarith)
  by_cases ht : t = neg
  · rw [ht, abs_signFactor_sub, abs_of_nonpos (by linarith)]
    linarith
  · rw [abs_signFactor_sub_of_ne ht ha (h0.trans hle)]
    linarith

theorem rounded_nearest {mode : RMode} (hmode : mode = .rne ∨ mode = .rna) {y : Rat} (hy : Outside lo hi y) :
    |signFactor neg * pickBetween mode neg draw k lo hi x - signFactor neg * x| ≤ |y - signFactor neg * x| := by
  obtain ⟨t, a, rfl, ha, hout⟩ := hy
  rw [abs_signFactor_sub, pickBetween_nearest hle hlt neg draw k hmode]
  exact min_le_abs_signFactor_sub h0 hle hlt neg ha hout

/-- A second nearest number: the value is midway between its neighbours. -/
theorem rounded_tie {mode : RMode} (hmode : mode = .rne ∨ mode = .rna) {y : Rat} (hy : Outside lo hi y)
    (hne : y ≠ signFactor neg * pickBetween mode neg draw k lo hi x)
    (h : |y - signFactor neg * x| = |signFactor neg * pickBetween mode neg draw k lo hi x - signFactor neg * x|) :
    lo ≠ x ∧ (x - lo) / (hi - lo) = 1 / 2 ∧ |y| ≤ hi := by
  obtain ⟨t, a, rfl, ha, hout⟩ := hy
  rw [abs_signFactor_mul t ha]
  exact pickBetween_tie h0 hle hlt neg draw k hmode ha hout hne h
end

/-- On a tie RNA takes the larger magnitude. -/
theorem pickBetween_rna_tie {lo hi x : Rat} (hne : lo ≠ x) (htie : (x - lo) / (hi - lo) = 1 / 2) (neg : Bool) (draw k : Nat) :
    pickBetween .rna neg draw k lo hi x = hi := by
  rw [pickBetween, htie, if_pos ⟨hne, by simp [ups]⟩]

theorem pickBetween_rsr {lo hi x : Rat} (hne : lo ≠ x) (neg : Bool) (draw k : Nat) :
    pickBetween .rsr neg draw k lo hi x = if (draw : Int) < ((x - lo) / (hi - lo) * 65536).floor then hi else lo := by
  simp only [pickBetween, ups, decide_eq_true_eq, ne_eq, hne, not_false_eq_true, true_and]

end Sys2Proof.Machine
end

section
/-! SUPPORT. The code a finite value is rounded to. -/

namespace Sys2Proof.Machine
open Sys2Proof

/-! ### Rounding to a float format -/

/-- The magnitude code that a value between code k and the next is rounded to. -/
def pickCode (f : Fmt) (mode : RMode) (neg : Bool) (draw : Nat) (x : Rat) (k : Nat) : Nat :=
  k + b2n (stepsUp (fmtMb f) (fmtEmin f) mode neg draw x k)

theorem codeMag_pickCode (f : Fmt) (mode : RMode) (neg : Bool) (draw : Nat) (x : Rat) (k : Nat) :
    codeMag (fmtMb f) (fmtEmin f) (pickCode f mode neg draw x k) =
      pickBetween mode neg draw k (codeMag (fmtMb f) (fmtEmin f) k) (codeMag (fmtMb f) (fmtEmin f) (k + 1)) x := by
  rw [pickCode, pickBetween, stepsUp, codeFrac]
  split
  · next h => rw [decide_eq_true h.1, h.2]; rfl
  · next h =>
    rw [not_and_or, Bool.not_eq_true, not_not] at h
    rcases h with h | h
    · rw [decide_eq_false (not_not.mpr h)]; rfl
    · rw [h, Bool.and_false]; rfl

theorem pickCode_mod_two {f : Fmt} {neg : Bool} {draw : Nat} {x : Rat} {k : Nat}
    (hne : codeMag (fmtMb f) (fmtEmin f) k ≠ x) (htie : codeFrac (fmtMb f) (fmtEmin f) x k = 1 / 2) :
    pickCode f .rne neg draw x k % 2 = 0 := by
  rw [pickCode, stepsUp, htie, decide_eq_true hne]
  rcases Nat.mod_two_eq_zero_or_one k with h | h
  · simp [ups, h, b2n]
  · simp [ups, h, b2n]
    omega

theorem le_pickCode (f : Fmt) (mode : RMode) (neg : Bool) (draw : Nat) (x : Rat) (k : Nat) : k ≤ pickCode f mode neg draw x k :=
  Nat.le_add_right ..

theorem pickCode_le (f : Fmt) (mode : RMode) (neg : Bool) (draw : Nat) (x : Rat) (k : Nat) : pickCode f mode neg draw x k ≤ k + 1 := by
  rw [pickCode]
  cases stepsUp (fmtMb f) (fmtEmin f) mode neg draw x k <;> simp [b2n]

theorem fin_of_finite {v : FVal} (h : v.finite = true) : ∃ neg m e, v = .fin neg m e := by
  cases v with
  | fin neg m e => exact ⟨neg, m, e, rfl⟩
  | nan _ => cases h
  | inf _ => cases h

/-- Rounding of a finite value to a float format: the code below its magnitude, and what is made of it. -/
theorem roundFloat_eq {f : Fmt} (hf : isFloatFmt f = true) (neg : Bool) (m : Nat) (e : Int) :
    ∃ k, codeMag (fmtMb f) (fmtEmin f) k ≤ dyad m e ∧ dyad m e < codeMag (fmtMb f) (fmtEmin f) (k + 1) ∧
      ∀ c : RCtx,
        let mode := modeOf f c (dyad m e)
        let n := pickCode f mode neg c.draw (dyad m e) k
        let inexact := decide (codeMag (fmtMb f) (fmtEmin f) k ≠ dyad m e)
        roundFloat f c (.fin neg m e) =
          if maxCode f < n then ⟨overflowCode f mode c.sat neg, { ov := true, nx := true }, false⟩
          else if c.ftz = true ∧ flushes f = true ∧ 0 < n ∧ n < 2 ^ fmtMb f then ⟨signBit f neg, { uf := true, nx := true }, false⟩
          else ⟨n + signBit f neg, { uf := inexact && staysTiny f mode neg c.draw m e, nx := inexact }, false⟩ := by
  by_cases hm : m = 0
  · subst hm
    refine ⟨0, by rw [codeMag_zero, dyad_zero], by rw [dyad_zero, ← codeMag_zero]; exact codeMag_succ 0, fun c => ?_⟩
    rw [dyad_zero]
    have h0 (mode : RMode) : pickCode f mode neg c.draw 0 0 = 0 := by simp [pickCode, stepsUp, b2n]
    simp [h0, roundFloat]
  · obtain ⟨k, hle, hlt, h⟩ := roundFin_eq hf e hm
    refine ⟨k, hle, hlt, fun c => ?_⟩
    rw [show roundFloat f c (.fin neg m e) = roundFin f c neg m e from if_neg hm]
    exact h c neg

end Sys2Proof.Machine
end

section
/-! SUPPORT. The rounding modes on a value no larger than the largest finite one (R25, R27). -/

namespace Sys2Proof.Machine
open Sys2Proof

theorem modeOf_of_le {f : Fmt} {x : Rat} (h : x ≤ codeMag (fmtMb f) (fmtEmin f) (maxCode f)) (c : RCtx) : modeOf f c x = c.mode :=
  if_neg (fun hc => absurd hc.2 (not_lt.mpr h))

/-- A magnitude no larger than the largest finite one is rounded to a finite code. -/
theorem pickCode_le_maxCode {f : Fmt} {x : Rat} {k : Nat} (hle : codeMag (fmtMb f) (fmtEmin f) k ≤ x)
    (hx : x ≤ codeMag (fmtMb f) (fmtEmin f) (maxCode f)) (mode : RMode) (neg : Bool) (draw : Nat) :
    pickCode f mode neg draw x k ≤ maxCode f := by
  rcases (codeMag_strictMono.le_iff_le.mp (hle.trans hx)).lt_or_eq with h | h
  · exact (pickCode_le ..).trans h
  · have heq : codeMag (fmtMb f) (fmtEmin f) k = x := le_antisymm hle (by rw [h]; exact hx)
    rw [pickCode, stepsUp, decide_eq_false (not_not.mpr heq), Bool.false_and]
    exact h.le

/-- The rounding of a value no larger than the largest finite one. -/
theorem roundFloat_inRange {f : Fmt} (hf : isFloatFmt f = true) (neg : Bool) {m : Nat} {e : Int}
    (hx : dyad m e ≤ codeMag (fmtMb f) (fmtEmin f) (maxCode f)) :
    ∃ k, codeMag (fmtMb f) (fmtEmin f) k ≤ dyad m e ∧ dyad m e < codeMag (fmtMb f) (fmtEmin f) (k + 1) ∧
      ∀ c : RCtx, c.ftz = false →
        pickCode f c.mode neg c.draw (dyad m e) k ≤ maxCode f ∧
        roundFloat f c (.fin neg m e) = ⟨pickCode f c.mode neg c.draw (dyad m e) k + signBit f neg,
          { uf := decide (codeMag (fmtMb f) (fmtEmin f) k ≠ dyad m e) && staysTiny f c.mode neg c.draw m e
            nx := decide (codeMag (fmtMb f) (fmtEmin f) k ≠ dyad m e) }, false⟩ := by
  obtain ⟨k, hle, hlt, h⟩ := roundFloat_eq hf neg m e
  refine ⟨k, hle, hlt, fun c hftz => ?_⟩
  have hn := pickCode_le_maxCode hle hx c.mode neg c.draw
  have hc := h c
  rw [modeOf_of_le hx] at hc
  rw [hc, if_neg (not_lt.mpr hn), if_neg (by rw [hftz]; exact fun hc => Bool.false_ne_true hc.1)]
  exact ⟨hn, rfl⟩

theorem signBit_mod_two {f : Fmt} (hf : isFloatFmt f = true) (neg : Bool) : signBit f neg % 2 = 0 := by
  rcases floatFmt_cases hf with rfl | rfl | rfl | rfl | rfl | rfl | rfl | rfl <;> cases neg <;> decide

/-- A number of the format lies outside of two neighbours. -/
theorem outside_of_le_maxCode {mb : Nat} {emin : Int} (k c : Nat) :
    codeMag mb emin c ≤ codeMag mb emin k ∨ codeMag mb emin (k + 1) ≤ codeMag mb emin c := by
  rw [codeMag_strictMono.le_iff_le, codeMag_strictMono.le_iff_le]
  omega

theorem outside_of_isNumber {f : Fmt} (hf : isFloatFmt f = true) (k : Nat) {x : Rat} (hx : IsNumber f x) :
    Outside (codeMag (fmtMb f) (fmtEmin f) k) (codeMag (fmtMb f) (fmtEmin f) (k + 1)) x := by
  obtain ⟨t, c, -, rfl⟩ := (isNumber_iff hf x).mp hx
  exact ⟨t, _, rfl, codeMag_nonneg c, outside_of_le_maxCode k c⟩

theorem isNumber_codeMag {f : Fmt} (hf : isFloatFmt f = true) {k : Nat} (hk : k ≤ maxCode f) :
    IsNumber f (codeMag (fmtMb f) (fmtEmin f) k) :=
  (isNumber_iff hf _).mpr ⟨false, k, hk, (signFactor_false _).symm⟩

/-- Two numbers around a value with none between are the codes around it. -/
theorem neighbours_eq {f : Fmt} (hf : isFloatFmt f = true) {k : Nat} {x lo hi : Rat}
    (hle : codeMag (fmtMb f) (fmtEmin f) k ≤ x) (hlt : x < codeMag (fmtMb f) (fmtEmin f) (k + 1))
    (hlo : IsNumber f lo) (hhi : IsNumber f hi) (hlo0 : 0 ≤ lo) (hlox : lo < x) (hxhi : x < hi)
    (hgap : ∀ y, IsNumber f y → y ≤ lo ∨ hi ≤ y) :
    lo = codeMag (fmtMb f) (fmtEmin f) k ∧ hi = codeMag (fmtMb f) (fmtEmin f) (k + 1) := by
  have hpos : 0 ≤ codeMag (fmtMb f) (fmtEmin f) k := codeMag_nonneg k
  have hmag {y : Rat} (hy : IsNumber f y) (h0 : 0 ≤ y) : ∃ c, c ≤ maxCode f ∧ y = codeMag (fmtMb f) (fmtEmin f) c := by
    obtain ⟨t, c, hc, rfl⟩ := (isNumber_iff hf y).mp hy
    refine ⟨c, hc, ?_⟩
    rw [← abs_of_nonneg h0, abs_signFactor_mul t (codeMag_nonneg c)]
  obtain ⟨cl, hcl, rfl⟩ := hmag hlo hlo0
  obtain ⟨ch, hch, rfl⟩ := hmag hhi (by linarith)
  have hclk : cl ≤ k := Nat.lt_succ_iff.mp (codeMag_strictMono.lt_iff_lt.mp (hlox.trans hlt))
  have hkch : k < ch := codeMag_strictMono.lt_iff_lt.mp (hle.trans_lt hxhi)
  constructor
  · have h := (hgap _ (isNumber_codeMag hf (hkch.le.trans hch))).resolve_right (by linarith)
    exact le_antisymm (codeMag_strictMono.le_iff_le.mpr hclk) h
  · have h := (hgap _ (isNumber_codeMag hf (Nat.le_trans hkch hch))).resolve_left (by linarith)
    exact le_antisymm h (codeMag_strictMono.le_iff_le.mpr hkch)

/-- What O19 asks of a value that is rounded to w with code `code`. -/
theorem roundFloat_modes {f : Fmt} (hf : isFloatFmt f = true) (c : RCtx) (hftz : c.ftz = false) {v : FVal} (hv : v.finite = true)
    (hx : gap 0 v.rat ≤ (decodeFmt f (maxCode f)).1.rat) :
    let r := roundFloat f c v
    let w := (decodeFmt f r.code).1
    w.finite = true ∧ w.sign = v.sign ∧ (r.fl.nx = true ↔ w.rat ≠ v.rat) ∧
      (c.mode = .rdn → w.rat ≤ v.rat ∧ ∀ x, IsNumber f x → x ≤ v.rat → x ≤ w.rat) ∧
      (c.mode = .rup → v.rat ≤ w.rat ∧ ∀ x, IsNumber f x → v.rat ≤ x → w.rat ≤ x) ∧
      (c.mode = .rtz → gap 0 w.rat ≤ gap 0 v.rat ∧ ∀ x, IsNumber f x → gap 0 x ≤ gap 0 v.rat → gap w.rat v.rat ≤ gap x v.rat) ∧
      (c.mode = .rne ∨ c.mode = .rna → ∀ x, IsNumber f x → gap w.rat v.rat ≤ gap x v.rat ∧
        (x ≠ w.rat → gap x v.rat = gap w.rat v.rat → if c.mode = .rne then r.code % 2 = 0 else gap 0 x ≤ gap 0 w.rat)) ∧
      (c.mode = .rsr → (IsNumber f v.rat → w.rat = v.rat) ∧
        ∀ lo hi, IsNumber f lo → IsNumber f hi → 0 ≤ lo → lo < gap 0 v.rat → gap 0 v.rat < hi →
          (∀ x, IsNumber f x → x ≤ lo ∨ hi ≤ x) →
          w.rat = (if v.rat < 0 then -1 else 1) *
            (if (c.draw : Int) < ((gap 0 v.rat - lo) / (hi - lo) * 65536).floor then hi else lo)) := by
  obtain ⟨neg, m, e, rfl⟩ := fin_of_finite hv
  have htop : (decodeFmt f (maxCode f)).1.rat = codeMag (fmtMb f) (fmtEmin f) (maxCode f) := by
    rw [decodeFmt_code hf le_rfl, codeVal_rat, signFactor_false]
  rw [gap_zero, abs_rat_fin, htop] at hx
  obtain ⟨k, hle, hlt, h⟩ := roundFloat_inRange hf neg hx
  obtain ⟨hn, hr⟩ := h c hftz
  have hout (x : Rat) (hx : IsNumber f x) := outside_of_isNumber hf k hx
  have h0 : 0 ≤ codeMag (fmtMb f) (fmtEmin f) k := codeMag_nonneg k
  have hpick := codeMag_pickCode f c.mode neg c.draw (dyad m e) k
  simp only [gap_zero, abs_rat_fin]
  simp only [gap_eq_abs]
  rw [hr]
  simp only [decodeFmt_signBit hf neg hn, codeVal_rat, hpick, rat_fin]
  refine ⟨codeVal_finite .., codeVal_sign .., ?_, ?_, ?_, ?_, ?_, ?_⟩
  · rw [decide_eq_true_iff, ne_eq (signFactor neg * _), signFactor_mul_inj]
    refine ⟨fun hne => pickBetween_ne hne hlt, fun hne heq => hne ?_⟩
    rw [← heq, pickBetween_exact]
  · intro hmode
    rw [hmode]
    obtain ⟨h1, h2⟩ := rounded_rdn h0 hle hlt neg c.draw k
    exact ⟨h1, fun x hx => h2 x (hout x hx)⟩
  · intro hmode
    rw [hmode]
    obtain ⟨h1, h2⟩ := rounded_rup h0 hle hlt neg c.draw k
    exact ⟨h1, fun x hx => h2 x (hout x hx)⟩
  · intro hmode
    rw [hmode]
    obtain ⟨h1, h2⟩ := rounded_rtz h0 hle hlt neg c.draw k
    exact ⟨h1, fun x hx => h2 x (hout x hx)⟩
  · intro hmode x hx
    refine ⟨rounded_nearest h0 hle hlt neg c.draw k hmode (hout x hx), fun hne htie => ?_⟩
    obtain ⟨hlo, hhalf, hxhi⟩ := rounded_tie h0 hle hlt neg c.draw k hmode (hout x hx) hne htie
    rcases hmode with hmode | hmode
    · rw [if_pos hmode, hmode, Nat.add_mod, pickCode_mod_two hlo hhalf, signBit_mod_two hf]
    · rw [if_neg (by rw [hmode]; decide), hmode, pickBetween_rna_tie hlo hhalf, abs_signFactor_mul neg (codeMag_nonneg _)]
      exact hxhi
  · intro hmode
    rw [hmode]
    refine ⟨fun hv => ?_, fun lo hi hlo hhi hlo0 hlox hxhi hgap => ?_⟩
    · obtain ⟨t, a, ha, ha0, hcase⟩ := hout _ hv
      have hxa : dyad m e = a := by
        have := congrArg abs ha
        rwa [abs_signFactor_mul neg (dyad_nonneg m e), abs_signFactor_mul t ha0] at this
      have heq : codeMag (fmtMb f) (fmtEmin f) k = dyad m e := le_antisymm hle (by
        rw [hxa]
        exact hcase.resolve_right (by linarith))
      rw [← heq, pickBetween_exact]
    · obtain ⟨rfl, rfl⟩ := neighbours_eq hf hle hlt hlo hhi hlo0 hlox hxhi hgap
      rw [pickBetween_rsr hlox.ne]
      congr 1
      cases neg with
      | true => rw [if_pos (by rw [signFactor_true]; linarith)]; rfl
      | false => rw [if_neg (by rw [signFactor_false]; linarith)]; rfl

end Sys2Proof.Machine
end

section
/-! SUPPORT. Overflow (R26). -/

namespace Sys2Proof.Machine
open Sys2Proof

/-! ### Overflow -/

theorem maxCode_fields {f : Fmt} (hf : isFloatFmt f = true) : 2 ^ fmtMb f ≤ maxCode f ∧ maxCode f % 2 ^ fmtMb f ≠ 0 := by
  rcases floatFmt_cases hf with rfl | rfl | rfl | rfl | rfl | rfl | rfl | rfl <;> decide

/-- Codes on both sides of one with a mantissa that is not 0 are as far from it. -/
theorem codeMag_succ_add_pred {mb : Nat} {emin : Int} {c : Nat} (hc : 2 ^ mb ≤ c) (hm : c % 2 ^ mb ≠ 0) :
    codeMag mb emin (c + 1) + codeMag mb emin (c - 1) = 2 * codeMag mb emin c := by
  rcases code_cases mb c with h | ⟨E, M, hM, rfl⟩
  · omega
  have hM0 : M ≠ 0 := by
    rintro rfl
    exact hm (by rw [add_zero, Nat.mul_mod_left])
  obtain ⟨M, rfl⟩ := Nat.exists_eq_succ_of_ne_zero hM0
  have hpred : (E + 1) * 2 ^ mb + (M + 1) - 1 = (E + 1) * 2 ^ mb + M := by omega
  rw [Nat.succ_eq_add_one, hpred, codeMag_norm hM, codeMag_norm (Nat.lt_of_succ_lt hM)]
  rcases Nat.lt_or_ge (M + 1 + 1) (2 ^ mb) with h1 | h1
  · rw [add_assoc, codeMag_norm h1]
    simp only [dyad]
    push_cast
    ring
  · have he : (E + 1) * 2 ^ mb + (M + 1) + 1 = ((E + 1) + 1) * 2 ^ mb + 0 := by
      rw [add_one_mul (E + 1)]
      omega
    have hMcast : ((2 ^ mb : Nat) : Rat) = M + 2 := by
      rw [show 2 ^ mb = M + 2 by omega]
      push_cast
      ring
    rw [he, codeMag_norm (by positivity), zero_add, ← one_mul (2 ^ mb), Nat.cast_succ, add_right_comm (E : Int),
      ← dyad_mul_zpow _ _ 1]
    simp only [dyad]
    push_cast at hMcast ⊢
    rw [hMcast]
    ring

/-- What a magnitude that overflows is (R26): `odd` says that the code of the largest finite value, `top`, is, and `next` is the number
after it with exponents unbounded. -/
def TooBig (mode : RMode) (neg : Bool) (odd : Prop) (top next mag : Rat) : Prop :=
  top < mag ∧ match mode with
    | .rtz => next ≤ mag
    | .rdn => neg = true ∨ next ≤ mag
    | .rup => neg = false ∨ next ≤ mag
    | .rna => (top + next) / 2 ≤ mag
    | .rne | .rsr => (top + next) / 2 < mag ∨ ((top + next) / 2 = mag ∧ odd)

theorem tooBig_of_next_le {mode : RMode} {neg : Bool} {odd : Prop} {top next mag : Rat} (h : top < next) (hn : next ≤ mag) :
    TooBig mode neg odd top next mag := by
  refine ⟨by linarith, ?_⟩
  cases mode with
  | rtz => exact hn
  | rdn => exact .inr hn
  | rup => exact .inr hn
  | rna => show _ ≤ _; linarith
  | rne => exact .inl (by linarith)
  | rsr => exact .inl (by linarith)

/-- Between the largest finite value and the next a magnitude overflows when it is rounded up. -/
theorem tooBig_iff_ups {mode : RMode} (neg : Bool) (draw k : Nat) {top next mag : Rat} (hlo : top < mag) (hhi : mag < next) :
    TooBig mode neg (k % 2 = 1) top next mag ↔ ups (if mode = .rsr then .rne else mode) neg draw k ((mag - top) / (next - top)) = true := by
  have hD : 0 < next - top := by linarith
  have hhalf : 1 / 2 < (mag - top) / (next - top) ↔ (top + next) / 2 < mag := by
    rw [lt_div_iff₀ hD]
    constructor <;> intro h <;> linarith
  have hhalf' : (mag - top) / (next - top) = 1 / 2 ↔ (top + next) / 2 = mag := by
    rw [div_eq_iff hD.ne']
    constructor <;> intro h <;> linarith
  have hhalf'' : 1 / 2 ≤ (mag - top) / (next - top) ↔ (top + next) / 2 ≤ mag := by
    rw [le_div_iff₀ hD]
    constructor <;> intro h <;> linarith
  unfold TooBig
  rw [and_iff_right hlo]
  cases mode with
  | rtz => simpa [ups] using hhi
  | rdn => simp [ups, hhi]
  | rup => simp [ups, hhi]
  | rna => exact (hhalf''.symm.trans decide_eq_true_iff.symm)
  | rne => simp only [ups, hhalf, hhalf', reduceCtorEq, if_false, Bool.or_eq_true, Bool.and_eq_true, decide_eq_true_eq, beq_iff_eq]
  | rsr => simp only [ups, hhalf, hhalf', if_true, Bool.or_eq_true, Bool.and_eq_true, decide_eq_true_eq, beq_iff_eq]

/-- A magnitude is rounded beyond the codes of finite values exactly when it is too big. -/
theorem maxCode_lt_pickCode {f : Fmt} {x : Rat} {k : Nat} (hle : codeMag (fmtMb f) (fmtEmin f) k ≤ x)
    (hlt : x < codeMag (fmtMb f) (fmtEmin f) (k + 1)) (c : RCtx) (neg : Bool) :
    maxCode f < pickCode f (modeOf f c x) neg c.draw x k ↔
      TooBig c.mode neg (maxCode f % 2 = 1) (codeMag (fmtMb f) (fmtEmin f) (maxCode f))
        (codeMag (fmtMb f) (fmtEmin f) (maxCode f + 1)) x := by
  rcases le_or_gt x (codeMag (fmtMb f) (fmtEmin f) (maxCode f)) with hx | hx
  · exact iff_of_false (not_lt.mpr (pickCode_le_maxCode hle hx ..)) (fun h => absurd h.1 (not_lt.mpr hx))
  have hk : maxCode f ≤ k := Nat.lt_succ_iff.mp (codeMag_strictMono.lt_iff_lt.mp (hx.trans hlt))
  rcases hk.lt_or_eq with hk | hk
  · exact iff_of_true (hk.trans_le (le_pickCode ..))
      (tooBig_of_next_le (codeMag_succ _) ((codeMag_strictMono.le_iff_le.mpr hk).trans hle))
  · rw [← hk] at hlt ⊢
    rw [tooBig_iff_ups neg c.draw _ hx hlt, modeOf, pickCode, stepsUp, decide_eq_true hx.ne, Bool.true_and, codeFrac]
    simp only [hx, and_true]
    generalize ups (if c.mode = .rsr then .rne else c.mode) neg c.draw (maxCode f) _ = b
    cases b <;> simp [b2n]

/-- The modes that an overflow rounds to infinity (R26). -/
def overflowsToInf (mode : RMode) (neg : Bool) : Bool :=
  match mode with
  | .rne | .rna | .rsr => true
  | .rtz => false
  | .rdn => neg
  | .rup => !neg

theorem overflowCode_eq {f : Fmt} (hf : isFloatFmt f = true) (mode : RMode) (sat neg : Bool) :
    if (hasSpecial f && overflowsToInf mode neg && !sat) = true then (decodeFmt f (overflowCode f mode sat neg)).1 = .inf neg
    else overflowCode f mode sat neg = maxCode f + signBit f neg := by
  cases hs : hasSpecial f with
  | false => simp [overflowCode, hs]
  | true =>
    have hinf := decodeFmt_infCode hf hs neg
    cases sat with
    | true => simp [overflowCode]
    | false => cases mode <;> cases neg <;> simp [overflowCode, overflowsToInf, hs, hinf]

end Sys2Proof.Machine
end

section
/-! SUPPORT. Underflow (R29). -/

namespace Sys2Proof.Machine
open Sys2Proof

/-! ### Underflow -/

theorem roundRat_le (mode : RMode) (neg : Bool) (draw : Nat) (t : Rat) : roundRat mode neg draw t ≤ ⌊t⌋₊ + 1 := by
  unfold roundRat
  split
  · exact Nat.le_succ _
  · split
    · exact le_rfl
    · exact Nat.le_succ _

/-- When t below K + 1 is rounded to K + 1. -/
theorem lt_roundRat_iff (mode : RMode) (neg : Bool) (draw K : Nat) {t : Rat} (ht0 : 0 ≤ t) (ht : t < K + 1) :
    K < roundRat mode neg draw t ↔ (K : Rat) < t ∧ ups mode neg draw K (t - K) = true := by
  have hfloor : ⌊t⌋₊ < K + 1 := (Nat.floor_lt ht0).mpr (by exact_mod_cast ht)
  rcases lt_or_ge (K : Rat) t with hK | hK
  · have hKf : ⌊t⌋₊ = K := le_antisymm (Nat.lt_succ_iff.mp hfloor) (Nat.le_floor hK.le)
    rw [roundRat, hKf, if_neg hK.ne', and_iff_right hK]
    cases ups mode neg draw K (t - K) <;> simp
  · refine iff_of_false (not_lt.mpr ?_) (fun h => absurd h.1 (not_lt.mpr hK))
    have hf : ⌊t⌋₊ ≤ t := Nat.floor_le ht0
    rcases hK.lt_or_eq with hK | rfl
    · exact (roundRat_le ..).trans (Nat.succ_le_of_lt ((Nat.floor_lt ht0).mpr hK))
    · rw [roundRat, Nat.floor_natCast, if_pos rfl]

/-- An inexact magnitude below the least normal one is rounded to it when exponents are unbounded (R29): `unit` is the least subnormal
magnitude, twice the last place of those below `normal`. -/
def Reaches (mode : RMode) (neg : Bool) (draw : Nat) (normal unit mag : Rat) : Prop :=
  let below := normal - unit / 2
  match mode with
  | .rtz => False
  | .rdn => neg = true ∧ below < mag
  | .rup => neg = false ∧ below < mag
  | .rsr => below < mag ∧ (draw : Int) < ((mag - below) / (unit / 2) * 65536).floor
  | .rne | .rna => normal - unit / 4 ≤ mag

theorem Reaches.le {mode : RMode} {neg : Bool} {draw : Nat} {normal unit mag : Rat} (hu : 0 ≤ unit)
    (h : Reaches mode neg draw normal unit mag) : normal - unit / 2 ≤ mag := by
  cases mode with
  | rtz => exact h.elim
  | rdn => exact h.2.le
  | rup => exact h.2.le
  | rsr => exact h.1.le
  | rne => exact le_trans (by linarith) h
  | rna => exact le_trans (by linarith) h

/-- The same in units of half of `unit`. -/
theorem reaches_iff_ups (mode : RMode) (neg : Bool) (draw : Nat) {K : Nat} (hK : K % 2 = 1) {u t : Rat} (hu : 0 < u) :
    Reaches mode neg draw ((K + 1) * u) (2 * u) (t * u) ↔ (K : Rat) < t ∧ ups mode neg draw K (t - K) = true := by
  have hbelow : (K + 1) * u - 2 * u / 2 = K * u := by ring
  have hlt : K * u < t * u ↔ (K : Rat) < t := mul_lt_mul_iff_left₀ hu
  have hfrac : (t * u - K * u) / (2 * u / 2) = t - K := by
    rw [← sub_mul, mul_div_cancel_left₀ u two_ne_zero, mul_div_cancel_right₀ _ hu.ne']
  have hhalf : (K + 1) * u - 2 * u / 4 ≤ t * u ↔ 1 / 2 ≤ t - K := by
    rw [show (K + 1) * u - 2 * u / 4 = (K + 1 / 2) * u by ring, mul_le_mul_iff_left₀ hu]
    constructor <;> intro h <;> linarith
  unfold Reaches
  simp only [hbelow, hlt, hfrac, hhalf]
  cases mode with
  | rtz => simp [ups]
  | rdn => simp [ups, and_comm]
  | rup => simp [ups, and_comm]
  | rsr => rw [ups, decide_eq_true_iff]
  | rne =>
    have hodd : (K % 2 == 1) = true := by rw [hK]; rfl
    simp only [ups, hodd, Bool.and_true, Bool.or_eq_true, decide_eq_true_eq]
    refine ⟨fun h => ⟨by linarith, h.lt_or_eq.imp_right Eq.symm⟩, fun h => h.2.elim le_of_lt ge_of_eq⟩
  | rna =>
    rw [ups, decide_eq_true_iff]
    exact ⟨fun h => ⟨by linarith, h⟩, fun h => h.2⟩

theorem staysTiny_of_le {f : Fmt} {m : Nat} {e : Int} (h : (2 : Rat) ^ fmtEmin f ≤ dyad m e) (mode : RMode) (neg : Bool) (draw : Nat) :
    staysTiny f mode neg draw m e = false := by
  have hbig : ¬ (Nat.log2 m : Int) + e < fmtEmin f := fun hb =>
    absurd ((dyad_lt_two_zpow m e).trans_le (zpow_le_zpow_right₀ one_le_two (by omega))) (not_lt.mpr h)
  rw [staysTiny, decide_eq_false hbig, Bool.false_and]

/-- A magnitude below the least normal one stays so with exponents unbounded, unless its rounding reaches it. -/
theorem staysTiny_iff {f : Fmt} (hf : isFloatFmt f = true) {m : Nat} {e : Int} (hm : m ≠ 0) (hx : dyad m e < 2 ^ fmtEmin f)
    (mode : RMode) (neg : Bool) (draw : Nat) :
    staysTiny f mode neg draw m e = true ↔
      ¬ Reaches mode neg draw (2 ^ fmtEmin f) (2 ^ (fmtEmin f - fmtMb f)) (dyad m e) := by
  have hmb := fmtMb_pos hf
  have hbig : (Nat.log2 m : Int) + e < fmtEmin f := (zpow_lt_zpow_iff_right₀ one_lt_two).mp ((two_zpow_le_dyad e hm).trans_lt hx)
  rw [staysTiny, decide_eq_true hbig, Bool.true_and, dyLt_iff, dyad_one, roundAt_eq, ← not_le, not_iff_not]
  obtain ⟨p, hp⟩ : ∃ p, (Nat.log2 m : Int) + e - fmtMb f = p := ⟨_, rfl⟩
  rw [hp]
  have hu := two_zpow_pos p
  have hxt : dyad m e = dyad m (e - p) * 2 ^ p := by rw [dyad_mul_zpow, sub_add_cancel]
  have ht : dyad m (e - p) < ((2 ^ (fmtMb f + 1) : Nat) : Rat) := by
    refine (dyad_lt_two_zpow m _).trans_le ?_
    push_cast
    rw [← zpow_natCast]
    exact zpow_le_zpow_right₀ one_le_two (by push_cast; omega)
  rcases (show (Nat.log2 m : Int) + e = fmtEmin f - 1 ∨ (Nat.log2 m : Int) + e < fmtEmin f - 1 by omega) with hb | hb
  · obtain ⟨K, hK⟩ : ∃ K, 2 ^ (fmtMb f + 1) = K + 1 := Nat.exists_eq_add_of_le' (Nat.one_le_two_pow)
    have hodd : K % 2 = 1 := by
      rw [pow_succ] at hK
      omega
    have hnormal : (2 : Rat) ^ fmtEmin f = (K + 1) * 2 ^ p := by
      rw [← Nat.cast_add_one, ← hK, ← dyad, ← one_mul (2 ^ (fmtMb f + 1)), dyad_shift, dyad_one]
      congr 1
      push_cast
      omega
    have hunit : (2 : Rat) ^ (fmtEmin f - fmtMb f) = 2 * 2 ^ p := by
      rw [← zpow_one_add₀ two_ne_zero]
      congr 1
      omega
    rw [hK, Nat.cast_add_one] at ht
    rw [hnormal, hunit, hxt, reaches_iff_ups mode neg draw hodd hu, ← lt_roundRat_iff mode neg draw K (dyad_nonneg _ _) ht, dyad,
      mul_le_mul_iff_left₀ hu, ← Nat.cast_add_one, Nat.cast_le, Nat.succ_le_iff]
  · have hhalf : (2 : Rat) ^ fmtEmin f = 2 * 2 ^ (fmtEmin f - 1) := by
      rw [← zpow_one_add₀ two_ne_zero]
      congr 1
      omega
    have hunit : (2 : Rat) ^ (fmtEmin f - fmtMb f) ≤ 2 ^ (fmtEmin f - 1) := zpow_le_zpow_right₀ one_le_two (by omega)
    have hpos := two_zpow_pos (fmtEmin f - 1)
    have hsmall : (2 : Rat) ^ (Nat.log2 m + e + 1) ≤ 2 ^ (fmtEmin f - 1) := zpow_le_zpow_right₀ one_le_two (by omega)
    refine iff_of_false (not_le.mpr ?_) (fun h => ?_)
    · have hfloor := (Nat.floor_lt (dyad_nonneg m (e - p))).mpr ht
      have hle : dyad (roundRat mode neg draw (dyad m (e - p))) p ≤ dyad (2 ^ (fmtMb f + 1)) p :=
        dyad_le_dyad.mpr ((roundRat_le ..).trans hfloor)
      rw [← one_mul (2 ^ (fmtMb f + 1)), dyad_shift, dyad_one,
        show p + ((fmtMb f + 1 : Nat) : Int) = Nat.log2 m + e + 1 by push_cast; omega] at hle
      linarith
    · have := h.le (two_zpow_pos _).le
      have := dyad_lt_two_zpow m e
      linarith

end Sys2Proof.Machine
end

section
/-! SUPPORT. Special values, overflow, underflow and FTZ of a rounding (R22, R26, R29, R30, R33). -/

namespace Sys2Proof.Machine
open Sys2Proof

/-! ### Special values, overflow, underflow and FTZ -/

theorem roundFloat_inf {f : Fmt} (hf : isFloatFmt f = true) (hs : hasSpecial f = true) (c : RCtx) (neg : Bool) :
    (decodeFmt f (roundFloat f c (.inf neg)).code).1 = .inf neg ∧ (roundFloat f c (.inf neg)).fl = {} ∧
      (roundFloat f c (.inf neg)).poison = false := by
  have h : roundFloat f c (.inf neg) = ⟨infCode f neg, {}, false⟩ := if_pos hs
  rw [h]
  exact ⟨decodeFmt_infCode hf hs neg, rfl, rfl⟩

theorem roundFloat_nan {f : Fmt} (hs : hasSpecial f = true) (c : RCtx) {v : FVal} (hv : v.isNaN = true) :
    roundFloat f c v = ⟨canonNaN f, {}, false⟩ := by
  cases v with
  | nan neg => exact if_pos hs
  | inf _ => cases hv
  | fin _ _ _ => cases hv

theorem roundFloat_nonfinite {f : Fmt} (hs : hasSpecial f = false) (c : RCtx) {v : FVal} (hv : v.finite = false) :
    roundFloat f c v = ⟨maxCode f + signBit f v.sign, nvFlag, true⟩ := by
  have hs' : ¬ hasSpecial f = true := by rw [hs]; decide
  cases v with
  | nan neg => exact if_neg hs'
  | inf neg => exact if_neg hs'
  | fin _ _ _ => cases hv

/-- The largest finite value of a format is normal. -/
theorem normal_le_top {f : Fmt} (hf : isFloatFmt f = true) :
    (2 : Rat) ^ fmtEmin f ≤ codeMag (fmtMb f) (fmtEmin f) (maxCode f) := by
  rw [← codeMag_two_pow (fmtMb f), codeMag_strictMono.le_iff_le]
  exact (maxCode_fields hf).1

section
variable {f : Fmt} (hf : isFloatFmt f = true) (c : RCtx) (neg : Bool) (m : Nat) (e : Int)
include hf

/-- Overflow (R26). -/
theorem roundFloat_overflow :
    let r := roundFloat f c (.fin neg m e)
    let top := codeMag (fmtMb f) (fmtEmin f) (maxCode f)
    let big := TooBig c.mode neg (maxCode f % 2 = 1) top (codeMag (fmtMb f) (fmtEmin f) (maxCode f + 1)) (dyad m e)
    r.poison = false ∧ r.fl.nv = false ∧ r.fl.dz = false ∧ (r.fl.ov = true ↔ big) ∧
      (big → r = ⟨overflowCode f (modeOf f c (dyad m e)) c.sat neg, { ov := true, nx := true }, false⟩) ∧
      (top < dyad m e → ¬ big → r = ⟨maxCode f + signBit f neg, { nx := true }, false⟩) := by
  obtain ⟨k, hle, hlt, h⟩ := roundFloat_eq hf neg m e
  intro r top big
  have hbig : maxCode f < pickCode f (modeOf f c (dyad m e)) neg c.draw (dyad m e) k ↔ big := maxCode_lt_pickCode hle hlt c neg
  have hr : r = _ := h c
  by_cases hb : big
  · rw [if_pos (hbig.mpr hb)] at hr
    rw [hr]
    exact ⟨rfl, rfl, rfl, iff_of_true rfl hb, fun _ => rfl, fun _ hn => absurd hb hn⟩
  rw [if_neg (mt hbig.mp hb)] at hr
  have hov : r.poison = false ∧ r.fl.nv = false ∧ r.fl.dz = false ∧ r.fl.ov = false := by
    rw [hr]
    split <;> exact ⟨rfl, rfl, rfl, rfl⟩
  obtain ⟨hp, hnv, hdz, ho⟩ := hov
  refine ⟨hp, hnv, hdz, iff_of_false (by rw [ho]; decide) hb, fun h => absurd h hb, fun htop _ => ?_⟩
  have hk : maxCode f ≤ k := Nat.lt_succ_iff.mp (codeMag_strictMono.lt_iff_lt.mp (htop.trans hlt))
  have hn : pickCode f (modeOf f c (dyad m e)) neg c.draw (dyad m e) k = maxCode f :=
    le_antisymm (not_lt.mp (mt hbig.mp hb)) (hk.trans (le_pickCode ..))
  have hkm : k = maxCode f := le_antisymm (hn ▸ le_pickCode ..) hk
  rw [hr, hn, if_neg (fun hc => absurd hc.2.2.2 (not_lt.mpr (maxCode_fields hf).1)),
    staysTiny_of_le ((normal_le_top hf).trans htop.le), Bool.and_false, hkm, decide_eq_true htop.ne]

/-- Underflow (R29). -/
theorem roundFloat_underflow (hftz : c.ftz = false) :
    (roundFloat f c (.fin neg m e)).fl.uf = true ↔ (roundFloat f c (.fin neg m e)).fl.nx = true ∧ dyad m e < 2 ^ fmtEmin f ∧
      ¬ Reaches c.mode neg c.draw (2 ^ fmtEmin f) (codeMag (fmtMb f) (fmtEmin f) 1) (dyad m e) := by
  have hunit : codeMag (fmtMb f) (fmtEmin f) 1 = 2 ^ (fmtEmin f - fmtMb f) := by
    rw [codeMag_sub (Nat.one_lt_two_pow (Nat.one_le_iff_ne_zero.mp (fmtMb_pos hf))), dyad_one]
  rw [hunit]
  rcases le_or_gt (dyad m e) (codeMag (fmtMb f) (fmtEmin f) (maxCode f)) with hx | hx
  · obtain ⟨k, hle, -, h⟩ := roundFloat_inRange hf neg hx
    rw [(h c hftz).2]
    show (_ && _) = true ↔ _
    rw [Bool.and_eq_true]
    refine and_congr_right (fun hnx => ?_)
    rcases le_or_gt (2 ^ fmtEmin f) (dyad m e) with hn | hn
    · rw [staysTiny_of_le hn]
      exact iff_of_false Bool.false_ne_true (fun h => absurd h.1 (not_lt.mpr hn))
    · rw [and_iff_right hn]
      refine staysTiny_iff hf ?_ hn c.mode neg c.draw
      rintro rfl
      rw [dyad_zero] at hle hnx
      exact of_decide_eq_true hnx (le_antisymm hle (codeMag_nonneg k))
  · obtain ⟨-, -, -, -, hbig, hnot⟩ := roundFloat_overflow hf c neg m e
    refine iff_of_false ?_ (fun h => absurd h.2.1 (not_lt.mpr ((normal_le_top hf).trans hx.le)))
    by_cases hb : TooBig c.mode neg (maxCode f % 2 = 1) (codeMag (fmtMb f) (fmtEmin f) (maxCode f))
        (codeMag (fmtMb f) (fmtEmin f) (maxCode f + 1)) (dyad m e)
    · rw [hbig hb]
      exact Bool.false_ne_true
    · rw [hnot hx hb]
      exact Bool.false_ne_true

/-- FTZ (R30). -/
theorem roundFloat_ftz (hftz : c.ftz = true) :
    let q := roundFloat f { c with ftz := false } (.fin neg m e)
    let x := |(decodeFmt f q.code).1.rat|
    roundFloat f c (.fin neg m e) = if flushes f = true ∧ q.fl.ov = false ∧ 0 < x ∧ x < 2 ^ fmtEmin f
      then ⟨signBit f neg, { uf := true, nx := true }, false⟩ else q := by
  obtain ⟨k, hle, hlt, h⟩ := roundFloat_eq hf neg m e
  have hc := h c
  have hq := h { c with ftz := false }
  rw [show modeOf f { c with ftz := false } (dyad m e) = modeOf f c (dyad m e) from rfl] at hq
  simp only at hc hq
  rw [hc, hq]
  simp only [Bool.false_eq_true, false_and, if_false, hftz, true_and]
  generalize pickCode f (modeOf f c (dyad m e)) neg c.draw (dyad m e) k = n
  by_cases hn : maxCode f < n
  · simp only [if_pos hn, Bool.true_eq_false, false_and, and_false, if_false]
  · have hx : |(decodeFmt f (n + signBit f neg)).1.rat| = codeMag (fmtMb f) (fmtEmin f) n := by
      rw [decodeFmt_signBit hf neg (not_lt.mp hn), codeVal_rat, abs_signFactor_mul neg (codeMag_nonneg n)]
    have hpos : 0 < codeMag (fmtMb f) (fmtEmin f) n ↔ 0 < n := by
      rw [← codeMag_zero (mb := fmtMb f) (emin := fmtEmin f), codeMag_strictMono.lt_iff_lt]
    have hsub : codeMag (fmtMb f) (fmtEmin f) n < 2 ^ fmtEmin f ↔ n < 2 ^ fmtMb f := by
      rw [← codeMag_two_pow (fmtMb f), codeMag_strictMono.lt_iff_lt]
    simp only [if_neg hn, hx, hpos, hsub, true_and]
end

end Sys2Proof.Machine
end

section
/-! SUPPORT. Rounding to an integer format (R33). -/

namespace Sys2Proof.Machine
open Sys2Proof

/-! ### Rounding to an integer format -/

theorem codeBits_int {f : Fmt} (hf : isIntFmt f = true) : codeBits f = f.width := by
  revert hf
  cases f <;> decide

/-- The integer that a finite value is rounded to. -/
def roundedInt (mode : RMode) (neg : Bool) (draw : Nat) (t : Rat) : Int :=
  if neg then -(roundRat mode neg draw t : Int) else roundRat mode neg draw t

theorem roundRat_cast (mode : RMode) (neg : Bool) (draw : Nat) (t : Rat) :
    (roundRat mode neg draw t : Rat) = pickBetween mode neg draw ⌊t⌋₊ ⌊t⌋₊ (⌊t⌋₊ + 1) t := by
  rw [roundRat, pickBetween, add_sub_cancel_left, div_one]
  by_cases h : t = ⌊t⌋₊
  · rw [if_pos h, if_neg (fun hc => hc.1 h.symm)]
  · rw [if_neg h]
    cases hu : ups mode neg draw ⌊t⌋₊ (t - ⌊t⌋₊) with
    | true => rw [if_pos rfl, if_pos ⟨Ne.symm h, rfl⟩, Nat.cast_add_one]
    | false => rw [if_neg Bool.false_ne_true, if_neg (fun hc => Bool.false_ne_true hc.2)]

theorem roundedInt_cast (mode : RMode) (neg : Bool) (draw : Nat) (t : Rat) :
    (roundedInt mode neg draw t : Rat) = signFactor neg * pickBetween mode neg draw ⌊t⌋₊ ⌊t⌋₊ (⌊t⌋₊ + 1) t := by
  rw [← roundRat_cast, roundedInt]
  cases neg <;> simp [signFactor]

theorem roundedInt_ne (mode : RMode) (neg : Bool) (draw : Nat) (t : Rat) :
    (roundedInt mode neg draw t : Rat) ≠ signFactor neg * t ↔ t ≠ ⌊t⌋₊ := by
  rw [roundedInt_cast, ne_eq, signFactor_mul_inj, not_iff_not]
  constructor
  · intro h
    by_contra hne
    exact pickBetween_ne (Ne.symm hne) (Nat.lt_floor_add_one t) h
  · intro h
    conv_lhs => rw [show pickBetween mode neg draw ⌊t⌋₊ ⌊t⌋₊ (⌊t⌋₊ + 1) t = ⌊t⌋₊ from if_neg (fun hc => hc.1 h.symm)]
    exact h.symm

section
variable {t : Rat} (ht : 0 ≤ t) (neg : Bool) (draw : Nat)
include ht

theorem roundedInt_near (mode : RMode) : |(roundedInt mode neg draw t : Rat) - signFactor neg * t| < 1 := by
  have hle := Nat.floor_le ht
  have hlt := Nat.lt_floor_add_one t
  rw [roundedInt_cast, abs_signFactor_sub, pickBetween]
  split
  · next h =>
    have := lt_of_le_of_ne hle h.1
    rw [abs_of_nonneg (by linarith)]
    linarith
  · rw [abs_of_nonpos (by linarith)]
    linarith

theorem roundedInt_nearest {mode : RMode} (hmode : mode = .rne ∨ mode = .rna) :
    |(roundedInt mode neg draw t : Rat) - signFactor neg * t| ≤ 1 / 2 ∧
      (|(roundedInt mode neg draw t : Rat) - signFactor neg * t| = 1 / 2 →
        if mode = .rne then roundedInt mode neg draw t % 2 = 0 else t < |(roundedInt mode neg draw t : Rat)|) := by
  have hle := Nat.floor_le ht
  have hlt := Nat.lt_floor_add_one t
  have hmin1 := min_le_left (t - ⌊t⌋₊) (⌊t⌋₊ + 1 - t)
  have hmin2 := min_le_right (t - ⌊t⌋₊) (⌊t⌋₊ + 1 - t)
  have hnear : |(roundedInt mode neg draw t : Rat) - signFactor neg * t| = min (t - ⌊t⌋₊) (⌊t⌋₊ + 1 - t) := by
    rw [roundedInt_cast, abs_signFactor_sub, pickBetween_nearest hle hlt neg draw _ hmode]
  rw [hnear]
  refine ⟨by linarith, fun htie => ?_⟩
  have hfrac : t - ⌊t⌋₊ = 1 / 2 := by linarith
  have hne : (⌊t⌋₊ : Rat) ≠ t := fun h => by linarith
  rcases hmode with rfl | rfl
  · rw [if_pos rfl]
    have heven : roundRat .rne neg draw t % 2 = 0 := by
      rw [roundRat, if_neg (Ne.symm hne), hfrac]
      rcases Nat.mod_two_eq_zero_or_one ⌊t⌋₊ with h | h
      · simp [ups, h]
      · simp [ups, h]
        omega
    unfold roundedInt
    split <;> omega
  · rw [if_neg (by decide), roundedInt_cast, pickBetween_rna_tie hne (by rw [add_sub_cancel_left, div_one, hfrac]),
      abs_signFactor_mul neg (by positivity)]
    exact hlt

theorem roundedInt_rsr :
    roundedInt .rsr neg draw t = (if signFactor neg * t < 0 then -1 else 1) *
      (if (draw : Int) < ((t - t.floor) * 65536).floor then t.floor + 1 else t.floor) := by
  have hfl : t.floor = (⌊t⌋₊ : Int) := (Int.natCast_floor_eq_floor ht).symm
  have hround : (roundRat .rsr neg draw t : Int) = if (draw : Int) < ((t - t.floor) * 65536).floor then t.floor + 1 else t.floor := by
    rw [hfl, roundRat]
    by_cases h : t = ⌊t⌋₊
    · rw [if_pos h, if_neg]
      rw [Int.cast_natCast, ← h, sub_self, zero_mul]
      exact not_lt.mpr (Int.natCast_nonneg draw)
    · simp only [if_neg h, ups, decide_eq_true_eq, Int.cast_natCast]
      split <;> simp
  rw [← hround, roundedInt]
  cases neg with
  | false => rw [if_neg (by decide), if_neg (by rw [signFactor_false]; linarith), one_mul]
  | true =>
    rw [if_pos rfl, signFactor_true]
    rcases ht.lt_or_eq with h | rfl
    · rw [if_pos (by linarith), neg_one_mul]
    · simp [roundRat]
end

/-- Rounding of a finite value to an integer format (R33). -/
theorem roundToInt_fin {f : Fmt} (hf : isIntFmt f = true) (c : RCtx) (neg : Bool) (m : Nat) (e : Int) :
    roundToInt f c (.fin neg m e) =
      let n := roundedInt c.mode neg c.draw (dyad m e)
      if n < (intRange f).1 then ⟨wrapInt f.width (intRange f).1, nvFlag, false⟩
      else if (intRange f).2 < n then ⟨wrapInt f.width (intRange f).2, nvFlag, false⟩
      else ⟨wrapInt f.width n, { nx := decide ((n : Rat) ≠ (FVal.fin neg m e).rat) }, false⟩ := by
  simp only [rat_fin, roundedInt_ne]
  simp only [roundToInt, roundAt_eq, sub_zero, codeBits_int hf]
  rfl

end Sys2Proof.Machine
end

section
/-! SUPPORT. Exact sums and products (R39, R135, R380). -/

namespace Sys2Proof.Machine
open Sys2Proof

/-! ### Exact sums and products -/

/-- A finite value as a multiple of 2^q, for an exponent q no larger than its own. -/
theorem scaled_rat {t : FVal} (ht : t.finite = true) (q : Int) (hq : ∀ s m e, t = .fin s m e → m ≠ 0 → q ≤ e) :
    ((if t.isZero then 0 else t.scaled q : Int) : Rat) * 2 ^ q = t.rat := by
  obtain ⟨s, m, e, rfl⟩ := fin_of_finite ht
  by_cases hm : m = 0
  · subst hm
    rw [rat_fin]
    simp [FVal.isZero]
  · have hz : FVal.isZero (.fin s m e) = false := by simpa [FVal.isZero] using hm
    rw [hz, rat_fin, dyad_rescale m (hq s m e rfl hm), dyad]
    cases s <;> simp [FVal.scaled, signFactor]

theorem leastExp_le (ts : List FVal) (q : Int) :
    leastExp ts q ≤ q ∧ ∀ s m e, FVal.fin s m e ∈ ts → m ≠ 0 → leastExp ts q ≤ e := by
  induction ts generalizing q with
  | nil => exact ⟨le_rfl, fun _ _ _ h => absurd h List.not_mem_nil⟩
  | cons t ts ih =>
    cases t with
    | nan b =>
      obtain ⟨h1, h2⟩ := ih q
      exact ⟨h1, fun s m e hmem => h2 s m e (by simpa using hmem)⟩
    | inf b =>
      obtain ⟨h1, h2⟩ := ih q
      exact ⟨h1, fun s m e hmem => h2 s m e (by simpa using hmem)⟩
    | fin s' m' e' =>
      obtain ⟨h1, h2⟩ := ih (if m' ≠ 0 ∧ e' < q then e' else q)
      refine ⟨h1.trans (by split <;> omega), fun s m e hmem hm => ?_⟩
      rcases List.mem_cons.mp hmem with h | h
      · cases h
        refine h1.trans ?_
        split
        · exact le_rfl
        · next hc => simpa [hm] using hc
      · exact h2 s m e h hm

/-- The sum of scaled terms. -/
theorem foldl_scaled_rat (ts : List FVal) (q : Int) (hts : ∀ t ∈ ts, t.finite = true)
    (hq : ∀ s m e, FVal.fin s m e ∈ ts → m ≠ 0 → q ≤ e) :
    (((ts.map (fun t => if t.isZero then 0 else t.scaled q)).foldl (· + ·) 0 : Int) : Rat) * 2 ^ q = (ts.map FVal.rat).sum := by
  rw [← List.sum_eq_foldl]
  induction ts with
  | nil => simp
  | cons t ts ih =>
    rw [List.map_cons, List.map_cons, List.sum_cons, List.sum_cons, Int.cast_add, add_mul,
      scaled_rat (hts t List.mem_cons_self) q (fun s m e h => hq s m e (h ▸ List.mem_cons_self)),
      ih (fun t h => hts t (List.mem_cons_of_mem _ h)) (fun s m e h => hq s m e (List.mem_cons_of_mem _ h))]

/-- An integer times 2^q as a value. -/
theorem rat_ofInt_scaled (x q : Int) : (FVal.fin (decide (x < 0)) x.natAbs q).rat = (x : Rat) * 2 ^ q := by
  rw [rat_fin, dyad, ← mul_assoc]
  congr 1
  rcases lt_or_ge x 0 with h | h
  · rw [decide_eq_true h, signFactor_true, Nat.cast_natAbs, abs_of_neg h]
    push_cast
    ring
  · rw [decide_eq_false (not_lt.mpr h), signFactor_false, Nat.cast_natAbs, abs_of_nonneg h]

theorem any_eq_inf (ts : List FVal) (n : Bool) : ts.any (fun t => t == .inf n) = true ↔ FVal.inf n ∈ ts := by
  simp

/-- The exact sum of terms (R39, R380). -/
theorem exactSum_spec (neg : Bool) (ts : List FVal) :
    let v := exactSum neg ts
    let clash := FVal.inf true ∈ ts ∧ FVal.inf false ∈ ts
    let nan := ∃ t ∈ ts, t.isNaN = true
    (v.2 = true ↔ clash) ∧ (clash ∨ nan → v.1.isNaN = true) ∧ (¬ clash → ¬ nan → ∀ n, FVal.inf n ∈ ts → v.1 = .inf n) ∧
      ((∀ t ∈ ts, t.finite = true) →
        v.1.finite = true ∧ v.1.rat = (ts.map FVal.rat).sum ∧ (v.1.rat = 0 → v.1.sign = neg)) := by
  intro v clash nan
  have hclash : (ts.any (fun t => t == .inf true) && ts.any (fun t => t == .inf false)) = true ↔ clash := by
    rw [Bool.and_eq_true, any_eq_inf, any_eq_inf]
  have hnan : ts.any FVal.isNaN = true ↔ nan := List.any_eq_true
  have hinf (hts : ∀ t ∈ ts, t.finite = true) (n : Bool) : FVal.inf n ∉ ts := fun h => Bool.false_ne_true (hts _ h)
  by_cases hspecial : clash ∨ nan
  · have hv : v = (.nan false, ts.any (fun t => t == .inf true) && ts.any (fun t => t == .inf false)) := by
      refine if_pos ?_
      rw [Bool.or_eq_true, hclash, hnan]
      exact hspecial
    rw [hv]
    refine ⟨hclash, fun _ => rfl, fun hc hn => absurd hspecial (not_or.mpr ⟨hc, hn⟩), fun hts => ?_⟩
    rcases hspecial with hc | ⟨t, ht, htn⟩
    · exact absurd hc.1 (hinf hts true)
    · have := hts t ht
      cases t <;> simp_all [FVal.isNaN, FVal.finite]
  obtain ⟨hc, hn⟩ := not_or.mp hspecial
  have hv : v = if FVal.inf true ∈ ts then (.inf true, false) else if FVal.inf false ∈ ts then (.inf false, false)
      else
        let q := leastExp ts 4096
        let x : Int := (ts.map (fun t => if t.isZero then 0 else t.scaled q)).foldl (· + ·) 0
        if x = 0 then (.fin neg 0 0, false) else (.fin (decide (x < 0)) x.natAbs q, false) := by
    refine (if_neg ?_).trans ?_
    · rw [Bool.or_eq_true, hclash, hnan]
      exact hspecial
    · simp only [any_eq_inf]
  have hv2 : v.2 = false := by
    rw [hv]
    split
    · rfl
    · split
      · rfl
      · dsimp only
        split <;> rfl
  refine ⟨iff_of_false (by rw [hv2]; exact Bool.false_ne_true) hc, fun h => absurd h hspecial, fun _ _ n hmem => ?_, fun hts => ?_⟩
  · rw [hv]
    cases n with
    | true => rw [if_pos hmem]
    | false => rw [if_neg (fun h => hc ⟨h, hmem⟩), if_pos hmem]
  · rw [if_neg (hinf hts true), if_neg (hinf hts false)] at hv
    have hsum := foldl_scaled_rat ts (leastExp ts 4096) hts (leastExp_le ts 4096).2
    rw [hv]
    dsimp only
    generalize (ts.map (fun t => if t.isZero then 0 else t.scaled (leastExp ts 4096))).foldl (· + ·) 0 = x at *
    by_cases hx : x = 0
    · rw [if_pos hx]
      rw [hx, Int.cast_zero, zero_mul] at hsum
      rw [← hsum]
      refine ⟨rfl, ?_, fun _ => rfl⟩
      rw [rat_fin, dyad_zero, mul_zero]
    · rw [if_neg hx, rat_ofInt_scaled]
      refine ⟨rfl, hsum, fun h0 => absurd h0 ?_⟩
      exact mul_ne_zero (Int.cast_ne_zero.mpr hx) (two_zpow_pos _).ne'

theorem zerosOf_true (ts : List FVal) : zerosOf true ts = ts.all (fun t => t.isZero && t.sign) := by
  simp only [zerosOf, beq_true]

theorem dyad_mul (m n : Nat) (e d : Int) : dyad (m * n) (e + d) = dyad m e * dyad n d := by
  simp only [dyad, Nat.cast_mul, zpow_add₀ (two_ne_zero (α := Rat))]
  ring

theorem signFactor_bne (s t : Bool) : signFactor (s != t) = signFactor s * signFactor t := by
  cases s <;> cases t <;> simp [signFactor]

/-- A product of finite values is exact. -/
theorem mulVal_fin_rat (s t : Bool) (m n : Nat) (e d : Int) :
    (mulVal (.fin s m e) (.fin t n d)).1.rat = (FVal.fin s m e).rat * (FVal.fin t n d).rat := by
  rw [show (mulVal (.fin s m e) (.fin t n d)).1 = .fin (s != t) (m * n) (e + d) from rfl]
  rw [rat_fin, rat_fin, rat_fin, signFactor_bne, dyad_mul]
  ring

/-- Products (R39, R135). -/
theorem mulVal_spec (a b : FVal) :
    let p := mulVal a b
    (a.isNaN = true ∨ b.isNaN = true → p.1.isNaN = true ∧ p.2 = false) ∧
      ((a.isInf = true ∧ b.isZero = true) ∨ (a.isZero = true ∧ b.isInf = true) → p.1.isNaN = true ∧ p.2 = true) ∧
      (a.isNaN = false → b.isNaN = false → a.isZero = false → b.isZero = false → a.isInf = true ∨ b.isInf = true →
        p = (.inf (a.sign != b.sign), false)) ∧
      (a.finite = true → b.finite = true →
        p.1.finite = true ∧ p.1.rat = a.rat * b.rat ∧ p.2 = false ∧ p.1.sign = (a.sign != b.sign)) := by
  cases a with
  | nan s => simp [mulVal, FVal.isNaN, FVal.isInf, FVal.isZero, FVal.finite]
  | inf s =>
    cases b with
    | nan t => simp [mulVal, FVal.isNaN, FVal.isInf, FVal.isZero, FVal.finite]
    | inf t => simp [mulVal, FVal.isNaN, FVal.isInf, FVal.isZero, FVal.finite, FVal.sign]
    | fin t n d =>
      by_cases hn : n = 0 <;> simp [mulVal, FVal.isNaN, FVal.isInf, FVal.isZero, FVal.finite, FVal.sign, hn]
  | fin s m e =>
    cases b with
    | nan t => simp [mulVal, FVal.isNaN, FVal.isInf, FVal.isZero, FVal.finite]
    | inf t =>
      by_cases hm : m = 0 <;> simp [mulVal, FVal.isNaN, FVal.isInf, FVal.isZero, FVal.finite, FVal.sign, hm]
    | fin t n d =>
      have hrat := mulVal_fin_rat s t m n e d
      exact ⟨by simp [FVal.isNaN], by simp [FVal.isInf], by simp [FVal.isInf], fun _ _ => ⟨rfl, hrat, rfl, rfl⟩⟩

end Sys2Proof.Machine
end

section
/-! SUPPORT. Quotients and roots (R135, R154). -/

namespace Sys2Proof.Machine
open Sys2Proof

/-! ### Quotients and roots -/

theorem isqrtFrom_spec (n k r : Nat) (hle : r * r ≤ n) (hlt : n < (r + 2 ^ k) * (r + 2 ^ k)) :
    isqrtFrom n k r * isqrtFrom n k r ≤ n ∧ n < (isqrtFrom n k r + 1) * (isqrtFrom n k r + 1) := by
  induction k generalizing r with
  | zero => exact ⟨hle, hlt⟩
  | succ k ih =>
    rw [isqrtFrom]
    split
    · next h => exact ih _ h (by rwa [add_assoc, ← two_mul, ← pow_succ'])
    · next h => exact ih _ hle (not_le.mp h)

theorem isqrt_spec (n : Nat) : isqrt n * isqrt n ≤ n ∧ n < (isqrt n + 1) * (isqrt n + 1) := by
  refine isqrtFrom_spec n _ 0 (Nat.zero_le n) ?_
  rw [zero_add, ← pow_add]
  exact Nat.lt_log2_self.trans_le (Nat.pow_le_pow_right two_pos (by omega))

/-- A sticky bit below an integer of 60 bits or more: no number of 60 significant bits tells Q and the bit from y. -/
theorem sticky_cut {Q s : Nat} (hQ : 2 ^ 59 ≤ Q) {y : ℝ} (hle : (Q : ℝ) ≤ y) (hlt : y < Q + 1)
    (hs : s = if (Q : ℝ) = y then 0 else 1) {n : Nat} (hn : n < 2 ^ 60) (k : Int) :
    (dyad n k < dyad (Q * 2 + s) (-1) ↔ (dyad n k : ℝ) < y) ∧ (dyad n k = dyad (Q * 2 + s) (-1) ↔ (dyad n k : ℝ) = y) := by
  have hV : dyad (Q * 2 + s) (-1) = Q + (s : Rat) / 2 := by
    rw [dyad, zpow_neg_one]
    push_cast
    ring
  rw [hV]
  rcases lt_or_ge k 0 with hk | hk
  · have hsmall : dyad n k < Q := by
      have h1 : dyad n k < dyad (2 ^ 60) k := dyad_lt_dyad.mpr hn
      have h2 : dyad (2 ^ 60) k ≤ 2 ^ (59 : Int) := by
        rw [← one_mul (2 ^ 60), dyad_shift, dyad_one]
        exact zpow_le_zpow_right₀ one_le_two (by push_cast; omega)
      have h3 : ((2 : Rat) ^ (59 : Int)) ≤ Q := by exact_mod_cast hQ
      linarith
    have hs0 : (0 : Rat) ≤ s := Nat.cast_nonneg s
    have hsmall' : (dyad n k : ℝ) < Q := by exact_mod_cast hsmall
    exact ⟨iff_of_true (by linarith) (by linarith), iff_of_false (by linarith) (by linarith)⟩
  · obtain ⟨N, hN⟩ : ∃ N : Nat, dyad n k = N := ⟨n * 2 ^ k.toNat, by
      rw [dyad_rescale n hk, sub_zero, dyad, zpow_zero, mul_one]⟩
    rw [hN, Rat.cast_natCast]
    by_cases hy : (Q : ℝ) = y
    · rw [hs, if_pos hy, ← hy]
      norm_num
    · rw [hs, if_neg hy]
      have hQy : (Q : ℝ) < y := lt_of_le_of_ne hle hy
      have hcast1 : (N : Rat) ≤ Q ↔ N ≤ Q := Nat.cast_le
      have hcast2 : (N : ℝ) ≤ Q ↔ N ≤ Q := Nat.cast_le
      have hcast3 : (Q : Rat) + 1 ≤ N ↔ Q + 1 ≤ N := by exact_mod_cast Iff.rfl
      have hcast4 : (Q : ℝ) + 1 ≤ N ↔ Q + 1 ≤ N := by exact_mod_cast Iff.rfl
      rcases Nat.lt_or_ge Q N with h | h
      · have h3 := hcast3.mpr h
        have h4 := hcast4.mpr h
        rw [Nat.cast_one]
        exact ⟨iff_of_false (by linarith) (by linarith), iff_of_false (by linarith) (by linarith)⟩
      · have h1 := hcast1.mpr h
        have h2 := hcast2.mpr h
        rw [Nat.cast_one]
        exact ⟨iff_of_true (by linarith) (by linarith), iff_of_false (by linarith) (by linarith)⟩

/-- The same in units of 2^E. -/
theorem sticky_cut_scaled {Q s : Nat} (hQ : 2 ^ 59 ≤ Q) {y : ℝ} (hle : (Q : ℝ) ≤ y) (hlt : y < Q + 1)
    (hs : s = if (Q : ℝ) = y then 0 else 1) {n : Nat} (hn : n < 2 ^ 60) (k E : Int) :
    (dyad n k < dyad (Q * 2 + s) (E - 1) ↔ (dyad n k : ℝ) < y * 2 ^ E) ∧
      (dyad n k = dyad (Q * 2 + s) (E - 1) ↔ (dyad n k : ℝ) = y * 2 ^ E) := by
  obtain ⟨h1, h2⟩ := sticky_cut hQ hle hlt hs hn (k - E)
  have hE := two_zpow_pos E
  have hE' : (0 : ℝ) < 2 ^ E := zpow_pos two_pos E
  have hz : dyad n k = dyad n (k - E) * 2 ^ E := by rw [dyad_mul_zpow, sub_add_cancel]
  have hz' : (dyad n k : ℝ) = dyad n (k - E) * 2 ^ E := by rw [hz]; push_cast; rfl
  have hV : dyad (Q * 2 + s) (E - 1) = dyad (Q * 2 + s) (-1) * 2 ^ E := by rw [dyad_mul_zpow]; congr 1; ring
  rw [hz', hz, hV, mul_lt_mul_iff_left₀ hE, mul_lt_mul_iff_left₀ hE', mul_left_inj' hE.ne', mul_left_inj' hE'.ne']
  exact ⟨h1, h2⟩

/-- What O19 asks of a quotient or a root: no condition, its sign, and the magnitude told from no number of 60 significant bits. -/
def Stands (v : FVal × Flags) (neg : Bool) (less same : Rat → Prop) : Prop :=
  v.2 = {} ∧ v.1.finite = true ∧ v.1.sign = neg ∧ ∀ (n : Nat) (k : Int), n < 2 ^ 60 →
    (dyad n k < gap 0 v.1.rat ↔ less (dyad n k)) ∧ (dyad n k = gap 0 v.1.rat ↔ same (dyad n k))

theorem stands_of_sticky {Q s : Nat} (hQ : 2 ^ 59 ≤ Q) {y : ℝ} (hle : (Q : ℝ) ≤ y) (hlt : y < Q + 1)
    (hs : s = if (Q : ℝ) = y then 0 else 1) (E : Int) (neg : Bool) {less same : Rat → Prop}
    (hless : ∀ z : Rat, 0 ≤ z → ((z : ℝ) < y * 2 ^ E ↔ less z)) (hsame : ∀ z : Rat, 0 ≤ z → ((z : ℝ) = y * 2 ^ E ↔ same z)) :
    Stands (.fin neg (Q * 2 + s) (E - 1), {}) neg less same := by
  refine ⟨rfl, rfl, rfl, fun n k hn => ?_⟩
  obtain ⟨h1, h2⟩ := sticky_cut_scaled hQ hle hlt hs hn k E
  rw [gap_zero, abs_rat_fin, h1, h2]
  exact ⟨hless _ (dyad_nonneg n k), hsame _ (dyad_nonneg n k)⟩

theorem dyad_cast (m : Nat) (e : Int) : (dyad m e : ℝ) = m * 2 ^ e := by
  rw [dyad]
  push_cast
  rfl

/-- The quotient of finite values that are not 0 (R135). -/
theorem divVal_stands (s t : Bool) {m n : Nat} (e d : Int) (hm : m ≠ 0) (hn : n ≠ 0) :
    Stands (divVal (.fin s m e) (.fin t n d)) (s != t) (fun x => x * dyad n d < dyad m e) (fun x => x * dyad n d = dyad m e) := by
  obtain ⟨K, hK⟩ : ∃ K, Nat.log2 n + 80 = K := ⟨_, rfl⟩
  have hdiv : divVal (.fin s m e) (.fin t n d) =
      (.fin (s != t) (m * 2 ^ K / n * 2 + (if m * 2 ^ K % n = 0 then 0 else 1)) ((e - d - K) - 1), {}) := by
    rw [← hK]
    exact (if_neg hn).trans (if_neg hm)
  have hn0 : (0 : ℝ) < n := by exact_mod_cast Nat.pos_of_ne_zero hn
  have hfloor : ((m * 2 ^ K / n : Nat) : ℝ) = ⌊((m * 2 ^ K : Nat) : ℝ) / n⌋₊ := by rw [Nat.floor_div_eq_div]
  have hpos : (0 : ℝ) ≤ ((m * 2 ^ K : Nat) : ℝ) / n := by positivity
  have hnd : (0 : ℝ) < n * 2 ^ d := mul_pos hn0 (zpow_pos two_pos d)
  have hy : ((m * 2 ^ K : Nat) : ℝ) / n * 2 ^ (e - d - K) = (m * 2 ^ e) / (n * 2 ^ d) := by
    rw [zpow_sub₀ two_ne_zero, zpow_sub₀ two_ne_zero, zpow_natCast]
    push_cast
    field_simp
  rw [hdiv]
  refine stands_of_sticky (y := ((m * 2 ^ K : Nat) : ℝ) / n) ?_ ?_ ?_ ?_ _ _ (fun z hz => ?_) (fun z hz => ?_)
  · rw [Nat.le_div_iff_mul_le (Nat.pos_of_ne_zero hn)]
    calc 2 ^ 59 * n ≤ 2 ^ 59 * 2 ^ (Nat.log2 n + 1) := Nat.mul_le_mul_left _ Nat.lt_log2_self.le
      _ = 2 ^ (Nat.log2 n + 60) := by rw [← pow_add]; congr 1; omega
      _ ≤ 2 ^ K := Nat.pow_le_pow_right two_pos (by omega)
      _ ≤ m * 2 ^ K := Nat.le_mul_of_pos_left _ (Nat.pos_of_ne_zero hm)
  · rw [hfloor]
    exact Nat.floor_le hpos
  · rw [hfloor]
    exact Nat.lt_floor_add_one _
  · congr 1
    rw [eq_iff_iff, ← Nat.dvd_iff_mod_eq_zero, eq_div_iff hn0.ne']
    constructor
    · intro h
      exact_mod_cast Nat.div_mul_cancel h
    · intro h
      exact ⟨m * 2 ^ K / n, by rw [mul_comm n]; exact_mod_cast h.symm⟩
  · rw [hy, lt_div_iff₀ hnd, ← dyad_cast, ← dyad_cast]
    exact_mod_cast Iff.rfl
  · rw [hy, eq_div_iff hnd.ne', ← dyad_cast, ← dyad_cast]
    exact_mod_cast Iff.rfl

/-- Order to a root by the squares. -/
theorem lt_iff_mul_self_lt {z : Rat} (hz : 0 ≤ z) {w : ℝ} (hw : 0 ≤ w) :
    ((z : ℝ) < w ↔ ((z * z : Rat) : ℝ) < w * w) ∧ ((z : ℝ) = w ↔ ((z * z : Rat) : ℝ) = w * w) := by
  have hz' : (0 : ℝ) ≤ z := by exact_mod_cast hz
  rw [Rat.cast_mul]
  exact ⟨(mul_self_lt_mul_self_iff hz' hw), (mul_self_inj hz' hw).symm⟩

/-- The root of a finite value above 0 (R135, R154). -/
theorem sqrtVal_stands {m : Nat} (e : Int) (hm : m ≠ 0) :
    Stands (sqrtVal (.fin false m e)) false (fun x => x * x < dyad m e) (fun x => x * x = dyad m e) := by
  obtain ⟨K, hK⟩ : ∃ K, 160 + (e % 2).toNat = K := ⟨_, rfl⟩
  have hsqrt : sqrtVal (.fin false m e) = (.fin false (isqrt (m * 2 ^ K) * 2 +
      (if isqrt (m * 2 ^ K) * isqrt (m * 2 ^ K) = m * 2 ^ K then 0 else 1)) ((e - K) / 2 - 1), {}) := by
    rw [← hK]
    exact (if_neg hm).trans (if_neg Bool.false_ne_true)
  obtain ⟨hle, hlt⟩ := isqrt_spec (m * 2 ^ K)
  have hw : √((m * 2 ^ K : Nat) : ℝ) * 2 ^ ((e - K) / 2) * (√((m * 2 ^ K : Nat) : ℝ) * 2 ^ ((e - K) / 2)) = (dyad m e : ℝ) := by
    rw [mul_mul_mul_comm, Real.mul_self_sqrt (Nat.cast_nonneg _), ← zpow_add₀ two_ne_zero,
      show (e - K) / 2 + (e - K) / 2 = e - K by omega, dyad_cast, zpow_sub₀ two_ne_zero, zpow_natCast]
    push_cast
    field_simp
  have hw0 : 0 ≤ √((m * 2 ^ K : Nat) : ℝ) * 2 ^ ((e - K) / 2) := mul_nonneg (Real.sqrt_nonneg _) (zpow_nonneg zero_le_two _)
  rw [hsqrt]
  generalize hr : isqrt (m * 2 ^ K) = r at *
  generalize hX : m * 2 ^ K = X at *
  refine stands_of_sticky (y := √(X : ℝ)) ?_ ?_ ?_ ?_ _ _ (fun z hz => ?_) (fun z hz => ?_)
  · by_contra hsmall
    have h1 : (r + 1) * (r + 1) ≤ 2 ^ 59 * 2 ^ 59 := Nat.mul_le_mul (by omega) (by omega)
    have h2 : 2 ^ 160 ≤ X := by
      rw [← hX]
      exact (Nat.pow_le_pow_right two_pos (by omega)).trans (Nat.le_mul_of_pos_left _ (Nat.pos_of_ne_zero hm))
    omega
  · exact Real.le_sqrt_of_sq_le (by rw [sq]; exact_mod_cast hle)
  · exact (Real.sqrt_lt' (by positivity)).mpr (by rw [sq]; exact_mod_cast hlt)
  · congr 1
    rw [eq_iff_iff, eq_comm (a := r * r), eq_comm (a := (r : ℝ)), Real.sqrt_eq_iff_mul_self_eq (Nat.cast_nonneg _) (Nat.cast_nonneg _)]
    exact_mod_cast Iff.rfl
  · rw [(lt_iff_mul_self_lt hz hw0).1, hw]
    exact_mod_cast Iff.rfl
  · rw [(lt_iff_mul_self_lt hz hw0).2, hw]
    exact_mod_cast Iff.rfl

/-- The reciprocal root of a finite value above 0 (R154). -/
theorem rsqrtVal_stands {m : Nat} (e : Int) (hm : m ≠ 0) :
    Stands (rsqrtVal (.fin false m e)) false (fun x => x * x * dyad m e < 1) (fun x => x * x * dyad m e = 1) := by
  obtain ⟨K, hK⟩ : ∃ K, 2 * (Nat.log2 m + 100) + (e % 2).toNat = K := ⟨_, rfl⟩
  have hrsqrt : rsqrtVal (.fin false m e) = (.fin false (isqrt (2 ^ K / m) * 2 +
      (if isqrt (2 ^ K / m) * isqrt (2 ^ K / m) * m = 2 ^ K then 0 else 1)) (-((e + K) / 2) - 1), {}) := by
    rw [← hK]
    exact (if_neg hm).trans (if_neg Bool.false_ne_true)
  obtain ⟨hle, hlt⟩ := isqrt_spec (2 ^ K / m)
  have hm0 : (0 : ℝ) < m := by exact_mod_cast Nat.pos_of_ne_zero hm
  have hY : (0 : ℝ) ≤ 2 ^ K / m := by positivity
  have hfloor : ((2 ^ K / m : Nat) : ℝ) ≤ 2 ^ K / m := by
    have := Nat.cast_div_le (α := ℝ) (m := 2 ^ K) (n := m)
    exact_mod_cast this
  have hfloor' : (2 : ℝ) ^ K / m < (2 ^ K / m : Nat) + 1 := by
    rw [div_lt_iff₀ hm0]
    have := Nat.lt_mul_of_div_lt (Nat.lt_succ_self (2 ^ K / m)) (Nat.pos_of_ne_zero hm)
    exact_mod_cast this
  have hdy : (0 : ℝ) < dyad m e := by exact_mod_cast dyad_pos e (Nat.pos_of_ne_zero hm)
  have hw : √((2 : ℝ) ^ K / m) * 2 ^ (-((e + K) / 2)) * (√((2 : ℝ) ^ K / m) * 2 ^ (-((e + K) / 2))) = 1 / (dyad m e : ℝ) := by
    rw [mul_mul_mul_comm, Real.mul_self_sqrt hY, ← zpow_add₀ two_ne_zero,
      show -((e + K) / 2) + -((e + K) / 2) = -(e + K) by omega, dyad_cast, zpow_neg, zpow_add₀ two_ne_zero, zpow_natCast]
    field_simp
  have hw0 : 0 ≤ √((2 : ℝ) ^ K / m) * 2 ^ (-((e + K) / 2)) := mul_nonneg (Real.sqrt_nonneg _) (zpow_nonneg zero_le_two _)
  have hbig : 2 ^ 160 ≤ 2 ^ K / m := by
    rw [Nat.le_div_iff_mul_le (Nat.pos_of_ne_zero hm)]
    calc 2 ^ 160 * m ≤ 2 ^ 160 * 2 ^ (Nat.log2 m + 1) := Nat.mul_le_mul_left _ Nat.lt_log2_self.le
      _ = 2 ^ (Nat.log2 m + 161) := by rw [← pow_add]; congr 1; omega
      _ ≤ 2 ^ K := Nat.pow_le_pow_right two_pos (by omega)
  rw [hrsqrt]
  generalize isqrt (2 ^ K / m) = r at *
  refine stands_of_sticky (y := √((2 : ℝ) ^ K / m)) ?_ ?_ ?_ ?_ _ _ (fun z hz => ?_) (fun z hz => ?_)
  · by_contra hsmall
    have h1 : (r + 1) * (r + 1) ≤ 2 ^ 59 * 2 ^ 59 := Nat.mul_le_mul (by omega) (by omega)
    omega
  · refine Real.le_sqrt_of_sq_le (le_trans ?_ hfloor)
    rw [sq]
    exact_mod_cast hle
  · refine (Real.sqrt_lt' (by positivity)).mpr (hfloor'.trans_le ?_)
    rw [sq]
    exact_mod_cast hlt
  · congr 1
    rw [eq_iff_iff, eq_comm (a := (r : ℝ)), Real.sqrt_eq_iff_mul_self_eq hY (Nat.cast_nonneg _), div_eq_iff hm0.ne', eq_comm]
    exact_mod_cast Iff.rfl
  · rw [(lt_iff_mul_self_lt hz hw0).1, hw, lt_div_iff₀ hdy]
    exact_mod_cast Iff.rfl
  · rw [(lt_iff_mul_self_lt hz hw0).2, hw, eq_div_iff hdy.ne']
    exact_mod_cast Iff.rfl

end Sys2Proof.Machine
end

section
/-! SUPPORT. The clauses about operands and integers of O19. -/

namespace Sys2Proof.Machine
open Sys2Proof

/-! ### The clauses of O19 -/

theorem special_eq_hasSpecial (f : Fmt) : ((f == .fp32 || f == .fp16 || f == .bf16) || f == .e5m2) = hasSpecial f := by
  cases f <;> rfl

/-- Special operands of a quotient (R135). -/
theorem divVal_special (a b : FVal) :
    let nan (v : FVal × Flags) (f : Flags) : Prop := v.1.isNaN = true ∧ v.2 = f
    let zero (v : FVal × Flags) (neg : Bool) : Prop := v.1.isZero = true ∧ v.1.sign = neg ∧ v.2 = {}
    let neg := a.sign != b.sign
    let q := divVal a b
    (a.isNaN = true ∨ b.isNaN = true → nan q {}) ∧
      (a.isInf = true → b.isInf = true → nan q nvFlag) ∧
      (a.isInf = true → b.finite = true → q = (.inf neg, {})) ∧
      (a.finite = true → b.isInf = true → zero q neg) ∧
      (a.isZero = true → b.isZero = true → nan q nvFlag) ∧
      (a.isZero = true → b.finite = true → b.isZero = false → zero q neg) ∧
      (a.finite = true → a.isZero = false → b.isZero = true → q = (.inf neg, { dz := true })) ∧
      (a.finite = true → a.isZero = false → b.finite = true → b.isZero = false →
        Stands q neg (fun x => x * gap 0 b.rat < gap 0 a.rat) (fun x => x * gap 0 b.rat = gap 0 a.rat)) := by
  cases a with
  | nan s => simp [divVal, FVal.isNaN, FVal.isInf, FVal.isZero, FVal.finite]
  | inf s =>
    cases b with
    | nan t => simp [divVal, FVal.isNaN, FVal.isInf, FVal.isZero, FVal.finite]
    | inf t => simp [divVal, FVal.isNaN, FVal.isInf, FVal.isZero, FVal.finite]
    | fin t n d => simp [divVal, FVal.isNaN, FVal.isInf, FVal.isZero, FVal.finite, FVal.sign]
  | fin s m e =>
    cases b with
    | nan t => simp [divVal, FVal.isNaN, FVal.isInf, FVal.isZero, FVal.finite]
    | inf t => simp [divVal, FVal.isNaN, FVal.isInf, FVal.isZero, FVal.finite, FVal.sign]
    | fin t n d =>
      by_cases hm : m = 0
      · by_cases hn : n = 0 <;> simp [divVal, FVal.isNaN, FVal.isInf, FVal.isZero, FVal.finite, FVal.sign, hm, hn]
      · by_cases hn : n = 0
        · simp [divVal, FVal.isNaN, FVal.isInf, FVal.isZero, FVal.finite, FVal.sign, hm, hn]
        · have h := divVal_stands s t e d hm hn
          simpa [FVal.isNaN, FVal.isInf, FVal.isZero, FVal.finite, FVal.sign, hm, hn, gap_zero, abs_rat_fin] using h

/-- Special operands of the roots (R135, R154), and the roots of the others. -/
theorem roots_spec (a : FVal) :
    let nan (v : FVal × Flags) (f : Flags) : Prop := v.1.isNaN = true ∧ v.2 = f
    let zero (v : FVal × Flags) (neg : Bool) : Prop := v.1.isZero = true ∧ v.1.sign = neg ∧ v.2 = {}
    let r := sqrtVal a
    let i := rsqrtVal a
    (a.isNaN = true → nan r {} ∧ nan i {}) ∧
      (a = .inf false → r = (.inf false, {}) ∧ zero i false) ∧
      (a.isZero = true → zero r a.sign ∧ i = (.inf a.sign, { dz := true })) ∧
      (a.isNaN = false → a.isZero = false → a.sign = true → nan r nvFlag ∧ nan i nvFlag) ∧
      (a.finite = true → a.isZero = false → a.sign = false →
        Stands r false (fun x => x * x < a.rat) (fun x => x * x = a.rat) ∧
        Stands i false (fun x => x * x * a.rat < 1) (fun x => x * x * a.rat = 1)) := by
  cases a with
  | nan s => simp [sqrtVal, rsqrtVal, FVal.isNaN, FVal.isZero, FVal.finite]
  | inf s => cases s <;> simp [sqrtVal, rsqrtVal, FVal.isNaN, FVal.isZero, FVal.finite, FVal.sign]
  | fin s m e =>
    by_cases hm : m = 0
    · simp [sqrtVal, rsqrtVal, FVal.isNaN, FVal.isZero, FVal.finite, FVal.sign, hm]
    · cases s with
      | true => simp [sqrtVal, rsqrtVal, FVal.isNaN, FVal.isZero, FVal.finite, FVal.sign, hm]
      | false =>
        have h1 := sqrtVal_stands e hm
        have h2 := rsqrtVal_stands e hm
        simpa [FVal.isNaN, FVal.isZero, FVal.finite, FVal.sign, hm, rat_fin, signFactor_false] using And.intro h1 h2

/-- A finite value rounded to an integer format (R33). -/
theorem roundToInt_spec {f : Fmt} (hf : isIntFmt f = true) (c : RCtx) {v : FVal} (hv : v.finite = true) :
    let x := v.rat
    let whole : Int := (gap 0 x).floor
    ∃ n : Int,
      roundToInt f c v = (if n < (intRange f).1 then ⟨wrapInt f.width (intRange f).1, nvFlag, false⟩
        else if (intRange f).2 < n then ⟨wrapInt f.width (intRange f).2, nvFlag, false⟩
        else ⟨wrapInt f.width n, { nx := decide ((n : Rat) ≠ x) }, false⟩) ∧
      gap n x < 1 ∧
      (c.mode = .rdn → (n : Rat) ≤ x) ∧ (c.mode = .rup → x ≤ n) ∧ (c.mode = .rtz → gap 0 n ≤ gap 0 x) ∧
      (c.mode = .rne ∨ c.mode = .rna → gap n x ≤ 1 / 2 ∧
        (gap n x = 1 / 2 → if c.mode = .rne then n % 2 = 0 else gap 0 x < gap 0 n)) ∧
      (c.mode = .rsr → n = (if x < 0 then -1 else 1) *
        (if (c.draw : Int) < ((gap 0 x - whole) * 65536).floor then whole + 1 else whole)) := by
  obtain ⟨neg, m, e, rfl⟩ := fin_of_finite hv
  have ht := dyad_nonneg m e
  have hlo : (0 : Rat) ≤ ⌊dyad m e⌋₊ := Nat.cast_nonneg _
  have hle := Nat.floor_le ht
  have hlt := Nat.lt_floor_add_one (dyad m e)
  intro x whole
  refine ⟨roundedInt c.mode neg c.draw (dyad m e), roundToInt_fin hf c neg m e, ?_⟩
  have hx : x = signFactor neg * dyad m e := rat_fin ..
  have hmag : gap 0 x = dyad m e := by rw [gap_zero, hx, abs_signFactor_mul neg ht]
  simp only [whole, hmag]
  simp only [gap_zero]
  simp only [gap_eq_abs, hx]
  refine ⟨roundedInt_near ht neg c.draw c.mode, fun h => ?_, fun h => ?_, fun h => ?_, fun h => ?_, fun h => ?_⟩
  · rw [h, roundedInt_cast]
    exact (rounded_rdn hlo hle hlt neg c.draw _).1
  · rw [h, roundedInt_cast]
    exact (rounded_rup hlo hle hlt neg c.draw _).1
  · rw [h, roundedInt_cast]
    exact (rounded_rtz hlo hle hlt neg c.draw _).1
  · exact roundedInt_nearest ht neg c.draw h
  · rw [h]
    exact roundedInt_rsr ht neg c.draw

theorem wrapInt_zero (n : Nat) : wrapInt n 0 = 0 := by simp [wrapInt]

theorem next_eq {f : Fmt} (hf : isFloatFmt f = true) :
    2 * (decodeFmt f (maxCode f)).1.rat - (decodeFmt f (maxCode f - 1)).1.rat = codeMag (fmtMb f) (fmtEmin f) (maxCode f + 1) := by
  obtain ⟨h1, h2⟩ := maxCode_fields hf
  have h := codeMag_succ_add_pred (emin := fmtEmin f) h1 h2
  rw [decodeFmt_code hf le_rfl, decodeFmt_code hf (Nat.sub_le _ _), codeVal_rat, codeVal_rat, signFactor_false, signFactor_false]
  linarith

end Sys2Proof.Machine
end

section
/-! The conventions: rounding (O19). -/

namespace Sys2Proof.Machine
open Sys2Proof

theorem maxCode_rat {f : Fmt} (hf : isFloatFmt f = true) :
    (decodeFmt f (maxCode f)).1.rat = codeMag (fmtMb f) (fmtEmin f) (maxCode f) := by
  rw [decodeFmt_code hf le_rfl, codeVal_rat, signFactor_false]

theorem unit_rat {f : Fmt} (hf : isFloatFmt f = true) : (decodeFmt f 1).1.rat = codeMag (fmtMb f) (fmtEmin f) 1 := by
  have h : 1 ≤ maxCode f := Nat.one_le_two_pow.trans (maxCode_fields hf).1
  rw [decodeFmt_code hf h, codeVal_rat, signFactor_false]

/-- The exponents of the least normal values (R19). -/
theorem fmtEmin_eq : ∀ {f : Fmt}, isFloatFmt f = true →
    fmtEmin f = match f with
      | .fp32 | .bf16 => -126
      | .fp16 | .e5m2 => -14
      | .e4m3 => -6
      | .e3m2 => -2
      | _ => 0 := by
  intro f hf
  rcases floatFmt_cases hf with rfl | rfl | rfl | rfl | rfl | rfl | rfl | rfl <;> rfl

/-- The canonical NaN codes (R22). -/
theorem canonNaN_eq : ∀ {f : Fmt}, isFloatFmt f = true → hasSpecial f = true →
    canonNaN f = match f with
      | .fp32 => 0x7FC00000
      | .fp16 => 0x7E00
      | .bf16 => 0x7FC0
      | _ => 0x7E := by
  intro f hf
  rcases floatFmt_cases hf with rfl | rfl | rfl | rfl | rfl | rfl | rfl | rfl <;> decide

theorem overflowsToInf_modeOf (f : Fmt) (c : RCtx) (x : Rat) (neg : Bool) :
    overflowsToInf (modeOf f c x) neg = overflowsToInf c.mode neg := by
  unfold modeOf
  split
  · next h => rw [h.1]; rfl
  · rfl

/-- Settles O19: one lemma for each clause. -/
theorem floatRounding : Obligations.FloatRounding := by
  unfold Obligations.FloatRounding
  refine ⟨fun mode ts a b => ⟨?_, mulVal_spec a b⟩, fun a b => ?_, fun f c v hf hftz hv hx => roundFloat_modes hf c hftz hv hx,
    fun f c v hf => ?_, fun f c v hf => ?_⟩
  · rw [← zerosOf_true]
    exact exactSum_spec _ ts
  · obtain ⟨h1, h2, h3, h4, h5, h6, h7, h8⟩ := divVal_special a b
    obtain ⟨g1, g2, g3, g4, g5⟩ := roots_spec a
    exact ⟨h1, h2, h3, h4, h5, h6, h7, h8, g1, g2, g3, g4, g5⟩
  · intro r wide special largest mag top next half tooBig infinite least normal unit below reaches
    have hspecial : special = hasSpecial f := special_eq_hasSpecial f
    have hnormal : normal = 2 ^ fmtEmin f := congrArg (fun k : Int => (2 : Rat) ^ k) (fmtEmin_eq hf).symm
    refine ⟨fun x hx hs => ?_, fun hv hs => ?_, fun hv hs => ?_, fun hv => ?_, fun hv hftz => ?_, fun hv hftz => ?_⟩
    · rw [hspecial] at hs
      rcases List.mem_pair.mp hx with rfl | rfl
      · exact roundFloat_inf hf hs c true
      · exact roundFloat_inf hf hs c false
    · rw [hspecial] at hs
      have hr : r = ⟨canonNaN f, {}, false⟩ := roundFloat_nan hs c hv
      exact hr.trans (congrArg (Rounded.mk · {} false) (canonNaN_eq hf hs))
    · rw [hspecial] at hs
      exact roundFloat_nonfinite hs c hv
    · obtain ⟨neg, m, e, rfl⟩ := fin_of_finite hv
      obtain ⟨hp, hnv, hdz, hov, hbig, hlast⟩ := roundFloat_overflow hf c neg m e
      have hmag : mag = dyad m e := by rw [show mag = |_| from gap_zero _, abs_rat_fin]
      have htop : top = codeMag (fmtMb f) (fmtEmin f) (maxCode f) := maxCode_rat hf
      have hnext : next = codeMag (fmtMb f) (fmtEmin f) (maxCode f + 1) := next_eq hf
      have htoo : tooBig ↔ TooBig c.mode neg (maxCode f % 2 = 1) (codeMag (fmtMb f) (fmtEmin f) (maxCode f))
          (codeMag (fmtMb f) (fmtEmin f) (maxCode f + 1)) (dyad m e) := by
        rw [← htop, ← hnext, ← hmag]
        rfl
      rw [← htoo] at hov hbig hlast
      rw [← hmag, ← htop] at hlast
      refine ⟨hp, hnv, hdz, hov, fun hb => ?_, hlast⟩
      have hr : r = _ := hbig hb
      have hcode := overflowCode_eq hf (modeOf f c (dyad m e)) c.sat neg
      rw [overflowsToInf_modeOf, ← hspecial] at hcode
      rw [hr]
      exact ⟨rfl, hcode⟩
    · obtain ⟨neg, m, e, rfl⟩ := fin_of_finite hv
      have h := roundFloat_underflow hf c neg m e hftz
      have hmag : mag = dyad m e := by rw [show mag = |_| from gap_zero _, abs_rat_fin]
      have hunit : unit = codeMag (fmtMb f) (fmtEmin f) 1 := unit_rat hf
      rw [← hnormal, ← hunit, ← hmag] at h
      exact h
    · obtain ⟨neg, m, e, rfl⟩ := fin_of_finite hv
      have h := roundFloat_ftz hf c neg m e hftz
      intro q x
      have hx : x = |(decodeFmt f q.code).1.rat| := gap_zero _
      rw [hnormal, hx]
      exact h
  · refine ⟨fun hv => ?_, fun hv => ?_, fun hv => roundToInt_spec hf c hv⟩
    · cases v with
      | nan s => simp only [roundToInt, wrapInt_zero]
      | inf _ => cases hv
      | fin _ _ _ => cases hv
    · cases v with
      | nan _ => cases hv
      | inf s =>
        have h : roundToInt f c (.inf s) = ⟨wrapInt (codeBits f) (if s then (intRange f).1 else (intRange f).2), nvFlag, true⟩ := rfl
        rw [h, codeBits_int hf]
        rfl
      | fin _ _ _ => cases hv

end Sys2Proof.Machine
end
